-- ==== Sys2Proof/Word.lean ====
section
/-! DEFINITION. The word types of the Troryn Bruaska: 64-bit scalar words, 32-bit lanes and parameter
words, bytes, and the names of the four strands (R40, R100). -/

namespace Sys2Proof

/-- A scalar register word, a virtual address or a control-register word (R40). -/
abbrev Word := BitVec 64

/-- A vector lane, a parameter register, an accumulator word or an instruction word (R40, R100). -/
abbrev Lane := BitVec 32

/-- One byte of memory, scratchpad or weight buffer. -/
abbrev Byte := BitVec 8

/-- The four strands of a core, each with its own instruction stream (R65, R100). -/
inductive Strand where
  | S | V | M | C
  deriving DecidableEq, Repr

/-- The strand's number in TCAUSE.STRAND and in BRKC (R58, R60). -/
def Strand.num : Strand → Nat
  | .S => 0 | .V => 1 | .M => 2 | .C => 3

/-- The strand with a given number. -/
def Strand.ofNum (n : Nat) : Strand :=
  if n % 4 = 0 then .S else if n % 4 = 1 then .V else if n % 4 = 2 then .M else .C

end Sys2Proof
end

