-- ==== Sys2Proof/Machine/Bits.lean ====
section
/-! DEFINITION. Bit fields, byte order, sign extension and finite tables: the helpers that every other file
of Machine uses. -/

namespace Sys2Proof.Machine

/-- The vector whose entry i is f i. -/
def tab {α : Type} (n : Nat) (f : Nat → α) : Vector α n :=
  ⟨((List.range n).map f).toArray, by simp⟩

/-- Entry i of a vector, with a given value when i is out of range. -/
def vget {α : Type} {n : Nat} (v : Vector α n) (i : Nat) (d : α) : α := v.toArray.getD i d

/-- The vector with entry i replaced; unchanged when i is out of range. -/
def vset {α : Type} {n : Nat} (v : Vector α n) (i : Nat) (a : α) : Vector α n := v.setIfInBounds i a

/-- The vector whose entry i is f of entry i. -/
def vmap {α β : Type} {n : Nat} (v : Vector α n) (f : α → β) : Vector β n :=
  ⟨(v.toArray.toList.map f).toArray, by simp⟩

/-- A finite table: what keys hold, for the few keys that hold something (plain data). -/
abbrev Table (α : Type) := List (Nat × α)

/-- What a key holds, or d. -/
def Table.get {α : Type} : Table α → Nat → α → α
  | [], _, d => d
  | (a, x) :: t, k, d => if a = k then x else Table.get t k d

/-- What a key holds, if anything. -/
def Table.find {α : Type} : Table α → Nat → Option α
  | [], _ => none
  | (a, x) :: t, k => if a = k then some x else Table.find t k

/-- The table with one key changed; new keys go in rising order. -/
def Table.set {α : Type} : Table α → Nat → α → Table α
  | [], k, v => [(k, v)]
  | (a, x) :: t, k, v =>
    if a = k then (k, v) :: t else if k < a then (k, v) :: (a, x) :: t else (a, x) :: Table.set t k v

/-- The table without a key. -/
def Table.erase {α : Type} (t : Table α) (k : Nat) : Table α := t.filter (fun e => e.1 != k)

/-- Every value changed by a function of its key. -/
def Table.mapVals {α : Type} (t : Table α) (f : Nat → α → α) : Table α := t.map (fun e => (e.1, f e.1 e.2))

/-- A rising list with one number put in. -/
def setInsert : List Nat → Nat → List Nat
  | [], k => [k]
  | a :: t, k => if a = k then a :: t else if k < a then k :: a :: t else a :: setInsert t k

/-- A list with one number taken out. -/
def setErase (l : List Nat) (k : Nat) : List Nat := l.filter (· != k)

/-- Bits [lo + len - 1 : lo] of a number. -/
def field (n lo len : Nat) : Nat := n / 2 ^ lo % 2 ^ len

/-- Bit lo of a number. -/
def bitOf (n lo : Nat) : Bool := n / 2 ^ lo % 2 == 1

/-- The 64-bit word with a field replaced. -/
def putField (w : BitVec 64) (lo len : Nat) (v : Nat) : BitVec 64 :=
  BitVec.ofNat 64 (w.toNat - field w.toNat lo len * 2 ^ lo + v % 2 ^ len * 2 ^ lo)

/-- The integer that len low bits of n hold in two's complement. -/
def signed (n len : Nat) : Int :=
  if n % 2 ^ len < 2 ^ (len - 1) then ((n % 2 ^ len : Nat) : Int) else ((n % 2 ^ len : Nat) : Int) - 2 ^ len

/-- Bytes to a number, little-endian. -/
def leNat : List (BitVec 8) → Nat
  | [] => 0
  | b :: t => b.toNat + 256 * leNat t

/-- The n low bytes of a number, little-endian. -/
def leBytes : Nat → Nat → List (BitVec 8)
  | 0, _ => []
  | n + 1, v => BitVec.ofNat 8 v :: leBytes n (v / 256)

/-- Little-endian read of len bytes of a list at an offset. -/
def leAt (b : List (BitVec 8)) (off len : Nat) : Nat := leNat ((b.drop off).take len)

/-- Are all bytes of a slice zero? -/
def zeroAt (b : List (BitVec 8)) (off len : Nat) : Bool := ((b.drop off).take len).all (· == 0)

/-- A list padded with zero bytes to a length, or cut to it. -/
def padTo (n : Nat) (b : List (BitVec 8)) : List (BitVec 8) := (b ++ List.replicate (n - b.length) 0).take n

/-- 1 for true, 0 for false. -/
def b2n (b : Bool) : Nat := if b then 1 else 0

/-- Round up division. -/
def ceilDiv (a b : Nat) : Nat := (a + b - 1) / b

/-- Clamp an integer between bounds. -/
def clampInt (lo hi v : Int) : Int := if v < lo then lo else if hi < v then hi else v

end Sys2Proof.Machine
end

