-- ==== Sys2Proof/Machine/Float.lean ====
section
/-! DEFINITION. Number formats and rounding (spec/01): a value is a NaN, an infinity or an exact sign, magnitude
and power of two; every operation is exact and is rounded once (R13). -/

namespace Sys2Proof.Machine

/-- An exact value: NaN, ±infinity, or (−1)^neg × m × 2^e. -/
inductive FVal where
  | nan
  | inf (neg : Bool)
  | fin (neg : Bool) (m : Nat) (e : Int)
  deriving DecidableEq, Repr

/-- What a format does beyond its finite values (R14, R29). -/
inductive Beyond where
  /-- Infinities and NaNs; overflow to infinity under RNE and SR. -/
  | ieee
  /-- E5M2: infinities and NaNs, but finite overflow saturates. -/
  | satInf
  /-- E4M3: one NaN magnitude, no infinity; overflow saturates, infinity converts to NaN. -/
  | satNan
  /-- MX elements: neither; overflow saturates. -/
  | none
  deriving DecidableEq, Repr

/-- A floating-point format (R14): exponent bits, fraction bits, bias, and its non-finite codes. -/
structure Fmt where
  eb : Nat
  fb : Nat
  bias : Nat
  beyond : Beyond
  deriving DecidableEq, Repr

namespace Fmt
/-- binary64. -/
def f64 : Fmt := ⟨11, 52, 1023, .ieee⟩
/-- binary32. -/
def f32 : Fmt := ⟨8, 23, 127, .ieee⟩
/-- binary16. -/
def f16 : Fmt := ⟨5, 10, 15, .ieee⟩
/-- BF16. -/
def bf16 : Fmt := ⟨8, 7, 127, .ieee⟩
/-- E4M3. -/
def e4m3 : Fmt := ⟨4, 3, 7, .satNan⟩
/-- E5M2. -/
def e5m2 : Fmt := ⟨5, 2, 15, .satInf⟩
/-- E3M2, an MX element. -/
def e3m2 : Fmt := ⟨3, 2, 3, .none⟩
/-- E2M3, an MX element. -/
def e2m3 : Fmt := ⟨2, 3, 1, .none⟩
/-- E2M1, an MX element. -/
def e2m1 : Fmt := ⟨2, 1, 1, .none⟩

/-- Width in bits. -/
def width (f : Fmt) : Nat := 1 + f.eb + f.fb

/-- The sign bit's weight. -/
def signBit (f : Fmt) : Nat := 2 ^ (f.eb + f.fb)

/-- Bits of +infinity, where the format has one. -/
def infBits (f : Fmt) : Nat := (2 ^ f.eb - 1) * 2 ^ f.fb

/-- Magnitude bits of the largest finite value (R14). -/
def maxBits (f : Fmt) : Nat :=
  match f.beyond with
  | .ieee | .satInf => f.infBits - 1
  | .satNan => f.signBit - 2
  | .none => f.signBit - 1

/-- Bits of the canonical NaN (R15); a format without NaN has none and gives 0. -/
def nanBits (f : Fmt) : Nat :=
  match f.beyond with
  | .ieee | .satInf => f.infBits + 2 ^ (f.fb - 1)
  | .satNan => f.signBit - 1
  | .none => 0

/-- The exponent of the least subnormal. -/
def eMin (f : Fmt) : Int := 1 - (f.bias : Int) - (f.fb : Int)

/-- The value of a bit pattern (R14). -/
def decode (f : Fmt) (b : Nat) : FVal :=
  let neg := bitOf b (f.eb + f.fb)
  let mag := b % f.signBit
  let e := mag / 2 ^ f.fb
  let m := mag % 2 ^ f.fb
  let fin : FVal := if e = 0 then .fin neg m f.eMin else .fin neg (m + 2 ^ f.fb) (f.eMin + (e : Int) - 1)
  match f.beyond with
  | .ieee | .satInf => if mag = f.infBits then .inf neg else if mag > f.infBits then .nan else fin
  | .satNan => if mag = f.signBit - 1 then .nan else fin
  | .none => fin

end Fmt

/-- Rounding modes (R28); SR carries the 16 random bits u of R31. -/
inductive Rnd where
  | rne | rtz
  | sr (u : Nat)
  deriving DecidableEq, Repr

/-- Does a magnitude q + r / 2^d (r below 2^d) round away from zero? `odd` is the parity of q (R28, R31). -/
def roundUp (mode : Rnd) (odd : Bool) (r d : Nat) : Bool :=
  match mode with
  | .rne => decide (2 ^ d < 2 * r) || (decide (2 * r = 2 ^ d) && odd)
  | .rtz => false
  | .sr u => decide (2 ^ 16 ≤ r * 2 ^ 16 / 2 ^ d + u)

/-- m × 2^e as a multiple of 2^q, rounded. -/
def roundAt (mode : Rnd) (m : Nat) (e q : Int) : Nat :=
  if q ≤ e then m * 2 ^ (e - q).toNat
  else
    let d := (q - e).toNat
    let k := m / 2 ^ d
    if roundUp mode (k % 2 == 1) (m % 2 ^ d) d then k + 1 else k

/-- The magnitude bits of m × 2^e rounded into a format as if its exponents had no top (R13, R28). -/
def Fmt.roundMag (f : Fmt) (mode : Rnd) (m : Nat) (e : Int) : Nat :=
  if m = 0 then 0
  else
    let q := max ((Nat.log2 m : Int) + e - f.fb) f.eMin
    let k := roundAt mode m e q
    if k < 2 ^ f.fb then k else (q - f.eMin + 1).toNat * 2 ^ f.fb + (k - 2 ^ f.fb)

/-- Sign bit of a pattern. -/
def Fmt.sgn (f : Fmt) (neg : Bool) : Nat := if neg then f.signBit else 0

/-- A value rounded once into a format (R13, R15, R28, R29). -/
def Fmt.round (f : Fmt) (mode : Rnd) : FVal → Nat
  | .nan => f.nanBits
  | .inf neg =>
    match f.beyond with
    | .ieee | .satInf => f.sgn neg + f.infBits
    | .satNan => f.nanBits
    | .none => f.sgn neg + f.maxBits
  | .fin neg m e =>
    let b := f.roundMag mode m e
    if b ≤ f.maxBits then f.sgn neg + b
    else
      match f.beyond, mode with
      | .ieee, .rtz => f.sgn neg + f.maxBits
      | .ieee, _ => f.sgn neg + f.infBits
      | _, _ => f.sgn neg + f.maxBits

namespace FVal

/-- Plus zero. -/
def zero : FVal := .fin false 0 0

/-- An integer as a value; 0 is +0. -/
def ofInt (i : Int) : FVal := .fin (decide (i < 0)) i.natAbs 0

/-- The signed magnitude of a finite value, as a multiple of 2^q with q no greater than its exponent. -/
def scaled (neg : Bool) (m : Nat) (e q : Int) : Int :=
  let v : Int := (m * 2 ^ (e - q).toNat : Nat)
  if neg then -v else v

/-- The negated value (IEEE negate; a NaN stays). -/
def neg : FVal → FVal
  | .nan => .nan
  | .inf s => .inf (!s)
  | .fin s m e => .fin (!s) m e

/-- The magnitude. -/
def abs : FVal → FVal
  | .nan => .nan
  | .inf _ => .inf false
  | .fin _ m e => .fin false m e

/-- Exact sum; an exact zero from unlike signs is +0 (R13). -/
def add : FVal → FVal → FVal
  | .nan, _ => .nan
  | _, .nan => .nan
  | .inf a, .inf b => if a = b then .inf a else .nan
  | .inf a, .fin _ _ _ => .inf a
  | .fin _ _ _, .inf b => .inf b
  | .fin a m e, .fin b n g =>
    if m = 0 ∧ n = 0 then .fin (a && b) 0 0
    else
      let q := min e g
      let s := scaled a m e q + scaled b n g q
      if s = 0 then .fin false 0 0 else .fin (decide (s < 0)) s.natAbs q

/-- Exact difference. -/
def sub (a b : FVal) : FVal := a.add b.neg

/-- Exact product; infinity times zero is a NaN (R33). -/
def mul : FVal → FVal → FVal
  | .nan, _ => .nan
  | _, .nan => .nan
  | .inf a, .inf b => .inf (a != b)
  | .inf a, .fin b m _ => if m = 0 then .nan else .inf (a != b)
  | .fin a m _, .inf b => if m = 0 then .nan else .inf (a != b)
  | .fin a m e, .fin b n g => .fin (a != b) (m * n) (e + g)

/-- A value that stands for m × 2^e with more below: one more odd bit keeps every rounding right. -/
def sticky (s : Bool) (m : Nat) (e : Int) (exact : Bool) : FVal :=
  if exact then .fin s m e else .fin s (2 * m + 1) (e - 1)

/-- Quotient with at least 64 significant bits and a sticky bit, so that one rounding is exact (R13). -/
def div : FVal → FVal → FVal
  | .nan, _ => .nan
  | _, .nan => .nan
  | .inf _, .inf _ => .nan
  | .inf a, .fin b _ _ => .inf (a != b)
  | .fin a _ _, .inf b => .fin (a != b) 0 0
  | .fin a m e, .fin b n g =>
    if n = 0 then (if m = 0 then .nan else .inf (a != b))
    else
      let k := 66 + Nat.log2 n - Nat.log2 m
      sticky (a != b) (m * 2 ^ k / n) (e - g - k) (m * 2 ^ k % n == 0)

/-- Integer square root by digits, high bit first; fuel counts digits. -/
def isqrtAux : Nat → Nat → Nat → Nat
  | 0, _, r => r
  | i + 1, n, r =>
    let t := r + 2 ^ i
    if t * t ≤ n then isqrtAux i n t else isqrtAux i n r

/-- Floor of the square root. -/
def isqrt (n : Nat) : Nat := isqrtAux (Nat.log2 n / 2 + 1) n 0

/-- Square root with a sticky bit (R32, R151). -/
def sqrt : FVal → FVal
  | .nan => .nan
  | .inf s => if s then .nan else .inf false
  | .fin s m e =>
    if m = 0 then .fin s 0 0
    else if s then .nan
    else
      let k : Nat := 140 + (e % 2).toNat
      let n := m * 2 ^ k
      let r := isqrt n
      sticky false r ((e - k) / 2) (r * r == n)

/-- Reciprocal square root with a sticky bit (R32). -/
def rsqrt : FVal → FVal
  | .nan => .nan
  | .inf s => if s then .nan else .fin false 0 0
  | .fin s m e =>
    if m = 0 then .inf s
    else if s then .nan
    else
      let k : Nat := 140 + 2 * (Nat.log2 m + 1) + (e % 2).toNat
      let r := isqrt (2 ^ k / m)
      sticky false r (-((e + k) / 2)) (r * r * m == 2 ^ k)

/-- Is the value negative by its sign? -/
def isNeg : FVal → Bool
  | .nan => false
  | .inf s => s
  | .fin s _ _ => s

/-- Is it a NaN? -/
def isNan : FVal → Bool
  | .nan => true
  | _ => false

/-- Is it finite? -/
def isFin : FVal → Bool
  | .fin _ _ _ => true
  | _ => false

/-- Is it a zero? -/
def isZero : FVal → Bool
  | .fin _ m _ => m == 0
  | _ => false

/-- Order of two values that are no NaN: −1, 0 or 1; zeros are equal. -/
def cmp : FVal → FVal → Int
  | .inf a, .inf b => if a = b then 0 else if a then -1 else 1
  | .inf a, .fin _ _ _ => if a then -1 else 1
  | .fin _ _ _, .inf b => if b then 1 else -1
  | .fin a m e, .fin b n g =>
    let q := min e g
    let d := scaled a m e q - scaled b n g q
    if d < 0 then -1 else if d = 0 then 0 else 1
  | _, _ => 0

/-- Equal; +0 = −0, any NaN gives false (R151, R186). -/
def eqv (a b : FVal) : Bool := !a.isNan && !b.isNan && cmp a b == 0

/-- Less; any NaN gives false. -/
def lt (a b : FVal) : Bool := !a.isNan && !b.isNan && cmp a b == -1

/-- Less or equal; any NaN gives false. -/
def le (a b : FVal) : Bool := !a.isNan && !b.isNan && cmp a b != 1

/-- IEEE 754-2019 minimum: NaN propagates, −0 < +0 (R35, R151). -/
def min (a b : FVal) : FVal :=
  if a.isNan || b.isNan then .nan
  else if cmp a b = 0 then (if a.isNeg then a else b)
  else if cmp a b = -1 then a else b

/-- IEEE 754-2019 maximum. -/
def max (a b : FVal) : FVal :=
  if a.isNan || b.isNan then .nan
  else if cmp a b = 0 then (if a.isNeg then b else a)
  else if cmp a b = -1 then b else a

/-- The integer that RNE or RTZ makes of a finite value (R29). -/
def toInt (mode : Rnd) (s : Bool) (m : Nat) (e : Int) : Int :=
  let k : Int := roundAt mode m e 0
  if s then -k else k

/-- Conversion to an integer range: rounded, then clamped; NaN gives 0 (R29, R151). -/
def toRange (mode : Rnd) (lo hi : Int) : FVal → Int
  | .nan => 0
  | .inf s => if s then lo else hi
  | .fin s m e => clampInt lo hi (toInt mode s m e)

/-- Floor of log2 of a positive magnitude. -/
def log2Floor (m : Nat) (e : Int) : Int := (Nat.log2 m : Int) + e

/-- Fixed-point bounds of 2^(f / 2^n) with P fraction bits: the bits of f from the top, each a square root of
the last factor (R32). -/
def exp2Aux : Nat → Nat → Nat → Nat → Nat → Nat → Nat → Nat → Nat × Nat
  | 0, _, _, _, _, _, lo, hi => (lo, hi)
  | fuel + 1, p, n, f, rl, rh, lo, hi =>
    let rl' := isqrt (rl * 2 ^ p)
    let rh' := isqrt (rh * 2 ^ p) + 1
    if n = 0 then (lo, hi)
    else if bitOf f (n - 1) then
      exp2Aux fuel p (n - 1) f rl' rh' (lo * rl' / 2 ^ p) (hi * rh' / 2 ^ p + 1)
    else exp2Aux fuel p (n - 1) f rl' rh' lo hi

/-- Bounds of 2^x for a finite x that is no integer: exponent, and fixed-point bounds with P fraction bits of a
factor in [1, 2]. Bits of the fraction below 2^−P only widen the upper bound. -/
def exp2Bounds (p : Nat) (s : Bool) (m : Nat) (e : Int) : Int × Nat × Nat :=
  let d := (-e).toNat
  let v : Int := if s then -(m : Int) else m
  let n := v / 2 ^ d
  let f := (v % 2 ^ d).toNat
  let f' := if d ≤ p then f else f / 2 ^ (d - p)
  let d' := if d ≤ p then d else p
  let (lo, hi) := exp2Aux d' p d' f' (2 * 2 ^ p) (2 * 2 ^ p) (2 ^ p) (2 ^ p)
  (n, lo, if d ≤ p then hi else hi + hi / 2 ^ p + 1)

/-- 2^x rounded by RNE into a format (R32): bounds are refined until both round alike. DEDUCED (log 9): 2^x is
irrational for a finite x that is no integer, and 512 bits decide every F32 source. -/
def exp2Round (f : Fmt) (s : Bool) (m : Nat) (e : Int) : List Nat → Nat
  | [] => 0
  | p :: t =>
    let (n, lo, hi) := exp2Bounds p s m e
    let a := f.round .rne (.fin false lo (n - p))
    let b := f.round .rne (.fin false hi (n - p))
    if a = b ∨ t = [] then a else exp2Round f s m e t

/-- exp2 of R32. -/
def exp2 (f : Fmt) : FVal → Nat
  | .nan => f.nanBits
  | .inf s => if s then 0 else f.infBits
  | .fin s m e =>
    if m = 0 then f.round .rne (.fin false 1 0)
    else if log2Floor m e ≥ 11 then (if s then 0 else f.infBits)
    else
      let d := (-e).toNat
      if e ≥ 0 ∨ m % 2 ^ d = 0 then
        let i : Int := (if e ≥ 0 then m * 2 ^ e.toNat else m / 2 ^ d : Nat)
        f.round .rne (.fin false 1 (if s then -i else i))
      else exp2Round f s m e [64, 192, 512]

/-- The leading bits of log2 y for y in [1, 2), by squaring bounds of y in fixed point with p fraction bits; it
stops early when the bounds straddle 2. Gives the bits and their count. -/
def log2Aux : Nat → Nat → Nat → Nat → Nat → Nat → Nat × Nat
  | 0, _, _, _, acc, n => (acc, n)
  | fuel + 1, p, lo, hi, acc, n =>
    let l := lo * lo / 2 ^ p
    let h := hi * hi / 2 ^ p + 1
    if 2 ^ (p + 1) ≤ l then log2Aux fuel p (l / 2) (h / 2 + 1) (2 * acc + 1) (n + 1)
    else if h < 2 ^ (p + 1) then log2Aux fuel p l h (2 * acc) (n + 1)
    else (acc, n)

/-- log2 x rounded by RNE for a positive x that is no power of two (R32; DEDUCED, log 9). -/
def log2Round (f : Fmt) (m : Nat) (e : Int) : List Nat → Nat
  | [] => 0
  | b :: t =>
    let p := 2 * b + 16
    let k := Nat.log2 m
    let y := m * 2 ^ p / 2 ^ k
    let (acc, n) := log2Aux b p y (y + 1) 0 0
    let base : Int := (e + k) * 2 ^ n + acc
    let one := f.round .rne (.fin (decide (base < 0)) base.natAbs (-n))
    let up := base + 1
    let two := f.round .rne (.fin (decide (up ≤ 0)) up.natAbs (-n))
    if one = two ∨ t = [] then one else log2Round f m e t

/-- log2 of R32. -/
def log2 (f : Fmt) : FVal → Nat
  | .nan => f.nanBits
  | .inf s => if s then f.nanBits else f.infBits
  | .fin s m e =>
    if m = 0 then f.signBit + f.infBits
    else if s then f.nanBits
    else if m = 2 ^ Nat.log2 m then f.round .rne (ofInt (e + Nat.log2 m))
    else log2Round f m e [64, 192, 512]

end FVal

/-- A binary operation in one format, rounded once. -/
def Fmt.op2 (f : Fmt) (mode : Rnd) (g : FVal → FVal → FVal) (a b : Nat) : Nat :=
  f.round mode (g (f.decode a) (f.decode b))

/-- a × b + c, exact, rounded once (R13). -/
def Fmt.fma (f : Fmt) (mode : Rnd) (a b c : Nat) : Nat :=
  f.round mode (((f.decode a).mul (f.decode b)).add (f.decode c))

/-- CGEN(key, ctr) of R30. -/
def cgen (key ctr : Nat) : Nat :=
  let x := (ctr * 0x9E3779B9 + key) % 2 ^ 32
  x ^^^ (x / 2 ^ 16)

/-- The random bits of element e under SRSEED (R31). -/
def srBits (seed : BitVec 64) (e : Nat) : Nat :=
  cgen (field seed.toNat 32 32) ((field seed.toNat 0 32 + e) % 2 ^ 32) % 2 ^ 16

/-- The three-part split of R36: the BF16 bits of a1, a2 and a3. -/
def split3 (a : FVal) : Nat × Nat × Nat :=
  match a with
  | .nan => (Fmt.bf16.nanBits, 0, 0)
  | .inf s => (Fmt.bf16.sgn s + Fmt.bf16.infBits, 0, 0)
  | .fin s m e =>
    let r := Fmt.bf16.round .rne (.fin s m e)
    let a1 := if (Fmt.bf16.decode r).isFin then r else Fmt.bf16.sgn s + Fmt.bf16.maxBits
    let d := (FVal.fin s m e).sub (Fmt.bf16.decode a1)
    let a2 := Fmt.bf16.round .rne d
    let a3 := Fmt.bf16.round .rne (d.sub (Fmt.bf16.decode a2))
    (a1, a2, a3)

/-- An E8M0 scale (R16). -/
def e8m0 (s : Nat) : FVal := if s = 0xFF then .nan else .fin false 1 ((s : Int) - 127)

/-- The value of a tagged element of one of the arithmetic tags: floats of R14 and the integers of R21. -/
def tagValue (tag : Nat) (b : Nat) : FVal :=
  match tag with
  | 1 => FVal.ofInt (signed b 32)
  | 2 => FVal.ofInt b
  | 3 => FVal.ofInt (signed b 16)
  | 4 => FVal.ofInt (signed b 8)
  | 5 => FVal.ofInt b
  | 6 => Fmt.f64.decode b
  | 7 => Fmt.f32.decode b
  | 8 => Fmt.bf16.decode b
  | 9 => Fmt.f16.decode b
  | 10 => Fmt.e4m3.decode b
  | 11 => Fmt.e5m2.decode b
  | _ => .nan

/-- The float format of a tag, for the float tags (R25). -/
def tagFmt : Nat → Option Fmt
  | 6 => some Fmt.f64
  | 7 => some Fmt.f32
  | 8 => some Fmt.bf16
  | 9 => some Fmt.f16
  | 10 => some Fmt.e4m3
  | 11 => some Fmt.e5m2
  | _ => none

/-- The bounds of an integer tag (R21). -/
def tagRange : Nat → Option (Int × Int)
  | 1 => some (-(2 ^ 31), 2 ^ 31 - 1)
  | 2 => some (0, 2 ^ 32 - 1)
  | 3 => some (-(2 ^ 15), 2 ^ 15 - 1)
  | 4 => some (-128, 127)
  | 5 => some (0, 255)
  | _ => none

end Sys2Proof.Machine
end

