-- ==== Sys2Proof/Config.lean ====
section
/-! DEFINITION. What an implementation fixes: the configuration record of R4 and R456, the variants of R1,
and the values that the manual leaves open (opaque constants without a body). -/

namespace Sys2Proof

/-- The three variants of R1. -/
inductive Variant where
  | tb640 | tb512 | tb384
  deriving DecidableEq, Repr

namespace Config

/-- Quads present in each stack, local quads 0 to n - 1 (R1). -/
def quadsPerStack : Variant → Nat
  | .tb640 => 10 | .tb512 => 8 | .tb384 => 6

/-- Present cores (R1). -/
def coreCount : Variant → Nat
  | .tb640 => 640 | .tb512 => 512 | .tb384 => 384

/-- Fabric ports present, numbered from 1 (R1). -/
def fabricPorts : Variant → Nat
  | .tb640 => 12 | .tb512 => 8 | .tb384 => 4

/-- Solve controllers present (R1). -/
def solverCount : Variant → Nat
  | .tb640 => 16 | .tb512 => 16 | .tb384 => 0

/-- Collective engines present, one per fabric port, or none (R1). -/
def collectiveCount : Variant → Nat
  | .tb640 => 12 | .tb512 => 8 | .tb384 => 0

/-- VARIANT field of UCAP (R3). -/
def variantCode : Variant → Nat
  | .tb640 => 1 | .tb512 => 2 | .tb384 => 3

/-- What the record assigns one partition (R376, R456): its quads (c div 4 numbers), counter quota Q,
floor F in W and copy-engine weight. -/
structure PartRec where
  quads  : List Nat
  quota  : Nat
  floor  : Nat
  weight : Nat
  deriving DecidableEq, Repr

/-- The signed configuration record of R456. A record that gives a Q above 63 fails its checks (R328). -/
structure Record where
  variant  : Variant
  parts    : List (Nat × PartRec)
  spares   : List (Nat × Nat)
  retired  : List Nat
  spareRows : List Nat
  deriving DecidableEq, Repr

/-- The record after reset. DESIGN CHOICE (log 2): the manual leaves the record to its flash; the model
names a TB640 whose partition 0 holds quad 0 (cores 0 to 3), with the default quota of R328 and the default
weight of R250. -/
def Record.default : Record :=
  { variant := .tb640, parts := [(0, { quads := [0], quota := 60, floor := 0, weight := 1 })],
    spares := [], retired := [], spareRows := [] }

/-- FREE VALUE (log 6): a 64-bit value that the manual leaves open, the n-th one taken in a run. -/
opaque freeValue : Nat → BitVec 64

/-- FREE VALUE (log 6): the reading of a PLDM sensor that no rule computes (R450, R454, R455). -/
opaque sensorReading : Nat → Nat → BitVec 64

/-- FREE VALUE (log 6): which of the reasons that the model does not time (R462 codes 3, 4, 5, 15) a strand that
issues nothing shows, by cycle, core and strand. -/
opaque idleReason : Nat → Nat → Nat → Nat

/-- FREE VALUE (log 6): the threshold of a repair: 0 spare core, 1 row sparing, 2 channel retirement (R466). -/
opaque repairThreshold : Nat → Nat

/-- FREE VALUE (log 6): the bytes of an SPDM answer by its index, the firmware and what the record holds (R455,
R458). -/
opaque spdmBytes : Nat → Nat → Record → List (BitVec 8)

end Config
end Sys2Proof
end

