-- ==== Sys2Proof/Syntax.lean ====
section
/-! DEFINITION. The instructions and events of the Troryn Bruaska: one constructor for each row of
spec/opcode_table.json. The first 225 constructors are the words of the four streams (R103 to R122), with
the fields of their layouts; the last 79 are the operations and events of the table, which have no word
(spec/95): their arguments say which unit acts and what comes from outside the module. -/

namespace Sys2Proof

/-- The token fields of a stream word (R100): POP in [31:30], PUSH in [29:28], codes of R65. -/
structure Tok where
  pop  : BitVec 2
  push : BitVec 2
  deriving DecidableEq, Repr

/-- A step's chunk between collective engines: tag, kind, format, bytes, and the positions of bytes that were read
from poisoned sectors (R256, R265, R423, R430). -/
structure CollMsg where
  tag       : BitVec 32
  allGather : Bool
  aux       : BitVec 8
  bytes     : List (BitVec 8)
  marks     : List Nat
  deriving DecidableEq, Repr

/-- Where an error is met (R434): a sector of device memory, of a core's scratchpad or weight buffer, one that an L2 slice holds
staged for a core's node or for a saved node, a dirty sector of a slice, one of a clean line of a slice, one of a line that a
core's L1 owns or holds clean, a word of a core's instruction cache, or a word of the registers, latches, handles, palettes and
planes that an instruction of a strand reads. Which lines of a slice are dirty the spec leaves to the slice, and the turn says it
(DESIGN CHOICE, log 112). -/
inductive ScrubSite where
  | dram (addr : Nat)
  | window (core off : Nat)
  | staged (core addr : Nat)
  | saved (part slot addr : Nat)
  | slice (quad addr : Nat)
  | owned (core addr : Nat)
  | cleanSlice (quad addr : Nat)
  | cleanL1 (core addr : Nat)
  | code (core : Nat)
  | reg (core : Nat) (st : Strand)
  deriving DecidableEq, Repr

/-- An inbound fabric request (R418), with the port it comes by: a read of bytes or a masked write. -/
inductive FabricReq where
  | read (port len : Nat)
  | write (port : Nat) (bytes : List (Option (BitVec 8)))
  deriving DecidableEq, Repr

/-- What a link partner offers at training (R411, R412). -/
inductive LinkPartner where
  | flit256
  | flit68
  | unsupported
  deriving DecidableEq, Repr

/-- Who accesses control space (R377, R413): the physical function, virtual function p, or Newt. -/
inductive HostFn where
  | physical
  | virt (p : Nat)
  | newt
  deriving DecidableEq, Repr

/-- A write of SNAPREL (R464): who writes it, the partition of the telemetry block, and the value. -/
structure SnapRelease where
  fn    : HostFn
  part  : Nat
  value : BitVec 64
  deriving DecidableEq, Repr

/-- A bank image of R457: firmware identity, configuration record, and whether both signatures verify. -/
structure FlashImage where
  firmware : Nat
  fwSigOk  : Bool
  record   : Config.Record
  recSigOk : Bool
  deriving DecidableEq, Repr

/-- A PLDM command of R455: a sensor read, the PKCAP effecter, or a command for a repair of R466. -/
inductive PldmCmd where
  | sensor (n : Nat)
  | setCap (value : BitVec 64)
  | repairCore (core : Nat)
  | repairRow (row : Nat)
  | repairChannel (chan : Nat)
  | repairLane (port : Nat) (width : BitVec 2)
  deriving DecidableEq, Repr

/-- What the runtime supplies at a load (R85, R91, R99, R340, R359, R364): the object's bytes, parameter values, and
its own free choices: identifiers, counter slots, the virtual address of each queue's ring, the virtual and physical base of each region in source order (the
constant and the code region last), interleave and channel of the constant and the code region, and, when the
partition has no mailbox yet, the mailbox's virtual base, channel and physical base. -/
structure LoadRequest where
  bytes      : List (BitVec 8)
  params     : List (Nat × BitVec 64)
  launchIds  : List Nat
  queueIds   : List Nat
  counterIds : List Nat
  rings      : List Nat
  vbases     : List Nat
  pbases     : List Nat
  constAt    : Nat × Nat
  codeAt     : Nat × Nat
  mailbox    : Option (Nat × Nat × Nat)
  deriving DecidableEq, Repr

/-- One constructor per row of spec/opcode_table.json. -/
inductive Instr where
  /-- Register-form 64-bit add, xd := xa + xb modulo 2^64 (R133). -/
  | add (t : Tok) (xd : BitVec 5) (xa : BitVec 5) (xb : BitVec 5)
  /-- Register-form 64-bit subtract (R133). -/
  | sub (t : Tok) (xd : BitVec 5) (xa : BitVec 5) (xb : BitVec 5)
  /-- Register-form bitwise and (R133). -/
  | and (t : Tok) (xd : BitVec 5) (xa : BitVec 5) (xb : BitVec 5)
  /-- Register-form bitwise or (R133). -/
  | or (t : Tok) (xd : BitVec 5) (xa : BitVec 5) (xb : BitVec 5)
  /-- Register-form bitwise exclusive or (R133). -/
  | xor (t : Tok) (xd : BitVec 5) (xa : BitVec 5) (xb : BitVec 5)
  /-- Register-form left shift by xb[5:0] (R133). -/
  | sll (t : Tok) (xd : BitVec 5) (xa : BitVec 5) (xb : BitVec 5)
  /-- Register-form logical right shift by xb[5:0] (R133). -/
  | srl (t : Tok) (xd : BitVec 5) (xa : BitVec 5) (xb : BitVec 5)
  /-- Register-form arithmetic right shift by xb[5:0] (R133). -/
  | sra (t : Tok) (xd : BitVec 5) (xa : BitVec 5) (xb : BitVec 5)
  /-- Register-form signed set-less-than (R133). -/
  | slt (t : Tok) (xd : BitVec 5) (xa : BitVec 5) (xb : BitVec 5)
  /-- Unsigned set-less-than (R133). -/
  | sltU (t : Tok) (xd : BitVec 5) (xa : BitVec 5) (xb : BitVec 5)
  /-- Signed minimum (R133). -/
  | min (t : Tok) (xd : BitVec 5) (xa : BitVec 5) (xb : BitVec 5)
  /-- Unsigned minimum (R133). -/
  | minU (t : Tok) (xd : BitVec 5) (xa : BitVec 5) (xb : BitVec 5)
  /-- Signed maximum (R133). -/
  | max (t : Tok) (xd : BitVec 5) (xa : BitVec 5) (xb : BitVec 5)
  /-- Unsigned maximum (R133). -/
  | maxU (t : Tok) (xd : BitVec 5) (xa : BitVec 5) (xb : BitVec 5)
  /-- Low 64 bits of the product (R134). -/
  | mul (t : Tok) (xd : BitVec 5) (xa : BitVec 5) (xb : BitVec 5)
  /-- High 64 bits of the signed product (R134). -/
  | mulh (t : Tok) (xd : BitVec 5) (xa : BitVec 5) (xb : BitVec 5)
  /-- High 64 bits of the unsigned product (R134). -/
  | mulhU (t : Tok) (xd : BitVec 5) (xa : BitVec 5) (xb : BitVec 5)
  /-- Signed quotient truncated toward zero, never trapping (R134). -/
  | div (t : Tok) (xd : BitVec 5) (xa : BitVec 5) (xb : BitVec 5)
  /-- Unsigned quotient (R134). -/
  | divU (t : Tok) (xd : BitVec 5) (xa : BitVec 5) (xb : BitVec 5)
  /-- Signed remainder with the sign of xa (R134). -/
  | rem (t : Tok) (xd : BitVec 5) (xa : BitVec 5) (xb : BitVec 5)
  /-- Unsigned remainder (R134). -/
  | remU (t : Tok) (xd : BitVec 5) (xa : BitVec 5) (xb : BitVec 5)
  /-- Count of leading zero bits of xa (R135). -/
  | clz (t : Tok) (xd : BitVec 5) (xa : BitVec 5)
  /-- Count of trailing zero bits of xa (R135). -/
  | ctz (t : Tok) (xd : BitVec 5) (xa : BitVec 5)
  /-- Count of one bits of xa (R135). -/
  | popc (t : Tok) (xd : BitVec 5) (xa : BitVec 5)
  /-- Funnel shift of the pair xa:xb right by n (R135). -/
  | fsh (t : Tok) (xd : BitVec 5) (xa : BitVec 5) (xb : BitVec 5) (n : BitVec 6)
  /-- Add a sign-extended imm12 (R133). -/
  | addImmediate (t : Tok) (xd : BitVec 5) (xa : BitVec 5) (imm : BitVec 12)
  /-- And with a zero-extended imm12 (R133). -/
  | andImmediate (t : Tok) (xd : BitVec 5) (xa : BitVec 5) (imm : BitVec 12)
  /-- Or with a zero-extended imm12 (R133). -/
  | orImmediate (t : Tok) (xd : BitVec 5) (xa : BitVec 5) (imm : BitVec 12)
  /-- Exclusive or with a zero-extended imm12 (R133). -/
  | xorImmediate (t : Tok) (xd : BitVec 5) (xa : BitVec 5) (imm : BitVec 12)
  /-- Left shift by an immediate count (R133). -/
  | sllImmediate (t : Tok) (xd : BitVec 5) (xa : BitVec 5) (sh : BitVec 6)
  /-- Logical right shift by an immediate count (R133). -/
  | srlImmediate (t : Tok) (xd : BitVec 5) (xa : BitVec 5) (sh : BitVec 6)
  /-- Arithmetic right shift by an immediate count (R133). -/
  | sraImmediate (t : Tok) (xd : BitVec 5) (xa : BitVec 5) (sh : BitVec 6)
  /-- Signed set-less-than against a sign-extended imm12 (R133). -/
  | sltImmediate (t : Tok) (xd : BitVec 5) (xa : BitVec 5) (imm : BitVec 12)
  /-- Extract a bit field and sign-extend it (R136). -/
  | bfx (t : Tok) (xd : BitVec 5) (xa : BitVec 5) (pos : BitVec 6) (len1 : BitVec 6)
  /-- Extract a bit field and zero-extend it (R136). -/
  | bfxU (t : Tok) (xd : BitVec 5) (xa : BitVec 5) (pos : BitVec 6) (len1 : BitVec 6)
  /-- Insert the low bits of xa into a field of xd (R136). -/
  | bfi (t : Tok) (xd : BitVec 5) (xa : BitVec 5) (pos : BitVec 6) (len1 : BitVec 6)
  /-- xd := sign-extended imm17 shifted left 16 (R137). -/
  | lui (t : Tok) (xd : BitVec 5) (imm : BitVec 17)
  /-- xd := (xd << 16) OR imm16 (R137). -/
  | orsh (t : Tok) (xd : BitVec 5) (imm : BitVec 16)
  /-- Load one byte, sign-extended (R142). -/
  | ldB (t : Tok) (xd : BitVec 5) (xa : BitVec 5) (imm : BitVec 12)
  /-- Load two bytes, sign-extended (R142). -/
  | ldH (t : Tok) (xd : BitVec 5) (xa : BitVec 5) (imm : BitVec 12)
  /-- Load four bytes, sign-extended (R142). -/
  | ldW (t : Tok) (xd : BitVec 5) (xa : BitVec 5) (imm : BitVec 12)
  /-- Load eight bytes (R142). -/
  | ldD (t : Tok) (xd : BitVec 5) (xa : BitVec 5) (imm : BitVec 12)
  /-- Load one byte, zero-extended (R142). -/
  | ldBU (t : Tok) (xd : BitVec 5) (xa : BitVec 5) (imm : BitVec 12)
  /-- Load two bytes, zero-extended (R142). -/
  | ldHU (t : Tok) (xd : BitVec 5) (xa : BitVec 5) (imm : BitVec 12)
  /-- Load four bytes, zero-extended (R142). -/
  | ldWU (t : Tok) (xd : BitVec 5) (xa : BitVec 5) (imm : BitVec 12)
  /-- Store one byte to scratchpad, STAGED or DIRECT memory (R143). -/
  | stB (t : Tok) (xs : BitVec 5) (xa : BitVec 5) (imm : BitVec 12)
  /-- Store two bytes (R143). -/
  | stH (t : Tok) (xs : BitVec 5) (xa : BitVec 5) (imm : BitVec 12)
  /-- Store four bytes (R143). -/
  | stW (t : Tok) (xs : BitVec 5) (xa : BitVec 5) (imm : BitVec 12)
  /-- Store eight bytes (R143). -/
  | stD (t : Tok) (xs : BitVec 5) (xa : BitVec 5) (imm : BitVec 12)
  /-- Last-use load that withdraws the node's staged bytes of the line (R145). -/
  | ldlu (t : Tok) (xd : BitVec 5) (xa : BitVec 5) (imm : BitVec 12)
  /-- Ask the home slice to fill a line and the L1 to lease it (R146). -/
  | pref (t : Tok) (xa : BitVec 5) (imm : BitVec 12)
  /-- Sample the residency of a line into xd (R147). -/
  | resq (t : Tok) (xd : BitVec 5) (xa : BitVec 5) (imm : BitVec 12)
  /-- Atomic swap at a chosen scope and width (R148). -/
  | amoSwap (t : Tok) (xd : BitVec 5) (xa : BitVec 5) (xb : BitVec 5) (scope : BitVec 2) (wide : BitVec 1)
  /-- Atomic add (R148). -/
  | amoAdd (t : Tok) (xd : BitVec 5) (xa : BitVec 5) (xb : BitVec 5) (scope : BitVec 2) (wide : BitVec 1)
  /-- Atomic and (R148). -/
  | amoAnd (t : Tok) (xd : BitVec 5) (xa : BitVec 5) (xb : BitVec 5) (scope : BitVec 2) (wide : BitVec 1)
  /-- Atomic or (R148). -/
  | amoOr (t : Tok) (xd : BitVec 5) (xa : BitVec 5) (xb : BitVec 5) (scope : BitVec 2) (wide : BitVec 1)
  /-- Atomic exclusive or (R148). -/
  | amoXor (t : Tok) (xd : BitVec 5) (xa : BitVec 5) (xb : BitVec 5) (scope : BitVec 2) (wide : BitVec 1)
  /-- Atomic signed minimum (R148). -/
  | amoMin (t : Tok) (xd : BitVec 5) (xa : BitVec 5) (xb : BitVec 5) (scope : BitVec 2) (wide : BitVec 1)
  /-- Atomic signed maximum (R148). -/
  | amoMax (t : Tok) (xd : BitVec 5) (xa : BitVec 5) (xb : BitVec 5) (scope : BitVec 2) (wide : BitVec 1)
  /-- Atomic compare-and-swap with xd as compare value (R148). -/
  | amoCas (t : Tok) (xd : BitVec 5) (xa : BitVec 5) (xb : BitVec 5) (scope : BitVec 2) (wide : BitVec 1)
  /-- Branch if equal (R138). -/
  | beq (t : Tok) (xa : BitVec 5) (xb : BitVec 5) (off : BitVec 12)
  /-- Branch if not equal (R138). -/
  | bne (t : Tok) (xa : BitVec 5) (xb : BitVec 5) (off : BitVec 12)
  /-- Branch if signed less (R138). -/
  | blt (t : Tok) (xa : BitVec 5) (xb : BitVec 5) (off : BitVec 12)
  /-- Branch if signed greater or equal (R138). -/
  | bge (t : Tok) (xa : BitVec 5) (xb : BitVec 5) (off : BitVec 12)
  /-- Branch if unsigned less (R138). -/
  | bltU (t : Tok) (xa : BitVec 5) (xb : BitVec 5) (off : BitVec 12)
  /-- Branch if unsigned greater or equal (R138). -/
  | bgeU (t : Tok) (xa : BitVec 5) (xb : BitVec 5) (off : BitVec 12)
  /-- Jump and link relative (R139). -/
  | jal (t : Tok) (xd : BitVec 5) (off : BitVec 17)
  /-- Jump to xa + 4 x imm12 and link (R139). -/
  | jalr (t : Tok) (xd : BitVec 5) (xa : BitVec 5) (imm : BitVec 12)
  /-- Scalar FP add in FP32 or FP64 (R151). -/
  | fadd (t : Tok) (xd : BitVec 5) (xa : BitVec 5) (xb : BitVec 5) (dbl : BitVec 1)
  /-- Scalar FP subtract (R151). -/
  | fsub (t : Tok) (xd : BitVec 5) (xa : BitVec 5) (xb : BitVec 5) (dbl : BitVec 1)
  /-- Scalar FP multiply (R151). -/
  | fmul (t : Tok) (xd : BitVec 5) (xa : BitVec 5) (xb : BitVec 5) (dbl : BitVec 1)
  /-- Scalar FP divide (R151). -/
  | fdiv (t : Tok) (xd : BitVec 5) (xa : BitVec 5) (xb : BitVec 5) (dbl : BitVec 1)
  /-- Scalar FP square root (R151). -/
  | fsqrt (t : Tok) (xd : BitVec 5) (xa : BitVec 5) (dbl : BitVec 1)
  /-- IEEE minimum (R151). -/
  | fmin (t : Tok) (xd : BitVec 5) (xa : BitVec 5) (xb : BitVec 5) (dbl : BitVec 1)
  /-- IEEE maximum (R151). -/
  | fmax (t : Tok) (xd : BitVec 5) (xa : BitVec 5) (xb : BitVec 5) (dbl : BitVec 1)
  /-- Fused xa x xb + xd, one rounding (R151). -/
  | fma (t : Tok) (xd : BitVec 5) (xa : BitVec 5) (xb : BitVec 5) (dbl : BitVec 1)
  /-- FP compare equal into a 0/1 integer (R151). -/
  | fcmpEq (t : Tok) (xd : BitVec 5) (xa : BitVec 5) (xb : BitVec 5) (dbl : BitVec 1)
  /-- FP compare less (R151). -/
  | fcmpLt (t : Tok) (xd : BitVec 5) (xa : BitVec 5) (xb : BitVec 5) (dbl : BitVec 1)
  /-- FP compare less or equal (R151). -/
  | fcmpLe (t : Tok) (xd : BitVec 5) (xa : BitVec 5) (xb : BitVec 5) (dbl : BitVec 1)
  /-- Convert I64 to FP32 or FP64 (R151). -/
  | fcvtFromI64 (t : Tok) (xd : BitVec 5) (xa : BitVec 5) (dbl : BitVec 1) (rz : BitVec 1)
  /-- Convert U64 to FP32 or FP64 (R151). -/
  | fcvtFromU64 (t : Tok) (xd : BitVec 5) (xa : BitVec 5) (dbl : BitVec 1) (rz : BitVec 1)
  /-- Convert FP to I64, clamped (R151). -/
  | fcvtToI64 (t : Tok) (xd : BitVec 5) (xa : BitVec 5) (dbl : BitVec 1) (rz : BitVec 1)
  /-- Convert FP to U64, clamped (R151). -/
  | fcvtToU64 (t : Tok) (xd : BitVec 5) (xa : BitVec 5) (dbl : BitVec 1) (rz : BitVec 1)
  /-- Round FP64 to FP32 (R151). -/
  | fcvtSD (t : Tok) (xd : BitVec 5) (xa : BitVec 5) (rz : BitVec 1)
  /-- Extend FP32 exactly to FP64 (R151). -/
  | fcvtDS (t : Tok) (xd : BitVec 5) (xa : BitVec 5)
  /-- Wait until a counter reaches a phase and return it (R153). -/
  | acwait (t : Tok) (xd : BitVec 5) (xa : BitVec 5) (xb : BitVec 5)
  /-- Read a counter's phase and count together (R154). -/
  | acread (t : Tok) (xd : BitVec 5) (xa : BitVec 5)
  /-- Arrive at a counter barrier once and wait for its phase (R155). -/
  | bar (t : Tok) (xa : BitVec 5) (xb : BitVec 5)
  /-- Open a walk context from a descriptor (R156). -/
  | wopen (t : Tok) (xd : BitVec 5) (xa : BitVec 5)
  /-- Ask the walker for a point, resident first (R349). -/
  | wnext (t : Tok) (xd : BitVec 5) (xa : BitVec 5)
  /-- Mark an issued point finished, effective at commit (R158). -/
  | wdone (t : Tok) (xa : BitVec 5) (xb : BitVec 5)
  /-- Publish an output item into the node's output staging (R159). -/
  | ipub (t : Tok) (xa : BitVec 5) (xb : BitVec 5)
  /-- Start a solve on the stack's solve controller (R395). -/
  | solve (t : Tok) (xd : BitVec 5) (xa : BitVec 5)
  /-- Request a power class and wait for the grant (R162). -/
  | pacq (t : Tok) (xa : BitVec 5)
  /-- Return the power class to 0 (R162). -/
  | prel (t : Tok)
  /-- Read the global time counter (R163). -/
  | gtc (t : Tok) (xd : BitVec 5)
  /-- Raise the partition's snapshot trigger (R164). -/
  | snap (t : Tok)
  /-- Order host-range accesses against device accesses (R165). -/
  | hfence (t : Tok)
  /-- Return from a trap, or fail the node after a program error (R168). -/
  | eret (t : Tok)
  /-- End the S strand of the node (R160). -/
  | nendS (t : Tok)
  /-- Read a control register (R166). -/
  | crd (t : Tok) (xd : BitVec 5) (cr : BitVec 12)
  /-- Write a control register, with its field rules (R166). -/
  | cwr (t : Tok) (xa : BitVec 5) (cr : BitVec 12)
  /-- Retire and raise a software trap with a code (R167). -/
  | trap (t : Tok) (code : BitVec 12)
  /-- Element-wise add by source tag (R177). -/
  | vadd (t : Tok) (vd : BitVec 5) (va : BitVec 5) (vb : BitVec 5) (ws : BitVec 1) (mask : BitVec 3) (ls : BitVec 2)
  /-- Element-wise subtract (R177). -/
  | vsub (t : Tok) (vd : BitVec 5) (va : BitVec 5) (vb : BitVec 5) (ws : BitVec 1) (mask : BitVec 3) (ls : BitVec 2)
  /-- Element-wise multiply (R177). -/
  | vmul (t : Tok) (vd : BitVec 5) (va : BitVec 5) (vb : BitVec 5) (ws : BitVec 1) (mask : BitVec 3) (ls : BitVec 2)
  /-- Element-wise fused multiply-add into vd (R178). -/
  | vfma (t : Tok) (vd : BitVec 5) (va : BitVec 5) (vb : BitVec 5) (mask : BitVec 3) (ls : BitVec 2)
  /-- Element-wise minimum (R177). -/
  | vmin (t : Tok) (vd : BitVec 5) (va : BitVec 5) (vb : BitVec 5) (ws : BitVec 1) (mask : BitVec 3) (ls : BitVec 2)
  /-- Element-wise maximum (R177). -/
  | vmax (t : Tok) (vd : BitVec 5) (va : BitVec 5) (vb : BitVec 5) (ws : BitVec 1) (mask : BitVec 3) (ls : BitVec 2)
  /-- Element-wise absolute value (R177). -/
  | vabs (t : Tok) (vd : BitVec 5) (va : BitVec 5) (ws : BitVec 1) (mask : BitVec 3) (ls : BitVec 1)
  /-- Element-wise negation (R177). -/
  | vneg (t : Tok) (vd : BitVec 5) (va : BitVec 5) (ws : BitVec 1) (mask : BitVec 3) (ls : BitVec 1)
  /-- Element-wise floating divide (R177). -/
  | vdiv (t : Tok) (vd : BitVec 5) (va : BitVec 5) (vb : BitVec 5) (ws : BitVec 1) (mask : BitVec 3) (ls : BitVec 2)
  /-- Correctly rounded reciprocal of F32 elements (R180). -/
  | vrcp (t : Tok) (vd : BitVec 5) (va : BitVec 5) (ws : BitVec 1) (mask : BitVec 3) (ls : BitVec 1)
  /-- Correctly rounded reciprocal square root (R180). -/
  | vrsq (t : Tok) (vd : BitVec 5) (va : BitVec 5) (ws : BitVec 1) (mask : BitVec 3) (ls : BitVec 1)
  /-- Correctly rounded square root (R180). -/
  | vsqrt (t : Tok) (vd : BitVec 5) (va : BitVec 5) (ws : BitVec 1) (mask : BitVec 3) (ls : BitVec 1)
  /-- Correctly rounded 2^x (R180). -/
  | vexp2 (t : Tok) (vd : BitVec 5) (va : BitVec 5) (ws : BitVec 1) (mask : BitVec 3) (ls : BitVec 1)
  /-- Correctly rounded log2 x (R180). -/
  | vlog2 (t : Tok) (vd : BitVec 5) (va : BitVec 5) (ws : BitVec 1) (mask : BitVec 3) (ls : BitVec 1)
  /-- Saturating integer add (R179). -/
  | vadds (t : Tok) (vd : BitVec 5) (va : BitVec 5) (vb : BitVec 5) (ws : BitVec 1) (mask : BitVec 3) (ls : BitVec 2)
  /-- Saturating integer subtract (R179). -/
  | vsubs (t : Tok) (vd : BitVec 5) (va : BitVec 5) (vb : BitVec 5) (ws : BitVec 1) (mask : BitVec 3) (ls : BitVec 2)
  /-- Lane-wise bitwise and (R181). -/
  | vand (t : Tok) (vd : BitVec 5) (va : BitVec 5) (vb : BitVec 5) (ws : BitVec 1) (mask : BitVec 3) (ls : BitVec 2)
  /-- Lane-wise bitwise or (R181). -/
  | vor (t : Tok) (vd : BitVec 5) (va : BitVec 5) (vb : BitVec 5) (ws : BitVec 1) (mask : BitVec 3) (ls : BitVec 2)
  /-- Lane-wise bitwise exclusive or (R181). -/
  | vxor (t : Tok) (vd : BitVec 5) (va : BitVec 5) (vb : BitVec 5) (ws : BitVec 1) (mask : BitVec 3) (ls : BitVec 2)
  /-- Per-element left shift by lane counts (R182). -/
  | vsll (t : Tok) (vd : BitVec 5) (va : BitVec 5) (vb : BitVec 5) (ws : BitVec 1) (mask : BitVec 3) (ls : BitVec 2)
  /-- Per-element logical right shift (R182). -/
  | vsrl (t : Tok) (vd : BitVec 5) (va : BitVec 5) (vb : BitVec 5) (ws : BitVec 1) (mask : BitVec 3) (ls : BitVec 2)
  /-- Per-element arithmetic right shift (R182). -/
  | vsra (t : Tok) (vd : BitVec 5) (va : BitVec 5) (vb : BitVec 5) (ws : BitVec 1) (mask : BitVec 3) (ls : BitVec 2)
  /-- Left shift by an immediate (R182). -/
  | vsllI (t : Tok) (vd : BitVec 5) (va : BitVec 5) (imm : BitVec 5) (ws : BitVec 1) (mask : BitVec 3) (ls : BitVec 1)
  /-- Logical right shift by an immediate (R182). -/
  | vsrlI (t : Tok) (vd : BitVec 5) (va : BitVec 5) (imm : BitVec 5) (ws : BitVec 1) (mask : BitVec 3) (ls : BitVec 1)
  /-- Arithmetic right shift by an immediate (R182). -/
  | vsraI (t : Tok) (vd : BitVec 5) (va : BitVec 5) (imm : BitVec 5) (ws : BitVec 1) (mask : BitVec 3) (ls : BitVec 1)
  /-- Per-lane signed bit-field extract (R183). -/
  | vbfx (t : Tok) (vd : BitVec 5) (va : BitVec 5) (vb : BitVec 5) (ws : BitVec 1) (mask : BitVec 3) (ls : BitVec 2)
  /-- Per-lane unsigned bit-field extract (R183). -/
  | vbfxU (t : Tok) (vd : BitVec 5) (va : BitVec 5) (vb : BitVec 5) (ws : BitVec 1) (mask : BitVec 3) (ls : BitVec 2)
  /-- Per-lane funnel shift of va:vd (R184). -/
  | vfsh (t : Tok) (vd : BitVec 5) (va : BitVec 5) (vb : BitVec 5) (mask : BitVec 3) (ls : BitVec 2)
  /-- Per-lane population count (R185). -/
  | vpopc (t : Tok) (vd : BitVec 5) (va : BitVec 5) (ws : BitVec 1) (mask : BitVec 3) (ls : BitVec 1)
  /-- Per-lane leading-zero count (R185). -/
  | vclz (t : Tok) (vd : BitVec 5) (va : BitVec 5) (ws : BitVec 1) (mask : BitVec 3) (ls : BitVec 1)
  /-- Compare equal into a mask (R186). -/
  | vcmpEq (t : Tok) (kd : BitVec 3) (va : BitVec 5) (vb : BitVec 5) (mask : BitVec 3) (ls : BitVec 2)
  /-- Compare not equal into a mask (R186). -/
  | vcmpNe (t : Tok) (kd : BitVec 3) (va : BitVec 5) (vb : BitVec 5) (mask : BitVec 3) (ls : BitVec 2)
  /-- Compare less into a mask (R186). -/
  | vcmpLt (t : Tok) (kd : BitVec 3) (va : BitVec 5) (vb : BitVec 5) (mask : BitVec 3) (ls : BitVec 2)
  /-- Compare less or equal into a mask (R186). -/
  | vcmpLe (t : Tok) (kd : BitVec 3) (va : BitVec 5) (vb : BitVec 5) (mask : BitVec 3) (ls : BitVec 2)
  /-- And of two masks (R187). -/
  | kand (t : Tok) (kd : BitVec 5) (ka : BitVec 3) (kb : BitVec 3)
  /-- Or of two masks (R187). -/
  | kor (t : Tok) (kd : BitVec 5) (ka : BitVec 3) (kb : BitVec 3)
  /-- Exclusive or of two masks (R187). -/
  | kxor (t : Tok) (kd : BitVec 5) (ka : BitVec 3) (kb : BitVec 3)
  /-- Complement of a mask (R187). -/
  | knot (t : Tok) (kd : BitVec 5) (ka : BitVec 3)
  /-- Select lanes of va or vb by a mask (R188). -/
  | vsel (t : Tok) (vd : BitVec 5) (va : BitVec 5) (vb : BitVec 5) (ws : BitVec 1) (mask : BitVec 3) (ls : BitVec 2)
  /-- Copy a register with its tag (R189). -/
  | vmov (t : Tok) (vd : BitVec 5) (va : BitVec 5) (ws : BitVec 1) (mask : BitVec 3) (ls : BitVec 1)
  /-- Broadcast one lane (R190). -/
  | vbcast (t : Tok) (vd : BitVec 5) (va : BitVec 5) (vb : BitVec 5) (ws : BitVec 1) (mask : BitVec 3) (ls : BitVec 2)
  /-- Permute lanes by an index register (R190). -/
  | vperm (t : Tok) (vd : BitVec 5) (va : BitVec 5) (vb : BitVec 5) (ws : BitVec 1) (mask : BitVec 3) (ls : BitVec 2)
  /-- Rotate lanes (R190). -/
  | vrot (t : Tok) (vd : BitVec 5) (va : BitVec 5) (vb : BitVec 5) (ws : BitVec 1) (mask : BitVec 3) (ls : BitVec 2)
  /-- Load a sign-extended imm10 into every lane (R189). -/
  | vli (t : Tok) (vd : BitVec 5) (imm : BitVec 10) (ws : BitVec 1) (mask : BitVec 3)
  /-- Write the lane index to each lane (R189). -/
  | vidx (t : Tok) (vd : BitVec 5) (ws : BitVec 1) (mask : BitVec 3)
  /-- Tree-ordered sum reduction into element 0 (R191). -/
  | vredAdd (t : Tok) (vd : BitVec 5) (va : BitVec 5) (ws : BitVec 1) (mask : BitVec 3) (ls : BitVec 1)
  /-- Minimum reduction (R191). -/
  | vredMin (t : Tok) (vd : BitVec 5) (va : BitVec 5) (ws : BitVec 1) (mask : BitVec 3) (ls : BitVec 1)
  /-- Maximum reduction (R191). -/
  | vredMax (t : Tok) (vd : BitVec 5) (va : BitVec 5) (ws : BitVec 1) (mask : BitVec 3) (ls : BitVec 1)
  /-- Inclusive prefix sums in element order (R192). -/
  | vscanAdd (t : Tok) (vd : BitVec 5) (va : BitVec 5) (ws : BitVec 1) (mask : BitVec 3) (ls : BitVec 1)
  /-- Convert between tags with RNE, choosing a part (R193). -/
  | vcvt (t : Tok) (part : BitVec 2) (vd : BitVec 5) (va : BitVec 5) (tag : BitVec 4) (ws : BitVec 1) (mask : BitVec 3) (ls : BitVec 1)
  /-- Convert with round toward zero (R193). -/
  | vcvtRz (t : Tok) (part : BitVec 2) (vd : BitVec 5) (va : BitVec 5) (tag : BitVec 4) (ws : BitVec 1) (mask : BitVec 3) (ls : BitVec 1)
  /-- Convert with stochastic rounding, reserving SRSEED counters at issue (R195). -/
  | vcvtSr (t : Tok) (part : BitVec 2) (vd : BitVec 5) (va : BitVec 5) (tag : BitVec 4) (ws : BitVec 1) (mask : BitVec 3) (ls : BitVec 1)
  /-- Write one BF16 part of the three-part split (R196). -/
  | vsplit3 (t : Tok) (vd : BitVec 5) (va : BitVec 5) (part : BitVec 5) (ws : BitVec 1) (mask : BitVec 3) (ls : BitVec 1)
  /-- Load 256 scratchpad bytes under a tag (R199). -/
  | vld (t : Tok) (vd : BitVec 5) (va : BitVec 5) (tag : BitVec 4) (ws : BitVec 1) (mask : BitVec 3) (ls : BitVec 1)
  /-- Store a register's 256 bytes to the scratchpad (R199). -/
  | vst (t : Tok) (va : BitVec 5) (vb : BitVec 5) (mask : BitVec 3) (ls : BitVec 2)
  /-- Vector load from memory at a virtual address (R200). -/
  | vldm (t : Tok) (vd : BitVec 5) (va : BitVec 5) (tag : BitVec 4) (ws : BitVec 1) (mask : BitVec 3) (ls : BitVec 1)
  /-- Vector store to memory (R200). -/
  | vstm (t : Tok) (va : BitVec 5) (vb : BitVec 5) (mask : BitVec 3) (ls : BitVec 2)
  /-- Gather 4-byte words from scratchpad offsets (R201). -/
  | vgath (t : Tok) (vd : BitVec 5) (va : BitVec 5) (tag : BitVec 4) (ws : BitVec 1) (mask : BitVec 3) (ls : BitVec 1)
  /-- Scatter lanes to scratchpad offsets (R201). -/
  | vscat (t : Tok) (va : BitVec 5) (vb : BitVec 5) (mask : BitVec 3) (ls : BitVec 2)
  /-- Load and decode an MX or Q8 storage format (R202). -/
  | vldf (t : Tok) (vd : BitVec 5) (va : BitVec 5) (code : BitVec 5) (ws : BitVec 1) (mask : BitVec 3) (ls : BitVec 1)
  /-- Encode and store MX blocks (R203). -/
  | vstf (t : Tok) (code : BitVec 4) (va : BitVec 5) (vb : BitVec 5) (mask : BitVec 3) (ls : BitVec 2)
  /-- Load a palette and start its validity check (R207). -/
  | vpal (t : Tok) (va : BitVec 5) (pal : BitVec 1) (ls : BitVec 1)
  /-- Counter generator per lane (R197). -/
  | vcgen (t : Tok) (vd : BitVec 5) (va : BitVec 5) (vb : BitVec 5) (ws : BitVec 1) (mask : BitVec 3) (ls : BitVec 2)
  /-- Scan for infinity or NaN and set VSTAT.OVF (R205). -/
  | vovf (t : Tok) (va : BitVec 5) (mask : BitVec 3) (ls : BitVec 1)
  /-- Update the loss scale from OVF, trapping at the eighth floor skip (R206). -/
  | vlsc (t : Tok)
  /-- One Adam step over a register group (R208). -/
  | vadam (t : Tok) (vd : BitVec 5) (va : BitVec 5) (vb : BitVec 5) (mask : BitVec 3) (ls : BitVec 2)
  /-- Encode F32 elements to Q8 through pal0 (R209). -/
  | vqenc (t : Tok) (vd : BitVec 5) (va : BitVec 5) (vb : BitVec 5) (ws : BitVec 1) (mask : BitVec 3) (ls : BitVec 2)
  /-- Encode F32 elements to Q8 through pal1 (R209). -/
  | vqencPal1 (t : Tok) (vd : BitVec 5) (va : BitVec 5) (vb : BitVec 5) (ws : BitVec 1) (mask : BitVec 3) (ls : BitVec 2)
  /-- Repeat the following body count times (R116). -/
  | vloop (t : Tok) (count1 : BitVec 10) (len1 : BitVec 11)
  /-- End the V strand of the node (R211). -/
  | nendV (t : Tok)
  /-- Fill the shadow plane from a weight slot (R219). -/
  | mwldSlot (t : Tok) (slot : BitVec 2) (code : BitVec 4) (pb : BitVec 4)
  /-- Fill the shadow plane from the scratchpad (R219). -/
  | mwldScratchpad (t : Tok) (pa : BitVec 4) (code : BitVec 4) (pb : BitVec 4)
  /-- Issue a swap of live and shadow planes (R223). -/
  | mswp (t : Tok)
  /-- Set ASH.BANDS (R224). -/
  | mband (t : Tok) (bands : BitVec 4)
  /-- Copy 8 KiB of scratchpad into a slot (R222). -/
  | mslot (t : Tok) (slot : BitVec 2) (pa : BitVec 4)
  /-- Forward array product into a tile (R225). -/
  | mmf (t : Tok) (tile : BitVec 3) (pa : BitVec 4) (pb : BitVec 4) (fmt : BitVec 3)
  /-- Backward (transposed) array product (R225). -/
  | mmb (t : Tok) (tile : BitVec 3) (pa : BitVec 4) (pb : BitVec 4) (fmt : BitVec 3)
  /-- Weight-gradient array product over strided columns (R225). -/
  | mmw (t : Tok) (tile : BitVec 3) (pa : BitVec 4) (pb : BitVec 4) (fmt : BitVec 3)
  /-- Stream a constant matrix forward against the plane (R229). -/
  | mconst (t : Tok) (tile : BitVec 3) (pa : BitVec 4) (pb : BitVec 4) (kind : BitVec 3)
  /-- Stream a constant matrix against the transposed plane (R229). -/
  | mconstB (t : Tok) (tile : BitVec 3) (pa : BitVec 4) (pb : BitVec 4) (kind : BitVec 3)
  /-- Zero a tile and tag it F32 (R230). -/
  | mzero (t : Tok) (tile : BitVec 3)
  /-- Add scratchpad rows into a tile (R231). -/
  | macc (t : Tok) (tile : BitVec 3) (pa : BitVec 4) (pb : BitVec 4)
  /-- Drain tile rows to the scratchpad with RNE after checksum check (R232). -/
  | madr (t : Tok) (tile : BitVec 3) (pa : BitVec 4) (pb : BitVec 4) (code : BitVec 4)
  /-- Drain with round toward zero (R232). -/
  | madrRz (t : Tok) (tile : BitVec 3) (pa : BitVec 4) (pb : BitVec 4) (code : BitVec 4)
  /-- Drain with stochastic rounding (R232). -/
  | madrSr (t : Tok) (tile : BitVec 3) (pa : BitVec 4) (pb : BitVec 4) (code : BitVec 4)
  /-- Check a tile's row checksums (R233). -/
  | mchk (t : Tok) (tile : BitVec 3)
  /-- Bind a handle to a canvas record and decode its strokes (R235). -/
  | mbind (t : Tok) (hnd : BitVec 2) (pa : BitVec 4)
  /-- Stream canvas entries rounded to the plane format (R237). -/
  | mimm (t : Tok) (tile : BitVec 3) (hnd : BitVec 2) (pa : BitVec 4) (pb : BitVec 4)
  /-- Stream the a1 parts of canvas entries (R237). -/
  | mimmHi (t : Tok) (tile : BitVec 3) (hnd : BitVec 2) (pa : BitVec 4) (pb : BitVec 4)
  /-- Stream the a2 parts (R237). -/
  | mimmMid (t : Tok) (tile : BitVec 3) (hnd : BitVec 2) (pa : BitVec 4) (pb : BitVec 4)
  /-- Stream the a3 parts (R237). -/
  | mimmLo (t : Tok) (tile : BitVec 3) (hnd : BitVec 2) (pa : BitVec 4) (pb : BitVec 4)
  /-- Canvas times up to four vectors in the easel (R238). -/
  | mimv (t : Tok) (hnd : BitVec 2) (pa : BitVec 4) (pb : BitVec 4) (pc : BitVec 4) (nrhs1 : BitVec 2)
  /-- Load a sign-extended imm16 into p (R240). -/
  | mli (t : Tok) (pd : BitVec 4) (imm : BitVec 16)
  /-- Load the high half of p (R240). -/
  | mlih (t : Tok) (pd : BitVec 4) (imm : BitVec 16)
  /-- Add an imm14 to a p register (R240). -/
  | maddi (t : Tok) (pd : BitVec 4) (pa : BitVec 4) (imm : BitVec 14)
  /-- Add two p registers (R240). -/
  | madd (t : Tok) (pd : BitVec 4) (pa : BitVec 4) (pb : BitVec 4)
  /-- Multiply a p register by an imm14 (R240). -/
  | mmuli (t : Tok) (pd : BitVec 4) (pa : BitVec 4) (imm : BitVec 14)
  /-- Load 4 scratchpad bytes into p (R240). -/
  | mlds (t : Tok) (pd : BitVec 4) (pa : BitVec 4) (imm : BitVec 14)
  /-- Decrement and branch on the M strand (R240). -/
  | mloop (t : Tok) (pa : BitVec 4) (off : BitVec 18)
  /-- End the M strand once earlier M instructions retire (R241). -/
  | nendM (t : Tok)
  /-- One-dimensional copy command (R260). -/
  | ccopy1d (t : Tok) (qb : BitVec 4) (slot : BitVec 4) (sl : BitVec 1) (eng : BitVec 3)
  /-- Two-dimensional strided copy command (R260). -/
  | ccopy2d (t : Tok) (qb : BitVec 4) (slot : BitVec 4) (sl : BitVec 1) (eng : BitVec 3)
  /-- Three-dimensional strided copy command (R260). -/
  | ccopy3d (t : Tok) (qb : BitVec 4) (slot : BitVec 4) (sl : BitVec 1) (eng : BitVec 3)
  /-- Indexed gather copy (R261). -/
  | cgath (t : Tok) (qb : BitVec 4) (slot : BitVec 4) (sl : BitVec 1) (eng : BitVec 3)
  /-- Indexed scatter copy (R261). -/
  | cscat (t : Tok) (qb : BitVec 4) (slot : BitVec 4) (sl : BitVec 1) (eng : BitVec 3)
  /-- Fill a destination with a 64-bit pattern (R262). -/
  | cfill (t : Tok) (qb : BitVec 4) (slot : BitVec 4) (sl : BitVec 1) (eng : BitVec 3)
  /-- Reduce-add elements into a device destination (R263). -/
  | cradd (t : Tok) (qb : BitVec 4) (slot : BitVec 4) (sl : BitVec 1) (eng : BitVec 3)
  /-- Put bytes to a peer or pool over the fabric (R264). -/
  | cfput (t : Tok) (qb : BitVec 4) (slot : BitVec 4) (sl : BitVec 1) (eng : BitVec 3)
  /-- Get bytes from a peer or pool (R264). -/
  | cfget (t : Tok) (qb : BitVec 4) (slot : BitVec 4) (sl : BitVec 1) (eng : BitVec 3)
  /-- One ring reduce-scatter step (R265). -/
  | crs (t : Tok) (qb : BitVec 4) (slot : BitVec 4) (sl : BitVec 1) (eng : BitVec 3)
  /-- One ring all-gather step (R265). -/
  | cag (t : Tok) (qb : BitVec 4) (slot : BitVec 4) (sl : BitVec 1) (eng : BitVec 3)
  /-- Arm an arrival counter (R266). -/
  | carm (t : Tok) (qb : BitVec 4) (eng : BitVec 3)
  /-- Hand a raw 128-byte command from scratchpad to an engine (R267). -/
  | csend (t : Tok) (qa : BitVec 4) (eng : BitVec 3)
  /-- Hold later C issue until earlier C instructions complete (R269). -/
  | cfence (t : Tok)
  /-- Add permits to a landing slot (R268). -/
  | cpermit (t : Tok) (slot : BitVec 4) (n1 : BitVec 12)
  /-- Load a sign-extended imm16 into q (R271). -/
  | qli (t : Tok) (qd : BitVec 4) (imm : BitVec 16)
  /-- Load the high half of q (R271). -/
  | qlih (t : Tok) (qd : BitVec 4) (imm : BitVec 16)
  /-- Add an imm14 to a q register (R271). -/
  | qaddi (t : Tok) (qd : BitVec 4) (qa : BitVec 4) (imm : BitVec 14)
  /-- Add two q registers (R271). -/
  | qadd (t : Tok) (qd : BitVec 4) (qa : BitVec 4) (qb : BitVec 4)
  /-- Load 4 scratchpad bytes into q (R271). -/
  | qlds (t : Tok) (qd : BitVec 4) (qa : BitVec 4) (imm : BitVec 14)
  /-- Decrement and branch on the C strand (R271). -/
  | qloop (t : Tok) (qa : BitVec 4) (off : BitVec 18)
  /-- End the C strand once earlier C instructions complete (R270). -/
  | nendC (t : Tok)
  /-- A held push takes place once the FIFO count drops below its window (R274). -/
  | heldPush (core : Nat) (st : Strand)
  /-- After 1,024 stalled cycles the node controller traps with cause 0x09 (R275). -/
  | tokenDeadlock (core : Nat)
  /-- Trap registers written, latches cleared and other strands frozen (R281). -/
  | trapEntry (core : Nat) (st : Strand)
  /-- 8 c after the last strand freezes, S issues the handler at TVEC (R281). -/
  | handlerStart (core : Nat)
  /-- Once end conditions hold, staged writes, items, visited bits and counts are published at one time (R286). -/
  | nodeCommit (core : Nat)
  /-- All touched home slices acknowledge and the core returns to the allocator (R286). -/
  | commitAcknowledged (core : Nat)
  /-- An M path instruction completes its effect and retires, pushing its token (R212). -/
  | mPathRetire (core : Nat) (weight : Bool)
  /-- Live and shadow planes exchange once readers and fills are done (R223). -/
  | planeSwap (core : Nat)
  /-- The palette validity check ends and sets PALnV (R207). -/
  | paletteCheckEnd (core : Nat)
  /-- An engine admits a waiting command into a slot with a permit (R70). -/
  | copyAdmission (eng idx : Nat)
  /-- A queued command starts reading once its WAIT groups complete (R251). -/
  | copyStart (eng idx : Nat)
  /-- Every byte of a command has landed; it completes and retires in order (R248). -/
  | copyComplete (eng idx : Nat)
  /-- Incoming collective bytes are applied to a matching command or buffered (R423). -/
  | collectiveArrival (port : Nat) (msg : CollMsg)
  /-- A home agent applies a delivery of n bytes to a counter (R336). -/
  | counterDelivery (idx : Nat)
  /-- A pending action is carried out when room appears (R338). -/
  | pendingActionRetry (ctr : Nat)
  /-- Every 1,024 c a waiting core re-reads the phase at the counter's home (R153). -/
  | acwaitPoll (core : Nat)
  /-- The runtime disarms a counter at unload or partition teardown (R331). -/
  | counterDisarm (ctr : Nat)
  /-- A deferred point's prefetch completes and it enters the revisit queue (R348). -/
  | walkPrefetchComplete (stack ctx point : Nat)
  /-- When a core frees or an item arrives, the allocator picks and starts nodes (R368). -/
  | allocateNode (stack : Nat)
  /-- Once all phases are reached, late-bound fields are read into the head item (R366). -/
  | lateFieldResolve (part queue : Nat)
  /-- A launch record is checked and the launch starts or waits (R361). -/
  | launchStart (part : Nat)
  /-- After 4 µs quiescent the launch ends COMPLETE and writes its sector (R373). -/
  | launchComplete (part launch : Nat)
  /-- PMCMD OP 1 pre-empts the scope's nodes by discard or save (R385). -/
  | preempt (part : Nat) (value : BitVec 64)
  /-- PMCMD OP 2 releases a held scope for starts and restores (R387). -/
  | release (part : Nat) (value : BitVec 64)
  /-- A drained long-stage node's image is written to a save slot (R386). -/
  | nodeSaveComplete (core : Nat)
  /-- A save that would pass 40 µs discards the node instead (R386). -/
  | saveTimeout (core : Nat)
  /-- A saved image is reloaded onto a free core (R73). -/
  | nodeRestore (part core : Nat)
  /-- RTCMD GO stops starts and drains the partition for activation (R382). -/
  | go (part : Nat) (value : BitVec 64)
  /-- At the quiet point the shadow table is checked and made active (R381). -/
  | rangeTableActivation (part : Nat)
  /-- A migration command blocks the source page or is refused (R383). -/
  | migcmd (value : BitVec 64)
  /-- Performed accesses complete and the page's bytes and filters are copied (R383). -/
  | migrationCopy
  /-- The copy completes and a redirect is installed (R383). -/
  | migrationRedirect
  /-- Queued accesses are replayed at the destination (R383). -/
  | migrationReplay
  /-- An iteration's residual is known and the best and status are judged (R404). -/
  | solveIterationComplete (stack : Nat) (order : List Nat)
  /-- The GTC reaches the deadline and the solve ends early (R406). -/
  | solveDeadline (stack : Nat)
  /-- The verify product ends and TRUERES is set (R407). -/
  | solveVerifyProduct (stack : Nat) (order : List Nat)
  /-- XVEC and the result half are written and CTR fires (R400). -/
  | solveFinish (stack : Nat)
  /-- The stack power manager grants a waiting class request (R446). -/
  | pacqGrant (stack : Nat)
  /-- Stack allotments and core limits are re-derived within 1 ms (R470). -/
  | allotmentUpdate
  /-- A write of the package cap lowers limits to hold PAVG (R451). -/
  | capw (value : BitVec 64)
  /-- HALT pre-empts every partition under a cap below the floor (R453). -/
  | halt
  /-- Every 100 µs at or above 95 °C a stack's limit steps down or back (R454). -/
  | thermalThrottle (stack temp : Nat)
  /-- At 105 °C the package halts as under a cap below the floor (R454). -/
  | thermalHalt (stack temp : Nat)
  /-- At 115 °C the power rails turn off (R454). -/
  | thermalPowerOff (stack temp : Nat)
  /-- A node is stopped, its effects dropped and its item re-queued with an attempt (R439). -/
  | rollback (core : Nat) (st : Strand)
  /-- A mismatch or 256 c absence of the checker copy rolls back with 0x21 (R438). -/
  | controlDivergence (core : Nat) (st : Strand)
  /-- The scrubber checks tile rows at least once per millisecond (R48). -/
  | accumulatorScrub (core tile : Nat)
  /-- Scrubbers rewrite storage and mark uncorrectable sectors poisoned (R434). -/
  | memoryScrub (site : ScrubSite) (uncorrectable : Bool)
  /-- A host CXL.mem read through a decoder (R416). -/
  | hostMemoryRead (addr len : Nat)
  /-- A host CXL.mem write, placed in the order and counted at its home (R416). -/
  | hostMemoryWrite (addr : Nat) (bytes : List (Option (BitVec 8)))
  /-- The host asks to cache a device line under HDM-DB (R420). -/
  | hostLineRequest (addr : Nat)
  /-- A pool device's snoop is served from the package snoop filter (R421). -/
  | backInvalidateSnoop (line : Nat) (bytes : List (Option (BitVec 8)))
  /-- An inbound fabric request is mapped or refused with completer abort (R418). -/
  | inboundFabricRequest (off : Nat) (req : FabricReq)
  /-- After 50 µs without completion the node rolls back (R422). -/
  | fabricCompletionTimeout (eng idx : Nat)
  /-- A target refuses a request and the node fails with 0x07 (R422). -/
  | completerAbort (eng idx : Nat)
  /-- A port trains or refuses an unsupported partner (R411). -/
  | linkTraining (port : Nat) (partner : LinkPartner)
  /-- A link goes down and in-flight traffic is discarded (R427). -/
  | linkDown (port : Nat) (inFlight : List (Nat × Nat))
  /-- A failing lane starts a width change and lowers MAXW (R426). -/
  | laneFailure (port : Nat) (width : BitVec 2)
  /-- A write of PWID starts an L0p width change (R426). -/
  | pwid (port : Nat) (value : BitVec 64)
  /-- The new width is in use, retries replay and the ordered queue drains (R426). -/
  | widthChangeComplete (port : Nat)
  /-- A write of INBp is accepted or rejected for overlap (R418). -/
  | inbpWrite (p : Nat) (value : BitVec 64)
  /-- A write of EQBASEn is accepted or rejected by placement (R442). -/
  | eqbaseWrite (n : Nat) (value : BitVec 64)
  /-- An EN write of a telemetry register is checked against the partition's channels (R459). -/
  | telemetryEnableWrite (p off : Nat) (value : BitVec 64)
  /-- Every 100 µs the performance counters are written out (R460). -/
  | counterDump (p : Nat)
  /-- Every PERIOD cycles a strand's condition is recorded in the trace ring (R462). -/
  | traceSample (core : Nat) (st : Strand)
  /-- A trigger from Newt or an event match latches the snapshot registers (R464). -/
  | snapshotTrigger (p : Nat) (source : BitVec 8)
  /-- The latched snapshot is written to SNAPBUF within 50 µs (R465). -/
  | snapshotWriteOut (p : Nat)
  /-- Release of a held snapshot (R464): a write of SNAPREL. -/
  | snaprel (w : SnapRelease)
  /-- A write to a control-space register without behaviour of its own (R377). -/
  | controlRegisterWrite (fn : HostFn) (addr : Nat) (value : BitVec 64)
  /-- Newt boots, configures, trains and marks the part ready (R468). -/
  | powerOnBringUp
  /-- At reset Newt boots the active bank or falls back (R457). -/
  | resetBoot
  /-- An update image is written and verified in the inactive bank (R457). -/
  | pldmFirmwareUpdate (image : FlashImage)
  /-- A sensor read or effecter command over PLDM (R455). -/
  | pldmMonitoring (cmd : PldmCmd)
  /-- Newt returns identity and signed measurements (R458). -/
  | spdmMeasurements
  /-- A core past its error threshold is remapped to a spare (R466). -/
  | spareCore (core : Nat)
  /-- A DRAM row with repeated errors is blocked and copied (R466). -/
  | rowSparing (row : Nat)
  /-- A failing channel's pages are migrated away or refused (R466). -/
  | channelRetirement (chan : Nat)
  /-- The runtime loads a .sto object all or nothing: it takes range entries, copies initial contents, arms counters, applies relocations and places initial items, leaving its launches LOADED (R99). -/
  | objectLoad (part : Nat) (req : LoadRequest)
  /-- A strand load, store, atomic, vldm/vstm or host-range access that went beyond the scratchpad and L1 completes when memory answers, writing xd or taking its place, and the instruction retires (R132). -/
  | memoryAccessComplete (core : Nat) (st : Strand)
  deriving DecidableEq, Repr

end Sys2Proof
end

