-- ==== Sys2Proof/WellFormed.lean ====
section
/-! DEFINITION. Which instructions are assigned encodings: the value rules that R43, R54, R101, R104, R108,
R111 to R115, R119 to R122, R199, R219 and R229 put on the fields. An instruction that breaks one is the illegal
encoding of R101. Events have no word and no field rule. -/

namespace Sys2Proof
namespace WellFormed

/-- p + length ≤ 64 for `bfx`, `bfx.u` and `bfi`; the field holds length - 1 (R104). -/
def fieldFits (pos len1 : BitVec 6) : Bool := decide (pos.toNat + len1.toNat + 1 ≤ 64)

/-- The control-register numbers of R54; any other number is an illegal encoding (R55). -/
def crListed (n : Nat) : Bool :=
  [0x000, 0x001, 0x002, 0x003, 0x010, 0x011, 0x012, 0x013, 0x014, 0x020, 0x021,
   0x030, 0x031, 0x032, 0x033, 0x034, 0x040].contains n
    || (decide (0x050 ≤ n) && decide (n ≤ 0x05F)) || (decide (0x060 ≤ n) && decide (n ≤ 0x064))

/-- A source whose LS bit is set names lat0 to lat3 in bits [1:0]; bits [4:2] are zero (R111). -/
def latchOk (sel : Bool) (r : BitVec 5) : Bool := !sel || decide (r.toNat < 4)

/-- WS = 1 only with vd zero (R111). -/
def wsOk (ws : BitVec 1) (vd : BitVec 5) : Bool := (ws == 0) || (vd == 0)

/-- A form K destination is k1 to k7 (R43, R187). DEDUCED (log 7): bits [20:19] are zero, as no mask register
above k7 exists. -/
def maskDest (kd : BitVec 5) : Bool := decide (1 ≤ kd.toNat) && decide (kd.toNat ≤ 7)

/-- Target tags of `vcvt`: not RAW, Q8, 0xE or POISON (R115). -/
def cvtTarget (tag : BitVec 4) : Bool := !([0x0, 0xD, 0xE, 0xF].contains tag.toNat)

/-- Target tags of `vcvt.sr`: BF16, F16, E4M3 or E5M2 (R28, R115). -/
def srTarget (tag : BitVec 4) : Bool := [0x8, 0x9, 0xA, 0xB].contains tag.toNat

/-- Load tags: codes of R25 other than 0xE and 0xF (R199). -/
def loadTag (tag : BitVec 4) : Bool := decide (tag.toNat < 14)

/-- Decoding codes of `vldf`, with or without bit 4 (R115). -/
def vldfCode (code : BitVec 5) : Bool := [0, 1, 2, 3, 4, 5, 8, 9].contains (code.toNat % 16)

/-- Storage codes of `mwld`; pb is zero for the codes that are not MX (R119, R120, R219). -/
def mwldCode (code pb : BitVec 4) : Bool :=
  decide (code.toNat ≤ 12) && (pb == 0 || (decide (6 ≤ code.toNat) && decide (code.toNat ≤ 11)))

/-- Kinds of `mconst`; pa is zero but for `perm` (R119, R229). -/
def mconstKind (kind : BitVec 3) (pa : BitVec 4) : Bool :=
  decide (kind.toNat ≤ 3) && (pa == 0 || kind == 1)

/-- A register block of length len from qb ends at q15 or before (R121). -/
def blockFits (qb : BitVec 4) (len : Nat) : Bool := decide (qb.toNat + len ≤ 16)

/-- slot is zero when SL = 0 (R121). -/
def slotOk (slot : BitVec 4) (sl : BitVec 1) : Bool := (sl == 1) || (slot == 0)

/-- Engine codes 0 to 5 and 7; 6 is unassigned (R121). -/
def engOk (eng : BitVec 3) : Bool := eng != 6

end WellFormed

open WellFormed in
/-- Is the instruction an assigned encoding (R101)? -/
def Instr.wellFormed : Instr → Bool
  | .add _ _ _ _ => true
  | .sub _ _ _ _ => true
  | .and _ _ _ _ => true
  | .or _ _ _ _ => true
  | .xor _ _ _ _ => true
  | .sll _ _ _ _ => true
  | .srl _ _ _ _ => true
  | .sra _ _ _ _ => true
  | .slt _ _ _ _ => true
  | .sltU _ _ _ _ => true
  | .min _ _ _ _ => true
  | .minU _ _ _ _ => true
  | .max _ _ _ _ => true
  | .maxU _ _ _ _ => true
  | .mul _ _ _ _ => true
  | .mulh _ _ _ _ => true
  | .mulhU _ _ _ _ => true
  | .div _ _ _ _ => true
  | .divU _ _ _ _ => true
  | .rem _ _ _ _ => true
  | .remU _ _ _ _ => true
  | .clz _ _ _ => true
  | .ctz _ _ _ => true
  | .popc _ _ _ => true
  | .fsh _ _ _ _ _ => true
  | .addImmediate _ _ _ _ => true
  | .andImmediate _ _ _ _ => true
  | .orImmediate _ _ _ _ => true
  | .xorImmediate _ _ _ _ => true
  | .sllImmediate _ _ _ _ => true
  | .srlImmediate _ _ _ _ => true
  | .sraImmediate _ _ _ _ => true
  | .sltImmediate _ _ _ _ => true
  | .bfx _ _ _ pos len1 => fieldFits pos len1
  | .bfxU _ _ _ pos len1 => fieldFits pos len1
  | .bfi _ _ _ pos len1 => fieldFits pos len1
  | .lui _ _ _ => true
  | .orsh _ _ _ => true
  | .ldB _ _ _ _ => true
  | .ldH _ _ _ _ => true
  | .ldW _ _ _ _ => true
  | .ldD _ _ _ _ => true
  | .ldBU _ _ _ _ => true
  | .ldHU _ _ _ _ => true
  | .ldWU _ _ _ _ => true
  | .stB _ _ _ _ => true
  | .stH _ _ _ _ => true
  | .stW _ _ _ _ => true
  | .stD _ _ _ _ => true
  | .ldlu _ _ _ _ => true
  | .pref _ _ _ => true
  | .resq _ _ _ _ => true
  | .amoSwap _ _ _ _ _ _ => true
  | .amoAdd _ _ _ _ _ _ => true
  | .amoAnd _ _ _ _ _ _ => true
  | .amoOr _ _ _ _ _ _ => true
  | .amoXor _ _ _ _ _ _ => true
  | .amoMin _ _ _ _ _ _ => true
  | .amoMax _ _ _ _ _ _ => true
  | .amoCas _ _ _ _ _ _ => true
  | .beq _ _ _ _ => true
  | .bne _ _ _ _ => true
  | .blt _ _ _ _ => true
  | .bge _ _ _ _ => true
  | .bltU _ _ _ _ => true
  | .bgeU _ _ _ _ => true
  | .jal _ _ _ => true
  | .jalr _ _ _ _ => true
  | .fadd _ _ _ _ _ => true
  | .fsub _ _ _ _ _ => true
  | .fmul _ _ _ _ _ => true
  | .fdiv _ _ _ _ _ => true
  | .fsqrt _ _ _ _ => true
  | .fmin _ _ _ _ _ => true
  | .fmax _ _ _ _ _ => true
  | .fma _ _ _ _ _ => true
  | .fcmpEq _ _ _ _ _ => true
  | .fcmpLt _ _ _ _ _ => true
  | .fcmpLe _ _ _ _ _ => true
  | .fcvtFromI64 _ _ _ _ _ => true
  | .fcvtFromU64 _ _ _ _ _ => true
  | .fcvtToI64 _ _ _ _ _ => true
  | .fcvtToU64 _ _ _ _ _ => true
  | .fcvtSD _ _ _ _ => true
  | .fcvtDS _ _ _ => true
  | .acwait _ _ _ _ => true
  | .acread _ _ _ => true
  | .bar _ _ _ => true
  | .wopen _ _ _ => true
  | .wnext _ _ _ => true
  | .wdone _ _ _ => true
  | .ipub _ _ _ => true
  | .solve _ _ _ => true
  | .pacq _ _ => true
  | .prel _ => true
  | .gtc _ _ => true
  | .snap _ => true
  | .hfence _ => true
  | .eret _ => true
  | .nendS _ => true
  | .crd _ _ cr => crListed cr.toNat
  | .cwr _ _ cr => crListed cr.toNat
  | .trap _ _ => true
  | .vadd _ vd va vb ws _ ls => latchOk (ls.getLsbD 0) va && latchOk (ls.getLsbD 1) vb && wsOk ws vd
  | .vsub _ vd va vb ws _ ls => latchOk (ls.getLsbD 0) va && latchOk (ls.getLsbD 1) vb && wsOk ws vd
  | .vmul _ vd va vb ws _ ls => latchOk (ls.getLsbD 0) va && latchOk (ls.getLsbD 1) vb && wsOk ws vd
  | .vfma _ _ va vb _ ls => latchOk (ls.getLsbD 0) va && latchOk (ls.getLsbD 1) vb
  | .vmin _ vd va vb ws _ ls => latchOk (ls.getLsbD 0) va && latchOk (ls.getLsbD 1) vb && wsOk ws vd
  | .vmax _ vd va vb ws _ ls => latchOk (ls.getLsbD 0) va && latchOk (ls.getLsbD 1) vb && wsOk ws vd
  | .vabs _ vd va ws _ ls => latchOk (ls.getLsbD 0) va && wsOk ws vd
  | .vneg _ vd va ws _ ls => latchOk (ls.getLsbD 0) va && wsOk ws vd
  | .vdiv _ vd va vb ws _ ls => latchOk (ls.getLsbD 0) va && latchOk (ls.getLsbD 1) vb && wsOk ws vd
  | .vrcp _ vd va ws _ ls => latchOk (ls.getLsbD 0) va && wsOk ws vd
  | .vrsq _ vd va ws _ ls => latchOk (ls.getLsbD 0) va && wsOk ws vd
  | .vsqrt _ vd va ws _ ls => latchOk (ls.getLsbD 0) va && wsOk ws vd
  | .vexp2 _ vd va ws _ ls => latchOk (ls.getLsbD 0) va && wsOk ws vd
  | .vlog2 _ vd va ws _ ls => latchOk (ls.getLsbD 0) va && wsOk ws vd
  | .vadds _ vd va vb ws _ ls => latchOk (ls.getLsbD 0) va && latchOk (ls.getLsbD 1) vb && wsOk ws vd
  | .vsubs _ vd va vb ws _ ls => latchOk (ls.getLsbD 0) va && latchOk (ls.getLsbD 1) vb && wsOk ws vd
  | .vand _ vd va vb ws _ ls => latchOk (ls.getLsbD 0) va && latchOk (ls.getLsbD 1) vb && wsOk ws vd
  | .vor _ vd va vb ws _ ls => latchOk (ls.getLsbD 0) va && latchOk (ls.getLsbD 1) vb && wsOk ws vd
  | .vxor _ vd va vb ws _ ls => latchOk (ls.getLsbD 0) va && latchOk (ls.getLsbD 1) vb && wsOk ws vd
  | .vsll _ vd va vb ws _ ls => latchOk (ls.getLsbD 0) va && latchOk (ls.getLsbD 1) vb && wsOk ws vd
  | .vsrl _ vd va vb ws _ ls => latchOk (ls.getLsbD 0) va && latchOk (ls.getLsbD 1) vb && wsOk ws vd
  | .vsra _ vd va vb ws _ ls => latchOk (ls.getLsbD 0) va && latchOk (ls.getLsbD 1) vb && wsOk ws vd
  | .vsllI _ vd va _ ws _ ls => latchOk (ls.getLsbD 0) va && wsOk ws vd
  | .vsrlI _ vd va _ ws _ ls => latchOk (ls.getLsbD 0) va && wsOk ws vd
  | .vsraI _ vd va _ ws _ ls => latchOk (ls.getLsbD 0) va && wsOk ws vd
  | .vbfx _ vd va vb ws _ ls => latchOk (ls.getLsbD 0) va && latchOk (ls.getLsbD 1) vb && wsOk ws vd
  | .vbfxU _ vd va vb ws _ ls => latchOk (ls.getLsbD 0) va && latchOk (ls.getLsbD 1) vb && wsOk ws vd
  | .vfsh _ _ va vb _ ls => latchOk (ls.getLsbD 0) va && latchOk (ls.getLsbD 1) vb
  | .vpopc _ vd va ws _ ls => latchOk (ls.getLsbD 0) va && wsOk ws vd
  | .vclz _ vd va ws _ ls => latchOk (ls.getLsbD 0) va && wsOk ws vd
  | .vcmpEq _ kd va vb _ ls => latchOk (ls.getLsbD 0) va && latchOk (ls.getLsbD 1) vb && kd != 0
  | .vcmpNe _ kd va vb _ ls => latchOk (ls.getLsbD 0) va && latchOk (ls.getLsbD 1) vb && kd != 0
  | .vcmpLt _ kd va vb _ ls => latchOk (ls.getLsbD 0) va && latchOk (ls.getLsbD 1) vb && kd != 0
  | .vcmpLe _ kd va vb _ ls => latchOk (ls.getLsbD 0) va && latchOk (ls.getLsbD 1) vb && kd != 0
  | .kand _ kd _ _ => maskDest kd
  | .kor _ kd _ _ => maskDest kd
  | .kxor _ kd _ _ => maskDest kd
  | .knot _ kd _ => maskDest kd
  | .vsel _ vd va vb ws _ ls => latchOk (ls.getLsbD 0) va && latchOk (ls.getLsbD 1) vb && wsOk ws vd
  | .vmov _ vd va ws _ ls => latchOk (ls.getLsbD 0) va && wsOk ws vd
  | .vbcast _ vd va vb ws _ ls => latchOk (ls.getLsbD 0) va && latchOk (ls.getLsbD 1) vb && wsOk ws vd
  | .vperm _ vd va vb ws _ ls => latchOk (ls.getLsbD 0) va && latchOk (ls.getLsbD 1) vb && wsOk ws vd
  | .vrot _ vd va vb ws _ ls => latchOk (ls.getLsbD 0) va && latchOk (ls.getLsbD 1) vb && wsOk ws vd
  | .vli _ vd _ ws _ => wsOk ws vd
  | .vidx _ vd ws _ => wsOk ws vd
  | .vredAdd _ vd va ws _ ls => latchOk (ls.getLsbD 0) va && wsOk ws vd
  | .vredMin _ vd va ws _ ls => latchOk (ls.getLsbD 0) va && wsOk ws vd
  | .vredMax _ vd va ws _ ls => latchOk (ls.getLsbD 0) va && wsOk ws vd
  | .vscanAdd _ vd va ws _ ls => latchOk (ls.getLsbD 0) va && wsOk ws vd
  | .vcvt _ _ vd va tag ws _ ls => latchOk (ls.getLsbD 0) va && wsOk ws vd && cvtTarget tag
  | .vcvtRz _ _ vd va tag ws _ ls => latchOk (ls.getLsbD 0) va && wsOk ws vd && cvtTarget tag
  | .vcvtSr _ _ vd va tag ws _ ls => latchOk (ls.getLsbD 0) va && wsOk ws vd && srTarget tag
  | .vsplit3 _ vd va part ws _ ls => latchOk (ls.getLsbD 0) va && wsOk ws vd && decide (1 ≤ part.toNat) && decide (part.toNat ≤ 3)
  | .vld _ vd va tag ws _ ls => latchOk (ls.getLsbD 0) va && wsOk ws vd && loadTag tag
  | .vst _ va vb _ ls => latchOk (ls.getLsbD 0) va && latchOk (ls.getLsbD 1) vb
  | .vldm _ vd va tag ws _ ls => latchOk (ls.getLsbD 0) va && wsOk ws vd && loadTag tag
  | .vstm _ va vb _ ls => latchOk (ls.getLsbD 0) va && latchOk (ls.getLsbD 1) vb
  | .vgath _ vd va tag ws _ ls => latchOk (ls.getLsbD 0) va && wsOk ws vd && loadTag tag
  | .vscat _ va vb _ ls => latchOk (ls.getLsbD 0) va && latchOk (ls.getLsbD 1) vb
  | .vldf _ vd va code ws _ ls => latchOk (ls.getLsbD 0) va && wsOk ws vd && vldfCode code
  | .vstf _ code va vb _ ls => latchOk (ls.getLsbD 0) va && latchOk (ls.getLsbD 1) vb && decide (code.toNat ≤ 5)
  | .vpal _ va _ ls => latchOk (ls.getLsbD 0) va
  | .vcgen _ vd va vb ws _ ls => latchOk (ls.getLsbD 0) va && latchOk (ls.getLsbD 1) vb && wsOk ws vd
  | .vovf _ va _ ls => latchOk (ls.getLsbD 0) va
  | .vlsc _ => true
  | .vadam _ _ va vb _ ls => latchOk (ls.getLsbD 0) va && latchOk (ls.getLsbD 1) vb
  | .vqenc _ vd va vb ws _ ls => latchOk (ls.getLsbD 0) va && latchOk (ls.getLsbD 1) vb && wsOk ws vd
  | .vqencPal1 _ vd va vb ws _ ls => latchOk (ls.getLsbD 0) va && latchOk (ls.getLsbD 1) vb && wsOk ws vd
  | .vloop _ _ _ => true
  | .nendV _ => true
  | .mwldSlot _ _ code pb => mwldCode code pb
  | .mwldScratchpad _ _ code pb => mwldCode code pb
  | .mswp _ => true
  | .mband _ _ => true
  | .mslot _ _ _ => true
  | .mmf _ _ _ _ fmt => decide (fmt.toNat ≤ 4)
  | .mmb _ _ _ _ fmt => decide (fmt.toNat ≤ 4)
  | .mmw _ _ _ _ fmt => decide (fmt.toNat ≤ 4)
  | .mconst _ _ pa _ kind => mconstKind kind pa
  | .mconstB _ _ pa _ kind => mconstKind kind pa
  | .mzero _ _ => true
  | .macc _ _ _ _ => true
  | .madr _ _ _ _ code => decide (code.toNat ≤ 6)
  | .madrRz _ _ _ _ code => decide (code.toNat ≤ 6)
  | .madrSr _ _ _ _ code => decide (1 ≤ code.toNat) && decide (code.toNat ≤ 4)
  | .mchk _ _ => true
  | .mbind _ _ _ => true
  | .mimm _ _ _ _ _ => true
  | .mimmHi _ _ _ _ _ => true
  | .mimmMid _ _ _ _ _ => true
  | .mimmLo _ _ _ _ _ => true
  | .mimv _ _ _ _ _ _ => true
  | .mli _ _ _ => true
  | .mlih _ _ _ => true
  | .maddi _ _ _ _ => true
  | .madd _ _ _ _ => true
  | .mmuli _ _ _ _ => true
  | .mlds _ _ _ _ => true
  | .mloop _ _ _ => true
  | .nendM _ => true
  | .ccopy1d _ qb slot sl eng => blockFits qb 6 && slotOk slot sl && engOk eng
  | .ccopy2d _ qb slot sl eng => blockFits qb 8 && slotOk slot sl && engOk eng
  | .ccopy3d _ qb slot sl eng => blockFits qb 10 && slotOk slot sl && engOk eng
  | .cgath _ qb slot sl eng => blockFits qb 8 && slotOk slot sl && engOk eng
  | .cscat _ qb slot sl eng => blockFits qb 8 && slotOk slot sl && engOk eng
  | .cfill _ qb slot sl eng => blockFits qb 6 && slotOk slot sl && engOk eng
  | .cradd _ qb slot sl eng => blockFits qb 6 && slotOk slot sl && engOk eng
  | .cfput _ qb slot sl eng => blockFits qb 6 && slotOk slot sl && engOk eng
  | .cfget _ qb slot sl eng => blockFits qb 6 && slotOk slot sl && engOk eng
  | .crs _ qb slot sl eng => blockFits qb 8 && slotOk slot sl && engOk eng
  | .cag _ qb slot sl eng => blockFits qb 8 && slotOk slot sl && engOk eng
  | .carm _ qb eng => blockFits qb 8 && engOk eng
  | .csend _ _ eng => engOk eng
  | .cfence _ => true
  | .cpermit _ _ _ => true
  | .qli _ _ _ => true
  | .qlih _ _ _ => true
  | .qaddi _ _ _ _ => true
  | .qadd _ _ _ _ => true
  | .qlds _ _ _ _ => true
  | .qloop _ _ _ => true
  | .nendC _ => true
  | .heldPush _ _ => true
  | .tokenDeadlock _ => true
  | .trapEntry _ _ => true
  | .handlerStart _ => true
  | .nodeCommit _ => true
  | .commitAcknowledged _ => true
  | .mPathRetire _ _ => true
  | .planeSwap _ => true
  | .paletteCheckEnd _ => true
  | .copyAdmission _ _ => true
  | .copyStart _ _ => true
  | .copyComplete _ _ => true
  | .collectiveArrival _ _ => true
  | .counterDelivery _ => true
  | .pendingActionRetry _ => true
  | .acwaitPoll _ => true
  | .counterDisarm _ => true
  | .walkPrefetchComplete _ _ _ => true
  | .allocateNode _ => true
  | .lateFieldResolve _ _ => true
  | .launchStart _ => true
  | .launchComplete _ _ => true
  | .preempt _ _ => true
  | .release _ _ => true
  | .nodeSaveComplete _ => true
  | .saveTimeout _ => true
  | .nodeRestore _ _ => true
  | .go _ _ => true
  | .rangeTableActivation _ => true
  | .migcmd _ => true
  | .migrationCopy => true
  | .migrationRedirect => true
  | .migrationReplay => true
  | .solveIterationComplete _ _ => true
  | .solveDeadline _ => true
  | .solveVerifyProduct _ _ => true
  | .solveFinish _ => true
  | .pacqGrant _ => true
  | .allotmentUpdate => true
  | .capw _ => true
  | .halt => true
  | .thermalThrottle _ _ => true
  | .thermalHalt _ _ => true
  | .thermalPowerOff _ _ => true
  | .rollback _ _ => true
  | .controlDivergence _ _ => true
  | .accumulatorScrub _ _ => true
  | .memoryScrub _ _ => true
  | .hostMemoryRead _ _ => true
  | .hostMemoryWrite _ _ => true
  | .hostLineRequest _ => true
  | .backInvalidateSnoop _ _ => true
  | .inboundFabricRequest _ _ => true
  | .fabricCompletionTimeout _ _ => true
  | .completerAbort _ _ => true
  | .linkTraining _ _ => true
  | .linkDown _ _ => true
  | .laneFailure _ _ => true
  | .pwid _ _ => true
  | .widthChangeComplete _ => true
  | .inbpWrite _ _ => true
  | .eqbaseWrite _ _ => true
  | .telemetryEnableWrite _ _ _ => true
  | .counterDump _ => true
  | .traceSample _ _ => true
  | .snapshotTrigger _ _ => true
  | .snapshotWriteOut _ => true
  | .snaprel _ => true
  | .controlRegisterWrite _ _ _ => true
  | .powerOnBringUp => true
  | .resetBoot => true
  | .pldmFirmwareUpdate _ => true
  | .pldmMonitoring _ => true
  | .spdmMeasurements => true
  | .spareCore _ => true
  | .rowSparing _ => true
  | .channelRetirement _ => true
  | .objectLoad _ _ => true
  | .memoryAccessComplete _ _ => true

end Sys2Proof
end

