-- ==== Sys2Proof/Decode.lean ====
section
/-! DEFINITION. The decoders of the four streams (R103 to R122), total on every word, and after them the
encoder. A word is read by its opcode, then by the function and zero fields its row fixes; a word that no row
gives is rejected by name, and so is one whose fields break a value rule of WellFormed. -/

namespace Sys2Proof

/-- Why a word is no instruction of a stream: no row of the opcode maps, or a field value that its row does not
allow (R101). Both are the illegal encoding, cause 0x01. -/
inductive Reject where
  | unassigned
  | illegalField
  deriving DecidableEq, Repr

/-- Bits [lo + len - 1 : lo] of a word. -/
def bits (w lo len : Nat) : BitVec len := BitVec.ofNat len (w / 2 ^ lo)

/-- The token fields of a word (R100). -/
def tok (w : Nat) : Tok := { pop := bits w 30 2, push := bits w 28 2 }

/-- The value of bits [lo + len - 1 : lo] as a number. -/
def fieldNat (w lo len : Nat) : Nat := w / 2 ^ lo % 2 ^ len

/-- The row of the scalar stream that a word of opcode op matches, with its fields (R103 to R109). -/
def rowSAt (op w : Nat) : Option Instr :=
  match op with
  | 0x01 =>
    if fieldNat w 0 7 = 0x0 then some (.add (tok w) (bits w 17 5) (bits w 12 5) (bits w 7 5)) else
    if fieldNat w 0 7 = 0x1 then some (.sub (tok w) (bits w 17 5) (bits w 12 5) (bits w 7 5)) else
    if fieldNat w 0 7 = 0x2 then some (.and (tok w) (bits w 17 5) (bits w 12 5) (bits w 7 5)) else
    if fieldNat w 0 7 = 0x3 then some (.or (tok w) (bits w 17 5) (bits w 12 5) (bits w 7 5)) else
    if fieldNat w 0 7 = 0x4 then some (.xor (tok w) (bits w 17 5) (bits w 12 5) (bits w 7 5)) else
    if fieldNat w 0 7 = 0x5 then some (.sll (tok w) (bits w 17 5) (bits w 12 5) (bits w 7 5)) else
    if fieldNat w 0 7 = 0x6 then some (.srl (tok w) (bits w 17 5) (bits w 12 5) (bits w 7 5)) else
    if fieldNat w 0 7 = 0x7 then some (.sra (tok w) (bits w 17 5) (bits w 12 5) (bits w 7 5)) else
    if fieldNat w 0 7 = 0x8 then some (.slt (tok w) (bits w 17 5) (bits w 12 5) (bits w 7 5)) else
    if fieldNat w 0 7 = 0x9 then some (.sltU (tok w) (bits w 17 5) (bits w 12 5) (bits w 7 5)) else
    if fieldNat w 0 7 = 0xA then some (.min (tok w) (bits w 17 5) (bits w 12 5) (bits w 7 5)) else
    if fieldNat w 0 7 = 0xB then some (.minU (tok w) (bits w 17 5) (bits w 12 5) (bits w 7 5)) else
    if fieldNat w 0 7 = 0xC then some (.max (tok w) (bits w 17 5) (bits w 12 5) (bits w 7 5)) else
    if fieldNat w 0 7 = 0xD then some (.maxU (tok w) (bits w 17 5) (bits w 12 5) (bits w 7 5)) else
    none
  | 0x02 =>
    if fieldNat w 0 7 = 0x0 then some (.mul (tok w) (bits w 17 5) (bits w 12 5) (bits w 7 5)) else
    if fieldNat w 0 7 = 0x1 then some (.mulh (tok w) (bits w 17 5) (bits w 12 5) (bits w 7 5)) else
    if fieldNat w 0 7 = 0x2 then some (.mulhU (tok w) (bits w 17 5) (bits w 12 5) (bits w 7 5)) else
    if fieldNat w 0 7 = 0x3 then some (.div (tok w) (bits w 17 5) (bits w 12 5) (bits w 7 5)) else
    if fieldNat w 0 7 = 0x4 then some (.divU (tok w) (bits w 17 5) (bits w 12 5) (bits w 7 5)) else
    if fieldNat w 0 7 = 0x5 then some (.rem (tok w) (bits w 17 5) (bits w 12 5) (bits w 7 5)) else
    if fieldNat w 0 7 = 0x6 then some (.remU (tok w) (bits w 17 5) (bits w 12 5) (bits w 7 5)) else
    none
  | 0x03 =>
    if fieldNat w 0 12 = 0x0 then some (.clz (tok w) (bits w 17 5) (bits w 12 5)) else
    if fieldNat w 0 12 = 0x1 then some (.ctz (tok w) (bits w 17 5) (bits w 12 5)) else
    if fieldNat w 0 12 = 0x2 then some (.popc (tok w) (bits w 17 5) (bits w 12 5)) else
    if fieldNat w 6 1 = 0x1 then some (.fsh (tok w) (bits w 17 5) (bits w 12 5) (bits w 7 5) (bits w 0 6)) else
    none
  | 0x04 =>
    some (.addImmediate (tok w) (bits w 17 5) (bits w 12 5) (bits w 0 12))
  | 0x05 =>
    some (.andImmediate (tok w) (bits w 17 5) (bits w 12 5) (bits w 0 12))
  | 0x06 =>
    some (.orImmediate (tok w) (bits w 17 5) (bits w 12 5) (bits w 0 12))
  | 0x07 =>
    some (.xorImmediate (tok w) (bits w 17 5) (bits w 12 5) (bits w 0 12))
  | 0x08 =>
    if fieldNat w 6 6 = 0x0 then some (.sllImmediate (tok w) (bits w 17 5) (bits w 12 5) (bits w 0 6)) else
    none
  | 0x09 =>
    if fieldNat w 6 6 = 0x0 then some (.srlImmediate (tok w) (bits w 17 5) (bits w 12 5) (bits w 0 6)) else
    none
  | 0x0A =>
    if fieldNat w 6 6 = 0x0 then some (.sraImmediate (tok w) (bits w 17 5) (bits w 12 5) (bits w 0 6)) else
    none
  | 0x0B =>
    some (.sltImmediate (tok w) (bits w 17 5) (bits w 12 5) (bits w 0 12))
  | 0x0C =>
    some (.bfx (tok w) (bits w 17 5) (bits w 12 5) (bits w 6 6) (bits w 0 6))
  | 0x0D =>
    some (.bfxU (tok w) (bits w 17 5) (bits w 12 5) (bits w 6 6) (bits w 0 6))
  | 0x0E =>
    some (.bfi (tok w) (bits w 17 5) (bits w 12 5) (bits w 6 6) (bits w 0 6))
  | 0x0F =>
    some (.lui (tok w) (bits w 17 5) (bits w 0 17))
  | 0x10 =>
    if fieldNat w 16 1 = 0x0 then some (.orsh (tok w) (bits w 17 5) (bits w 0 16)) else
    none
  | 0x11 =>
    some (.ldB (tok w) (bits w 17 5) (bits w 12 5) (bits w 0 12))
  | 0x12 =>
    some (.ldH (tok w) (bits w 17 5) (bits w 12 5) (bits w 0 12))
  | 0x13 =>
    some (.ldW (tok w) (bits w 17 5) (bits w 12 5) (bits w 0 12))
  | 0x14 =>
    some (.ldD (tok w) (bits w 17 5) (bits w 12 5) (bits w 0 12))
  | 0x15 =>
    some (.ldBU (tok w) (bits w 17 5) (bits w 12 5) (bits w 0 12))
  | 0x16 =>
    some (.ldHU (tok w) (bits w 17 5) (bits w 12 5) (bits w 0 12))
  | 0x17 =>
    some (.ldWU (tok w) (bits w 17 5) (bits w 12 5) (bits w 0 12))
  | 0x18 =>
    some (.stB (tok w) (bits w 17 5) (bits w 12 5) (bits w 0 12))
  | 0x19 =>
    some (.stH (tok w) (bits w 17 5) (bits w 12 5) (bits w 0 12))
  | 0x1A =>
    some (.stW (tok w) (bits w 17 5) (bits w 12 5) (bits w 0 12))
  | 0x1B =>
    some (.stD (tok w) (bits w 17 5) (bits w 12 5) (bits w 0 12))
  | 0x1C =>
    some (.ldlu (tok w) (bits w 17 5) (bits w 12 5) (bits w 0 12))
  | 0x1D =>
    if fieldNat w 17 5 = 0x0 then some (.pref (tok w) (bits w 12 5) (bits w 0 12)) else
    none
  | 0x1E =>
    some (.resq (tok w) (bits w 17 5) (bits w 12 5) (bits w 0 12))
  | 0x1F =>
    if fieldNat w 0 1 = 0x0 ∧ fieldNat w 4 3 = 0x0 then some (.amoSwap (tok w) (bits w 17 5) (bits w 12 5) (bits w 7 5) (bits w 2 2) (bits w 1 1)) else
    if fieldNat w 0 1 = 0x0 ∧ fieldNat w 4 3 = 0x1 then some (.amoAdd (tok w) (bits w 17 5) (bits w 12 5) (bits w 7 5) (bits w 2 2) (bits w 1 1)) else
    if fieldNat w 0 1 = 0x0 ∧ fieldNat w 4 3 = 0x2 then some (.amoAnd (tok w) (bits w 17 5) (bits w 12 5) (bits w 7 5) (bits w 2 2) (bits w 1 1)) else
    if fieldNat w 0 1 = 0x0 ∧ fieldNat w 4 3 = 0x3 then some (.amoOr (tok w) (bits w 17 5) (bits w 12 5) (bits w 7 5) (bits w 2 2) (bits w 1 1)) else
    if fieldNat w 0 1 = 0x0 ∧ fieldNat w 4 3 = 0x4 then some (.amoXor (tok w) (bits w 17 5) (bits w 12 5) (bits w 7 5) (bits w 2 2) (bits w 1 1)) else
    if fieldNat w 0 1 = 0x0 ∧ fieldNat w 4 3 = 0x5 then some (.amoMin (tok w) (bits w 17 5) (bits w 12 5) (bits w 7 5) (bits w 2 2) (bits w 1 1)) else
    if fieldNat w 0 1 = 0x0 ∧ fieldNat w 4 3 = 0x6 then some (.amoMax (tok w) (bits w 17 5) (bits w 12 5) (bits w 7 5) (bits w 2 2) (bits w 1 1)) else
    if fieldNat w 0 1 = 0x0 ∧ fieldNat w 4 3 = 0x7 then some (.amoCas (tok w) (bits w 17 5) (bits w 12 5) (bits w 7 5) (bits w 2 2) (bits w 1 1)) else
    none
  | 0x20 =>
    some (.beq (tok w) (bits w 17 5) (bits w 12 5) (bits w 0 12))
  | 0x21 =>
    some (.bne (tok w) (bits w 17 5) (bits w 12 5) (bits w 0 12))
  | 0x22 =>
    some (.blt (tok w) (bits w 17 5) (bits w 12 5) (bits w 0 12))
  | 0x23 =>
    some (.bge (tok w) (bits w 17 5) (bits w 12 5) (bits w 0 12))
  | 0x24 =>
    some (.bltU (tok w) (bits w 17 5) (bits w 12 5) (bits w 0 12))
  | 0x25 =>
    some (.bgeU (tok w) (bits w 17 5) (bits w 12 5) (bits w 0 12))
  | 0x26 =>
    some (.jal (tok w) (bits w 17 5) (bits w 0 17))
  | 0x27 =>
    some (.jalr (tok w) (bits w 17 5) (bits w 12 5) (bits w 0 12))
  | 0x28 =>
    if fieldNat w 0 6 = 0x0 then some (.fadd (tok w) (bits w 17 5) (bits w 12 5) (bits w 7 5) (bits w 6 1)) else
    if fieldNat w 0 6 = 0x1 then some (.fsub (tok w) (bits w 17 5) (bits w 12 5) (bits w 7 5) (bits w 6 1)) else
    if fieldNat w 0 6 = 0x2 then some (.fmul (tok w) (bits w 17 5) (bits w 12 5) (bits w 7 5) (bits w 6 1)) else
    if fieldNat w 0 6 = 0x3 then some (.fdiv (tok w) (bits w 17 5) (bits w 12 5) (bits w 7 5) (bits w 6 1)) else
    if fieldNat w 0 6 = 0x4 ∧ fieldNat w 7 5 = 0x0 then some (.fsqrt (tok w) (bits w 17 5) (bits w 12 5) (bits w 6 1)) else
    if fieldNat w 0 6 = 0x5 then some (.fmin (tok w) (bits w 17 5) (bits w 12 5) (bits w 7 5) (bits w 6 1)) else
    if fieldNat w 0 6 = 0x6 then some (.fmax (tok w) (bits w 17 5) (bits w 12 5) (bits w 7 5) (bits w 6 1)) else
    if fieldNat w 0 6 = 0x7 then some (.fma (tok w) (bits w 17 5) (bits w 12 5) (bits w 7 5) (bits w 6 1)) else
    if fieldNat w 0 6 = 0x8 then some (.fcmpEq (tok w) (bits w 17 5) (bits w 12 5) (bits w 7 5) (bits w 6 1)) else
    if fieldNat w 0 6 = 0x9 then some (.fcmpLt (tok w) (bits w 17 5) (bits w 12 5) (bits w 7 5) (bits w 6 1)) else
    if fieldNat w 0 6 = 0xA then some (.fcmpLe (tok w) (bits w 17 5) (bits w 12 5) (bits w 7 5) (bits w 6 1)) else
    if fieldNat w 0 5 = 0x10 ∧ fieldNat w 7 5 = 0x0 then some (.fcvtFromI64 (tok w) (bits w 17 5) (bits w 12 5) (bits w 6 1) (bits w 5 1)) else
    if fieldNat w 0 5 = 0x11 ∧ fieldNat w 7 5 = 0x0 then some (.fcvtFromU64 (tok w) (bits w 17 5) (bits w 12 5) (bits w 6 1) (bits w 5 1)) else
    if fieldNat w 0 5 = 0x12 ∧ fieldNat w 7 5 = 0x0 then some (.fcvtToI64 (tok w) (bits w 17 5) (bits w 12 5) (bits w 6 1) (bits w 5 1)) else
    if fieldNat w 0 5 = 0x13 ∧ fieldNat w 7 5 = 0x0 then some (.fcvtToU64 (tok w) (bits w 17 5) (bits w 12 5) (bits w 6 1) (bits w 5 1)) else
    if fieldNat w 0 5 = 0x14 ∧ fieldNat w 6 6 = 0x0 then some (.fcvtSD (tok w) (bits w 17 5) (bits w 12 5) (bits w 5 1)) else
    if fieldNat w 0 12 = 0x54 then some (.fcvtDS (tok w) (bits w 17 5) (bits w 12 5)) else
    none
  | 0x30 =>
    if fieldNat w 0 7 = 0x0 then some (.acwait (tok w) (bits w 17 5) (bits w 12 5) (bits w 7 5)) else
    if fieldNat w 0 12 = 0x1 then some (.acread (tok w) (bits w 17 5) (bits w 12 5)) else
    if fieldNat w 0 7 = 0x2 ∧ fieldNat w 17 5 = 0x0 then some (.bar (tok w) (bits w 12 5) (bits w 7 5)) else
    if fieldNat w 0 12 = 0x3 then some (.wopen (tok w) (bits w 17 5) (bits w 12 5)) else
    if fieldNat w 0 12 = 0x4 then some (.wnext (tok w) (bits w 17 5) (bits w 12 5)) else
    if fieldNat w 0 7 = 0x5 ∧ fieldNat w 17 5 = 0x0 then some (.wdone (tok w) (bits w 12 5) (bits w 7 5)) else
    if fieldNat w 0 7 = 0x6 ∧ fieldNat w 17 5 = 0x0 then some (.ipub (tok w) (bits w 12 5) (bits w 7 5)) else
    if fieldNat w 0 12 = 0x7 then some (.solve (tok w) (bits w 17 5) (bits w 12 5)) else
    if fieldNat w 0 12 = 0x8 ∧ fieldNat w 17 5 = 0x0 then some (.pacq (tok w) (bits w 12 5)) else
    if fieldNat w 0 22 = 0x9 then some (.prel (tok w)) else
    if fieldNat w 0 17 = 0xA then some (.gtc (tok w) (bits w 17 5)) else
    if fieldNat w 0 22 = 0xB then some (.snap (tok w)) else
    if fieldNat w 0 22 = 0xC then some (.hfence (tok w)) else
    if fieldNat w 0 22 = 0xD then some (.eret (tok w)) else
    if fieldNat w 0 22 = 0xE then some (.nendS (tok w)) else
    none
  | 0x31 =>
    if fieldNat w 12 5 = 0x0 then some (.crd (tok w) (bits w 17 5) (bits w 0 12)) else
    none
  | 0x32 =>
    if fieldNat w 17 5 = 0x0 then some (.cwr (tok w) (bits w 12 5) (bits w 0 12)) else
    none
  | 0x33 =>
    if fieldNat w 12 10 = 0x0 then some (.trap (tok w) (bits w 0 12)) else
    none
  | _ => none

/-- The row of the scalar stream that a word matches: its opcode chooses. -/
def rowS (w : Nat) : Option Instr := rowSAt (fieldNat w 22 6) w

/-- The row of the vector stream that a word of opcode op matches, with its fields (R110 to R115). -/
def rowVAt (op w : Nat) : Option Instr :=
  match op with
  | 0x01 =>
    some (.vadd (tok w) (bits w 16 5) (bits w 11 5) (bits w 6 5) (bits w 5 1) (bits w 2 3) (bits w 0 2))
  | 0x02 =>
    some (.vsub (tok w) (bits w 16 5) (bits w 11 5) (bits w 6 5) (bits w 5 1) (bits w 2 3) (bits w 0 2))
  | 0x03 =>
    some (.vmul (tok w) (bits w 16 5) (bits w 11 5) (bits w 6 5) (bits w 5 1) (bits w 2 3) (bits w 0 2))
  | 0x04 =>
    if fieldNat w 5 1 = 0x0 then some (.vfma (tok w) (bits w 16 5) (bits w 11 5) (bits w 6 5) (bits w 2 3) (bits w 0 2)) else
    none
  | 0x05 =>
    some (.vmin (tok w) (bits w 16 5) (bits w 11 5) (bits w 6 5) (bits w 5 1) (bits w 2 3) (bits w 0 2))
  | 0x06 =>
    some (.vmax (tok w) (bits w 16 5) (bits w 11 5) (bits w 6 5) (bits w 5 1) (bits w 2 3) (bits w 0 2))
  | 0x07 =>
    if fieldNat w 1 1 = 0x0 ∧ fieldNat w 6 5 = 0x0 then some (.vabs (tok w) (bits w 16 5) (bits w 11 5) (bits w 5 1) (bits w 2 3) (bits w 0 1)) else
    none
  | 0x08 =>
    if fieldNat w 1 1 = 0x0 ∧ fieldNat w 6 5 = 0x0 then some (.vneg (tok w) (bits w 16 5) (bits w 11 5) (bits w 5 1) (bits w 2 3) (bits w 0 1)) else
    none
  | 0x09 =>
    some (.vdiv (tok w) (bits w 16 5) (bits w 11 5) (bits w 6 5) (bits w 5 1) (bits w 2 3) (bits w 0 2))
  | 0x0A =>
    if fieldNat w 1 1 = 0x0 ∧ fieldNat w 6 5 = 0x0 then some (.vrcp (tok w) (bits w 16 5) (bits w 11 5) (bits w 5 1) (bits w 2 3) (bits w 0 1)) else
    none
  | 0x0B =>
    if fieldNat w 1 1 = 0x0 ∧ fieldNat w 6 5 = 0x0 then some (.vrsq (tok w) (bits w 16 5) (bits w 11 5) (bits w 5 1) (bits w 2 3) (bits w 0 1)) else
    none
  | 0x0C =>
    if fieldNat w 1 1 = 0x0 ∧ fieldNat w 6 5 = 0x0 then some (.vsqrt (tok w) (bits w 16 5) (bits w 11 5) (bits w 5 1) (bits w 2 3) (bits w 0 1)) else
    none
  | 0x0D =>
    if fieldNat w 1 1 = 0x0 ∧ fieldNat w 6 5 = 0x0 then some (.vexp2 (tok w) (bits w 16 5) (bits w 11 5) (bits w 5 1) (bits w 2 3) (bits w 0 1)) else
    none
  | 0x0E =>
    if fieldNat w 1 1 = 0x0 ∧ fieldNat w 6 5 = 0x0 then some (.vlog2 (tok w) (bits w 16 5) (bits w 11 5) (bits w 5 1) (bits w 2 3) (bits w 0 1)) else
    none
  | 0x0F =>
    some (.vadds (tok w) (bits w 16 5) (bits w 11 5) (bits w 6 5) (bits w 5 1) (bits w 2 3) (bits w 0 2))
  | 0x10 =>
    some (.vsubs (tok w) (bits w 16 5) (bits w 11 5) (bits w 6 5) (bits w 5 1) (bits w 2 3) (bits w 0 2))
  | 0x11 =>
    some (.vand (tok w) (bits w 16 5) (bits w 11 5) (bits w 6 5) (bits w 5 1) (bits w 2 3) (bits w 0 2))
  | 0x12 =>
    some (.vor (tok w) (bits w 16 5) (bits w 11 5) (bits w 6 5) (bits w 5 1) (bits w 2 3) (bits w 0 2))
  | 0x13 =>
    some (.vxor (tok w) (bits w 16 5) (bits w 11 5) (bits w 6 5) (bits w 5 1) (bits w 2 3) (bits w 0 2))
  | 0x14 =>
    some (.vsll (tok w) (bits w 16 5) (bits w 11 5) (bits w 6 5) (bits w 5 1) (bits w 2 3) (bits w 0 2))
  | 0x15 =>
    some (.vsrl (tok w) (bits w 16 5) (bits w 11 5) (bits w 6 5) (bits w 5 1) (bits w 2 3) (bits w 0 2))
  | 0x16 =>
    some (.vsra (tok w) (bits w 16 5) (bits w 11 5) (bits w 6 5) (bits w 5 1) (bits w 2 3) (bits w 0 2))
  | 0x17 =>
    if fieldNat w 1 1 = 0x0 then some (.vsllI (tok w) (bits w 16 5) (bits w 11 5) (bits w 6 5) (bits w 5 1) (bits w 2 3) (bits w 0 1)) else
    none
  | 0x18 =>
    if fieldNat w 1 1 = 0x0 then some (.vsrlI (tok w) (bits w 16 5) (bits w 11 5) (bits w 6 5) (bits w 5 1) (bits w 2 3) (bits w 0 1)) else
    none
  | 0x19 =>
    if fieldNat w 1 1 = 0x0 then some (.vsraI (tok w) (bits w 16 5) (bits w 11 5) (bits w 6 5) (bits w 5 1) (bits w 2 3) (bits w 0 1)) else
    none
  | 0x1A =>
    some (.vbfx (tok w) (bits w 16 5) (bits w 11 5) (bits w 6 5) (bits w 5 1) (bits w 2 3) (bits w 0 2))
  | 0x1B =>
    some (.vbfxU (tok w) (bits w 16 5) (bits w 11 5) (bits w 6 5) (bits w 5 1) (bits w 2 3) (bits w 0 2))
  | 0x1C =>
    if fieldNat w 5 1 = 0x0 then some (.vfsh (tok w) (bits w 16 5) (bits w 11 5) (bits w 6 5) (bits w 2 3) (bits w 0 2)) else
    none
  | 0x1D =>
    if fieldNat w 1 1 = 0x0 ∧ fieldNat w 6 5 = 0x0 then some (.vpopc (tok w) (bits w 16 5) (bits w 11 5) (bits w 5 1) (bits w 2 3) (bits w 0 1)) else
    none
  | 0x1E =>
    if fieldNat w 1 1 = 0x0 ∧ fieldNat w 6 5 = 0x0 then some (.vclz (tok w) (bits w 16 5) (bits w 11 5) (bits w 5 1) (bits w 2 3) (bits w 0 1)) else
    none
  | 0x20 =>
    if fieldNat w 5 1 = 0x0 ∧ fieldNat w 19 2 = 0x0 then some (.vcmpEq (tok w) (bits w 16 3) (bits w 11 5) (bits w 6 5) (bits w 2 3) (bits w 0 2)) else
    none
  | 0x21 =>
    if fieldNat w 5 1 = 0x0 ∧ fieldNat w 19 2 = 0x0 then some (.vcmpNe (tok w) (bits w 16 3) (bits w 11 5) (bits w 6 5) (bits w 2 3) (bits w 0 2)) else
    none
  | 0x22 =>
    if fieldNat w 5 1 = 0x0 ∧ fieldNat w 19 2 = 0x0 then some (.vcmpLt (tok w) (bits w 16 3) (bits w 11 5) (bits w 6 5) (bits w 2 3) (bits w 0 2)) else
    none
  | 0x23 =>
    if fieldNat w 5 1 = 0x0 ∧ fieldNat w 19 2 = 0x0 then some (.vcmpLe (tok w) (bits w 16 3) (bits w 11 5) (bits w 6 5) (bits w 2 3) (bits w 0 2)) else
    none
  | 0x24 =>
    if fieldNat w 0 6 = 0x0 ∧ fieldNat w 9 2 = 0x0 ∧ fieldNat w 14 2 = 0x0 then some (.kand (tok w) (bits w 16 5) (bits w 11 3) (bits w 6 3)) else
    none
  | 0x25 =>
    if fieldNat w 0 6 = 0x0 ∧ fieldNat w 9 2 = 0x0 ∧ fieldNat w 14 2 = 0x0 then some (.kor (tok w) (bits w 16 5) (bits w 11 3) (bits w 6 3)) else
    none
  | 0x26 =>
    if fieldNat w 0 6 = 0x0 ∧ fieldNat w 9 2 = 0x0 ∧ fieldNat w 14 2 = 0x0 then some (.kxor (tok w) (bits w 16 5) (bits w 11 3) (bits w 6 3)) else
    none
  | 0x27 =>
    if fieldNat w 0 11 = 0x0 ∧ fieldNat w 14 2 = 0x0 then some (.knot (tok w) (bits w 16 5) (bits w 11 3)) else
    none
  | 0x28 =>
    some (.vsel (tok w) (bits w 16 5) (bits w 11 5) (bits w 6 5) (bits w 5 1) (bits w 2 3) (bits w 0 2))
  | 0x29 =>
    if fieldNat w 1 1 = 0x0 ∧ fieldNat w 6 5 = 0x0 then some (.vmov (tok w) (bits w 16 5) (bits w 11 5) (bits w 5 1) (bits w 2 3) (bits w 0 1)) else
    none
  | 0x2A =>
    some (.vbcast (tok w) (bits w 16 5) (bits w 11 5) (bits w 6 5) (bits w 5 1) (bits w 2 3) (bits w 0 2))
  | 0x2B =>
    some (.vperm (tok w) (bits w 16 5) (bits w 11 5) (bits w 6 5) (bits w 5 1) (bits w 2 3) (bits w 0 2))
  | 0x2C =>
    some (.vrot (tok w) (bits w 16 5) (bits w 11 5) (bits w 6 5) (bits w 5 1) (bits w 2 3) (bits w 0 2))
  | 0x2D =>
    if fieldNat w 0 2 = 0x0 then some (.vli (tok w) (bits w 16 5) (bits w 6 10) (bits w 5 1) (bits w 2 3)) else
    none
  | 0x2E =>
    if fieldNat w 0 2 = 0x0 ∧ fieldNat w 6 10 = 0x0 then some (.vidx (tok w) (bits w 16 5) (bits w 5 1) (bits w 2 3)) else
    none
  | 0x30 =>
    if fieldNat w 1 1 = 0x0 ∧ fieldNat w 6 5 = 0x0 then some (.vredAdd (tok w) (bits w 16 5) (bits w 11 5) (bits w 5 1) (bits w 2 3) (bits w 0 1)) else
    none
  | 0x31 =>
    if fieldNat w 1 1 = 0x0 ∧ fieldNat w 6 5 = 0x0 then some (.vredMin (tok w) (bits w 16 5) (bits w 11 5) (bits w 5 1) (bits w 2 3) (bits w 0 1)) else
    none
  | 0x32 =>
    if fieldNat w 1 1 = 0x0 ∧ fieldNat w 6 5 = 0x0 then some (.vredMax (tok w) (bits w 16 5) (bits w 11 5) (bits w 5 1) (bits w 2 3) (bits w 0 1)) else
    none
  | 0x33 =>
    if fieldNat w 1 1 = 0x0 ∧ fieldNat w 6 5 = 0x0 then some (.vscanAdd (tok w) (bits w 16 5) (bits w 11 5) (bits w 5 1) (bits w 2 3) (bits w 0 1)) else
    none
  | 0x40 =>
    if fieldNat w 1 1 = 0x0 ∧ fieldNat w 10 1 = 0x0 then some (.vcvt (tok w) (bits w 21 2) (bits w 16 5) (bits w 11 5) (bits w 6 4) (bits w 5 1) (bits w 2 3) (bits w 0 1)) else
    none
  | 0x41 =>
    if fieldNat w 1 1 = 0x0 ∧ fieldNat w 10 1 = 0x0 then some (.vcvt (tok w) (bits w 21 2) (bits w 16 5) (bits w 11 5) (bits w 6 4) (bits w 5 1) (bits w 2 3) (bits w 0 1)) else
    none
  | 0x42 =>
    if fieldNat w 1 1 = 0x0 ∧ fieldNat w 10 1 = 0x0 then some (.vcvt (tok w) (bits w 21 2) (bits w 16 5) (bits w 11 5) (bits w 6 4) (bits w 5 1) (bits w 2 3) (bits w 0 1)) else
    none
  | 0x43 =>
    if fieldNat w 1 1 = 0x0 ∧ fieldNat w 10 1 = 0x0 then some (.vcvt (tok w) (bits w 21 2) (bits w 16 5) (bits w 11 5) (bits w 6 4) (bits w 5 1) (bits w 2 3) (bits w 0 1)) else
    none
  | 0x44 =>
    if fieldNat w 1 1 = 0x0 ∧ fieldNat w 10 1 = 0x0 then some (.vcvtRz (tok w) (bits w 21 2) (bits w 16 5) (bits w 11 5) (bits w 6 4) (bits w 5 1) (bits w 2 3) (bits w 0 1)) else
    none
  | 0x45 =>
    if fieldNat w 1 1 = 0x0 ∧ fieldNat w 10 1 = 0x0 then some (.vcvtRz (tok w) (bits w 21 2) (bits w 16 5) (bits w 11 5) (bits w 6 4) (bits w 5 1) (bits w 2 3) (bits w 0 1)) else
    none
  | 0x46 =>
    if fieldNat w 1 1 = 0x0 ∧ fieldNat w 10 1 = 0x0 then some (.vcvtRz (tok w) (bits w 21 2) (bits w 16 5) (bits w 11 5) (bits w 6 4) (bits w 5 1) (bits w 2 3) (bits w 0 1)) else
    none
  | 0x47 =>
    if fieldNat w 1 1 = 0x0 ∧ fieldNat w 10 1 = 0x0 then some (.vcvtRz (tok w) (bits w 21 2) (bits w 16 5) (bits w 11 5) (bits w 6 4) (bits w 5 1) (bits w 2 3) (bits w 0 1)) else
    none
  | 0x48 =>
    if fieldNat w 1 1 = 0x0 ∧ fieldNat w 10 1 = 0x0 then some (.vcvtSr (tok w) (bits w 21 2) (bits w 16 5) (bits w 11 5) (bits w 6 4) (bits w 5 1) (bits w 2 3) (bits w 0 1)) else
    none
  | 0x49 =>
    if fieldNat w 1 1 = 0x0 ∧ fieldNat w 10 1 = 0x0 then some (.vcvtSr (tok w) (bits w 21 2) (bits w 16 5) (bits w 11 5) (bits w 6 4) (bits w 5 1) (bits w 2 3) (bits w 0 1)) else
    none
  | 0x4A =>
    if fieldNat w 1 1 = 0x0 ∧ fieldNat w 10 1 = 0x0 then some (.vcvtSr (tok w) (bits w 21 2) (bits w 16 5) (bits w 11 5) (bits w 6 4) (bits w 5 1) (bits w 2 3) (bits w 0 1)) else
    none
  | 0x4B =>
    if fieldNat w 1 1 = 0x0 ∧ fieldNat w 10 1 = 0x0 then some (.vcvtSr (tok w) (bits w 21 2) (bits w 16 5) (bits w 11 5) (bits w 6 4) (bits w 5 1) (bits w 2 3) (bits w 0 1)) else
    none
  | 0x50 =>
    if fieldNat w 1 1 = 0x0 then some (.vsplit3 (tok w) (bits w 16 5) (bits w 11 5) (bits w 6 5) (bits w 5 1) (bits w 2 3) (bits w 0 1)) else
    none
  | 0x54 =>
    if fieldNat w 1 1 = 0x0 ∧ fieldNat w 10 1 = 0x0 then some (.vld (tok w) (bits w 16 5) (bits w 11 5) (bits w 6 4) (bits w 5 1) (bits w 2 3) (bits w 0 1)) else
    none
  | 0x55 =>
    if fieldNat w 5 1 = 0x0 ∧ fieldNat w 16 5 = 0x0 then some (.vst (tok w) (bits w 11 5) (bits w 6 5) (bits w 2 3) (bits w 0 2)) else
    none
  | 0x56 =>
    if fieldNat w 1 1 = 0x0 ∧ fieldNat w 10 1 = 0x0 then some (.vldm (tok w) (bits w 16 5) (bits w 11 5) (bits w 6 4) (bits w 5 1) (bits w 2 3) (bits w 0 1)) else
    none
  | 0x57 =>
    if fieldNat w 5 1 = 0x0 ∧ fieldNat w 16 5 = 0x0 then some (.vstm (tok w) (bits w 11 5) (bits w 6 5) (bits w 2 3) (bits w 0 2)) else
    none
  | 0x58 =>
    if fieldNat w 1 1 = 0x0 ∧ fieldNat w 10 1 = 0x0 then some (.vgath (tok w) (bits w 16 5) (bits w 11 5) (bits w 6 4) (bits w 5 1) (bits w 2 3) (bits w 0 1)) else
    none
  | 0x59 =>
    if fieldNat w 5 1 = 0x0 ∧ fieldNat w 16 5 = 0x0 then some (.vscat (tok w) (bits w 11 5) (bits w 6 5) (bits w 2 3) (bits w 0 2)) else
    none
  | 0x5A =>
    if fieldNat w 1 1 = 0x0 then some (.vldf (tok w) (bits w 16 5) (bits w 11 5) (bits w 6 5) (bits w 5 1) (bits w 2 3) (bits w 0 1)) else
    none
  | 0x5B =>
    if fieldNat w 5 1 = 0x0 ∧ fieldNat w 20 1 = 0x0 then some (.vstf (tok w) (bits w 16 4) (bits w 11 5) (bits w 6 5) (bits w 2 3) (bits w 0 2)) else
    none
  | 0x5C =>
    if fieldNat w 1 5 = 0x0 ∧ fieldNat w 7 4 = 0x0 ∧ fieldNat w 16 5 = 0x0 then some (.vpal (tok w) (bits w 11 5) (bits w 6 1) (bits w 0 1)) else
    none
  | 0x5D =>
    some (.vcgen (tok w) (bits w 16 5) (bits w 11 5) (bits w 6 5) (bits w 5 1) (bits w 2 3) (bits w 0 2))
  | 0x60 =>
    if fieldNat w 1 1 = 0x0 ∧ fieldNat w 5 6 = 0x0 ∧ fieldNat w 16 5 = 0x0 then some (.vovf (tok w) (bits w 11 5) (bits w 2 3) (bits w 0 1)) else
    none
  | 0x61 =>
    if fieldNat w 0 21 = 0x0 then some (.vlsc (tok w)) else
    none
  | 0x62 =>
    if fieldNat w 5 1 = 0x0 then some (.vadam (tok w) (bits w 16 5) (bits w 11 5) (bits w 6 5) (bits w 2 3) (bits w 0 2)) else
    none
  | 0x63 =>
    some (.vqenc (tok w) (bits w 16 5) (bits w 11 5) (bits w 6 5) (bits w 5 1) (bits w 2 3) (bits w 0 2))
  | 0x64 =>
    some (.vqencPal1 (tok w) (bits w 16 5) (bits w 11 5) (bits w 6 5) (bits w 5 1) (bits w 2 3) (bits w 0 2))
  | 0x7D =>
    some (.vloop (tok w) (bits w 11 10) (bits w 0 11))
  | 0x7F =>
    if fieldNat w 0 21 = 0x0 then some (.nendV (tok w)) else
    none
  | _ => none

/-- The row of the vector stream that a word matches: its opcode chooses. -/
def rowV (w : Nat) : Option Instr := rowVAt (fieldNat w 21 7) w

/-- The row of the matrix stream that a word of opcode op matches, with its fields (R119, R120). -/
def rowMAt (op w : Nat) : Option Instr :=
  match op with
  | 0x01 =>
    if fieldNat w 0 7 = 0x0 ∧ fieldNat w 15 4 = 0x0 ∧ fieldNat w 21 1 = 0x0 then some (.mwldSlot (tok w) (bits w 19 2) (bits w 11 4) (bits w 7 4)) else
    if fieldNat w 0 7 = 0x0 ∧ fieldNat w 19 3 = 0x4 then some (.mwldScratchpad (tok w) (bits w 15 4) (bits w 11 4) (bits w 7 4)) else
    none
  | 0x02 =>
    if fieldNat w 0 22 = 0x0 then some (.mswp (tok w)) else
    none
  | 0x03 =>
    if fieldNat w 0 18 = 0x0 then some (.mband (tok w) (bits w 18 4)) else
    none
  | 0x04 =>
    if fieldNat w 0 16 = 0x0 then some (.mslot (tok w) (bits w 20 2) (bits w 16 4)) else
    none
  | 0x05 =>
    if fieldNat w 0 8 = 0x0 then some (.mmf (tok w) (bits w 19 3) (bits w 15 4) (bits w 11 4) (bits w 8 3)) else
    none
  | 0x06 =>
    if fieldNat w 0 8 = 0x0 then some (.mmb (tok w) (bits w 19 3) (bits w 15 4) (bits w 11 4) (bits w 8 3)) else
    none
  | 0x07 =>
    if fieldNat w 0 8 = 0x0 then some (.mmw (tok w) (bits w 19 3) (bits w 15 4) (bits w 11 4) (bits w 8 3)) else
    none
  | 0x08 =>
    if fieldNat w 0 8 = 0x0 then some (.mconst (tok w) (bits w 19 3) (bits w 15 4) (bits w 11 4) (bits w 8 3)) else
    if fieldNat w 0 8 = 0x80 then some (.mconstB (tok w) (bits w 19 3) (bits w 15 4) (bits w 11 4) (bits w 8 3)) else
    none
  | 0x09 =>
    if fieldNat w 0 19 = 0x0 then some (.mzero (tok w) (bits w 19 3)) else
    none
  | 0x0A =>
    if fieldNat w 0 11 = 0x0 then some (.macc (tok w) (bits w 19 3) (bits w 15 4) (bits w 11 4)) else
    none
  | 0x0B =>
    if fieldNat w 0 7 = 0x0 then some (.madr (tok w) (bits w 19 3) (bits w 15 4) (bits w 11 4) (bits w 7 4)) else
    if fieldNat w 0 7 = 0x20 then some (.madrRz (tok w) (bits w 19 3) (bits w 15 4) (bits w 11 4) (bits w 7 4)) else
    if fieldNat w 0 7 = 0x40 then some (.madrSr (tok w) (bits w 19 3) (bits w 15 4) (bits w 11 4) (bits w 7 4)) else
    none
  | 0x0C =>
    if fieldNat w 0 19 = 0x0 then some (.mchk (tok w) (bits w 19 3)) else
    none
  | 0x0D =>
    if fieldNat w 0 16 = 0x0 then some (.mbind (tok w) (bits w 20 2) (bits w 16 4)) else
    none
  | 0x0E =>
    if fieldNat w 0 9 = 0x0 then some (.mimm (tok w) (bits w 19 3) (bits w 17 2) (bits w 13 4) (bits w 9 4)) else
    if fieldNat w 0 9 = 0x80 then some (.mimmHi (tok w) (bits w 19 3) (bits w 17 2) (bits w 13 4) (bits w 9 4)) else
    if fieldNat w 0 9 = 0x100 then some (.mimmMid (tok w) (bits w 19 3) (bits w 17 2) (bits w 13 4) (bits w 9 4)) else
    if fieldNat w 0 9 = 0x180 then some (.mimmLo (tok w) (bits w 19 3) (bits w 17 2) (bits w 13 4) (bits w 9 4)) else
    none
  | 0x0F =>
    if fieldNat w 0 6 = 0x0 then some (.mimv (tok w) (bits w 20 2) (bits w 16 4) (bits w 12 4) (bits w 8 4) (bits w 6 2)) else
    none
  | 0x20 =>
    if fieldNat w 16 2 = 0x0 then some (.mli (tok w) (bits w 18 4) (bits w 0 16)) else
    none
  | 0x21 =>
    if fieldNat w 16 2 = 0x0 then some (.mlih (tok w) (bits w 18 4) (bits w 0 16)) else
    none
  | 0x22 =>
    some (.maddi (tok w) (bits w 18 4) (bits w 14 4) (bits w 0 14))
  | 0x23 =>
    if fieldNat w 0 10 = 0x0 then some (.madd (tok w) (bits w 18 4) (bits w 14 4) (bits w 10 4)) else
    none
  | 0x24 =>
    some (.mmuli (tok w) (bits w 18 4) (bits w 14 4) (bits w 0 14))
  | 0x25 =>
    some (.mlds (tok w) (bits w 18 4) (bits w 14 4) (bits w 0 14))
  | 0x26 =>
    some (.mloop (tok w) (bits w 18 4) (bits w 0 18))
  | 0x3F =>
    if fieldNat w 0 22 = 0x0 then some (.nendM (tok w)) else
    none
  | _ => none

/-- The row of the matrix stream that a word matches: its opcode chooses. -/
def rowM (w : Nat) : Option Instr := rowMAt (fieldNat w 22 6) w

/-- The row of the copy stream that a word of opcode op matches, with its fields (R121, R122). -/
def rowCAt (op w : Nat) : Option Instr :=
  match op with
  | 0x01 =>
    if fieldNat w 0 10 = 0x0 then some (.ccopy1d (tok w) (bits w 18 4) (bits w 14 4) (bits w 13 1) (bits w 10 3)) else
    none
  | 0x02 =>
    if fieldNat w 0 10 = 0x0 then some (.ccopy2d (tok w) (bits w 18 4) (bits w 14 4) (bits w 13 1) (bits w 10 3)) else
    none
  | 0x03 =>
    if fieldNat w 0 10 = 0x0 then some (.ccopy3d (tok w) (bits w 18 4) (bits w 14 4) (bits w 13 1) (bits w 10 3)) else
    none
  | 0x04 =>
    if fieldNat w 0 10 = 0x0 then some (.cgath (tok w) (bits w 18 4) (bits w 14 4) (bits w 13 1) (bits w 10 3)) else
    none
  | 0x05 =>
    if fieldNat w 0 10 = 0x0 then some (.cscat (tok w) (bits w 18 4) (bits w 14 4) (bits w 13 1) (bits w 10 3)) else
    none
  | 0x06 =>
    if fieldNat w 0 10 = 0x0 then some (.cfill (tok w) (bits w 18 4) (bits w 14 4) (bits w 13 1) (bits w 10 3)) else
    none
  | 0x07 =>
    if fieldNat w 0 10 = 0x0 then some (.cradd (tok w) (bits w 18 4) (bits w 14 4) (bits w 13 1) (bits w 10 3)) else
    none
  | 0x08 =>
    if fieldNat w 0 10 = 0x0 then some (.cfput (tok w) (bits w 18 4) (bits w 14 4) (bits w 13 1) (bits w 10 3)) else
    none
  | 0x09 =>
    if fieldNat w 0 10 = 0x0 then some (.cfget (tok w) (bits w 18 4) (bits w 14 4) (bits w 13 1) (bits w 10 3)) else
    none
  | 0x0A =>
    if fieldNat w 0 10 = 0x0 then some (.crs (tok w) (bits w 18 4) (bits w 14 4) (bits w 13 1) (bits w 10 3)) else
    none
  | 0x0B =>
    if fieldNat w 0 10 = 0x0 then some (.cag (tok w) (bits w 18 4) (bits w 14 4) (bits w 13 1) (bits w 10 3)) else
    none
  | 0x0C =>
    if fieldNat w 0 10 = 0x0 ∧ fieldNat w 13 5 = 0x0 then some (.carm (tok w) (bits w 18 4) (bits w 10 3)) else
    none
  | 0x0D =>
    if fieldNat w 0 10 = 0x0 ∧ fieldNat w 13 5 = 0x0 then some (.csend (tok w) (bits w 18 4) (bits w 10 3)) else
    none
  | 0x0E =>
    if fieldNat w 0 22 = 0x0 then some (.cfence (tok w)) else
    none
  | 0x0F =>
    if fieldNat w 12 2 = 0x0 ∧ fieldNat w 18 4 = 0x0 then some (.cpermit (tok w) (bits w 14 4) (bits w 0 12)) else
    none
  | 0x20 =>
    if fieldNat w 16 2 = 0x0 then some (.qli (tok w) (bits w 18 4) (bits w 0 16)) else
    none
  | 0x21 =>
    if fieldNat w 16 2 = 0x0 then some (.qlih (tok w) (bits w 18 4) (bits w 0 16)) else
    none
  | 0x22 =>
    some (.qaddi (tok w) (bits w 18 4) (bits w 14 4) (bits w 0 14))
  | 0x23 =>
    if fieldNat w 0 10 = 0x0 then some (.qadd (tok w) (bits w 18 4) (bits w 14 4) (bits w 10 4)) else
    none
  | 0x24 =>
    some (.qlds (tok w) (bits w 18 4) (bits w 14 4) (bits w 0 14))
  | 0x25 =>
    some (.qloop (tok w) (bits w 18 4) (bits w 0 18))
  | 0x3F =>
    if fieldNat w 0 22 = 0x0 then some (.nendC (tok w)) else
    none
  | _ => none

/-- The row of the copy stream that a word matches: its opcode chooses. -/
def rowC (w : Nat) : Option Instr := rowCAt (fieldNat w 22 6) w

/-- The row of a stream that a word matches. -/
def row : Strand → Nat → Option Instr
  | .S => rowS | .V => rowV | .M => rowM | .C => rowC

/-- Decode one word of a stream: total, rejecting by name (R101, R102). -/
def decode (st : Strand) (w : BitVec 32) : Except Reject Instr :=
  match row st w.toNat with
  | none => .error .unassigned
  | some i => if i.wellFormed then .ok i else .error .illegalField

/-- The stream an instruction belongs to; events belong to none. -/
def Instr.stream? : Instr → Option Strand
  | .add _ _ _ _ => some .S
  | .sub _ _ _ _ => some .S
  | .and _ _ _ _ => some .S
  | .or _ _ _ _ => some .S
  | .xor _ _ _ _ => some .S
  | .sll _ _ _ _ => some .S
  | .srl _ _ _ _ => some .S
  | .sra _ _ _ _ => some .S
  | .slt _ _ _ _ => some .S
  | .sltU _ _ _ _ => some .S
  | .min _ _ _ _ => some .S
  | .minU _ _ _ _ => some .S
  | .max _ _ _ _ => some .S
  | .maxU _ _ _ _ => some .S
  | .mul _ _ _ _ => some .S
  | .mulh _ _ _ _ => some .S
  | .mulhU _ _ _ _ => some .S
  | .div _ _ _ _ => some .S
  | .divU _ _ _ _ => some .S
  | .rem _ _ _ _ => some .S
  | .remU _ _ _ _ => some .S
  | .clz _ _ _ => some .S
  | .ctz _ _ _ => some .S
  | .popc _ _ _ => some .S
  | .fsh _ _ _ _ _ => some .S
  | .addImmediate _ _ _ _ => some .S
  | .andImmediate _ _ _ _ => some .S
  | .orImmediate _ _ _ _ => some .S
  | .xorImmediate _ _ _ _ => some .S
  | .sllImmediate _ _ _ _ => some .S
  | .srlImmediate _ _ _ _ => some .S
  | .sraImmediate _ _ _ _ => some .S
  | .sltImmediate _ _ _ _ => some .S
  | .bfx _ _ _ _ _ => some .S
  | .bfxU _ _ _ _ _ => some .S
  | .bfi _ _ _ _ _ => some .S
  | .lui _ _ _ => some .S
  | .orsh _ _ _ => some .S
  | .ldB _ _ _ _ => some .S
  | .ldH _ _ _ _ => some .S
  | .ldW _ _ _ _ => some .S
  | .ldD _ _ _ _ => some .S
  | .ldBU _ _ _ _ => some .S
  | .ldHU _ _ _ _ => some .S
  | .ldWU _ _ _ _ => some .S
  | .stB _ _ _ _ => some .S
  | .stH _ _ _ _ => some .S
  | .stW _ _ _ _ => some .S
  | .stD _ _ _ _ => some .S
  | .ldlu _ _ _ _ => some .S
  | .pref _ _ _ => some .S
  | .resq _ _ _ _ => some .S
  | .amoSwap _ _ _ _ _ _ => some .S
  | .amoAdd _ _ _ _ _ _ => some .S
  | .amoAnd _ _ _ _ _ _ => some .S
  | .amoOr _ _ _ _ _ _ => some .S
  | .amoXor _ _ _ _ _ _ => some .S
  | .amoMin _ _ _ _ _ _ => some .S
  | .amoMax _ _ _ _ _ _ => some .S
  | .amoCas _ _ _ _ _ _ => some .S
  | .beq _ _ _ _ => some .S
  | .bne _ _ _ _ => some .S
  | .blt _ _ _ _ => some .S
  | .bge _ _ _ _ => some .S
  | .bltU _ _ _ _ => some .S
  | .bgeU _ _ _ _ => some .S
  | .jal _ _ _ => some .S
  | .jalr _ _ _ _ => some .S
  | .fadd _ _ _ _ _ => some .S
  | .fsub _ _ _ _ _ => some .S
  | .fmul _ _ _ _ _ => some .S
  | .fdiv _ _ _ _ _ => some .S
  | .fsqrt _ _ _ _ => some .S
  | .fmin _ _ _ _ _ => some .S
  | .fmax _ _ _ _ _ => some .S
  | .fma _ _ _ _ _ => some .S
  | .fcmpEq _ _ _ _ _ => some .S
  | .fcmpLt _ _ _ _ _ => some .S
  | .fcmpLe _ _ _ _ _ => some .S
  | .fcvtFromI64 _ _ _ _ _ => some .S
  | .fcvtFromU64 _ _ _ _ _ => some .S
  | .fcvtToI64 _ _ _ _ _ => some .S
  | .fcvtToU64 _ _ _ _ _ => some .S
  | .fcvtSD _ _ _ _ => some .S
  | .fcvtDS _ _ _ => some .S
  | .acwait _ _ _ _ => some .S
  | .acread _ _ _ => some .S
  | .bar _ _ _ => some .S
  | .wopen _ _ _ => some .S
  | .wnext _ _ _ => some .S
  | .wdone _ _ _ => some .S
  | .ipub _ _ _ => some .S
  | .solve _ _ _ => some .S
  | .pacq _ _ => some .S
  | .prel _ => some .S
  | .gtc _ _ => some .S
  | .snap _ => some .S
  | .hfence _ => some .S
  | .eret _ => some .S
  | .nendS _ => some .S
  | .crd _ _ _ => some .S
  | .cwr _ _ _ => some .S
  | .trap _ _ => some .S
  | .vadd _ _ _ _ _ _ _ => some .V
  | .vsub _ _ _ _ _ _ _ => some .V
  | .vmul _ _ _ _ _ _ _ => some .V
  | .vfma _ _ _ _ _ _ => some .V
  | .vmin _ _ _ _ _ _ _ => some .V
  | .vmax _ _ _ _ _ _ _ => some .V
  | .vabs _ _ _ _ _ _ => some .V
  | .vneg _ _ _ _ _ _ => some .V
  | .vdiv _ _ _ _ _ _ _ => some .V
  | .vrcp _ _ _ _ _ _ => some .V
  | .vrsq _ _ _ _ _ _ => some .V
  | .vsqrt _ _ _ _ _ _ => some .V
  | .vexp2 _ _ _ _ _ _ => some .V
  | .vlog2 _ _ _ _ _ _ => some .V
  | .vadds _ _ _ _ _ _ _ => some .V
  | .vsubs _ _ _ _ _ _ _ => some .V
  | .vand _ _ _ _ _ _ _ => some .V
  | .vor _ _ _ _ _ _ _ => some .V
  | .vxor _ _ _ _ _ _ _ => some .V
  | .vsll _ _ _ _ _ _ _ => some .V
  | .vsrl _ _ _ _ _ _ _ => some .V
  | .vsra _ _ _ _ _ _ _ => some .V
  | .vsllI _ _ _ _ _ _ _ => some .V
  | .vsrlI _ _ _ _ _ _ _ => some .V
  | .vsraI _ _ _ _ _ _ _ => some .V
  | .vbfx _ _ _ _ _ _ _ => some .V
  | .vbfxU _ _ _ _ _ _ _ => some .V
  | .vfsh _ _ _ _ _ _ => some .V
  | .vpopc _ _ _ _ _ _ => some .V
  | .vclz _ _ _ _ _ _ => some .V
  | .vcmpEq _ _ _ _ _ _ => some .V
  | .vcmpNe _ _ _ _ _ _ => some .V
  | .vcmpLt _ _ _ _ _ _ => some .V
  | .vcmpLe _ _ _ _ _ _ => some .V
  | .kand _ _ _ _ => some .V
  | .kor _ _ _ _ => some .V
  | .kxor _ _ _ _ => some .V
  | .knot _ _ _ => some .V
  | .vsel _ _ _ _ _ _ _ => some .V
  | .vmov _ _ _ _ _ _ => some .V
  | .vbcast _ _ _ _ _ _ _ => some .V
  | .vperm _ _ _ _ _ _ _ => some .V
  | .vrot _ _ _ _ _ _ _ => some .V
  | .vli _ _ _ _ _ => some .V
  | .vidx _ _ _ _ => some .V
  | .vredAdd _ _ _ _ _ _ => some .V
  | .vredMin _ _ _ _ _ _ => some .V
  | .vredMax _ _ _ _ _ _ => some .V
  | .vscanAdd _ _ _ _ _ _ => some .V
  | .vcvt _ _ _ _ _ _ _ _ => some .V
  | .vcvtRz _ _ _ _ _ _ _ _ => some .V
  | .vcvtSr _ _ _ _ _ _ _ _ => some .V
  | .vsplit3 _ _ _ _ _ _ _ => some .V
  | .vld _ _ _ _ _ _ _ => some .V
  | .vst _ _ _ _ _ => some .V
  | .vldm _ _ _ _ _ _ _ => some .V
  | .vstm _ _ _ _ _ => some .V
  | .vgath _ _ _ _ _ _ _ => some .V
  | .vscat _ _ _ _ _ => some .V
  | .vldf _ _ _ _ _ _ _ => some .V
  | .vstf _ _ _ _ _ _ => some .V
  | .vpal _ _ _ _ => some .V
  | .vcgen _ _ _ _ _ _ _ => some .V
  | .vovf _ _ _ _ => some .V
  | .vlsc _ => some .V
  | .vadam _ _ _ _ _ _ => some .V
  | .vqenc _ _ _ _ _ _ _ => some .V
  | .vqencPal1 _ _ _ _ _ _ _ => some .V
  | .vloop _ _ _ => some .V
  | .nendV _ => some .V
  | .mwldSlot _ _ _ _ => some .M
  | .mwldScratchpad _ _ _ _ => some .M
  | .mswp _ => some .M
  | .mband _ _ => some .M
  | .mslot _ _ _ => some .M
  | .mmf _ _ _ _ _ => some .M
  | .mmb _ _ _ _ _ => some .M
  | .mmw _ _ _ _ _ => some .M
  | .mconst _ _ _ _ _ => some .M
  | .mconstB _ _ _ _ _ => some .M
  | .mzero _ _ => some .M
  | .macc _ _ _ _ => some .M
  | .madr _ _ _ _ _ => some .M
  | .madrRz _ _ _ _ _ => some .M
  | .madrSr _ _ _ _ _ => some .M
  | .mchk _ _ => some .M
  | .mbind _ _ _ => some .M
  | .mimm _ _ _ _ _ => some .M
  | .mimmHi _ _ _ _ _ => some .M
  | .mimmMid _ _ _ _ _ => some .M
  | .mimmLo _ _ _ _ _ => some .M
  | .mimv _ _ _ _ _ _ => some .M
  | .mli _ _ _ => some .M
  | .mlih _ _ _ => some .M
  | .maddi _ _ _ _ => some .M
  | .madd _ _ _ _ => some .M
  | .mmuli _ _ _ _ => some .M
  | .mlds _ _ _ _ => some .M
  | .mloop _ _ _ => some .M
  | .nendM _ => some .M
  | .ccopy1d _ _ _ _ _ => some .C
  | .ccopy2d _ _ _ _ _ => some .C
  | .ccopy3d _ _ _ _ _ => some .C
  | .cgath _ _ _ _ _ => some .C
  | .cscat _ _ _ _ _ => some .C
  | .cfill _ _ _ _ _ => some .C
  | .cradd _ _ _ _ _ => some .C
  | .cfput _ _ _ _ _ => some .C
  | .cfget _ _ _ _ _ => some .C
  | .crs _ _ _ _ _ => some .C
  | .cag _ _ _ _ _ => some .C
  | .carm _ _ _ => some .C
  | .csend _ _ _ => some .C
  | .cfence _ => some .C
  | .cpermit _ _ _ => some .C
  | .qli _ _ _ => some .C
  | .qlih _ _ _ => some .C
  | .qaddi _ _ _ _ => some .C
  | .qadd _ _ _ _ => some .C
  | .qlds _ _ _ _ => some .C
  | .qloop _ _ _ => some .C
  | .nendC _ => some .C
  | .heldPush _ _ => none
  | .tokenDeadlock _ => none
  | .trapEntry _ _ => none
  | .handlerStart _ => none
  | .nodeCommit _ => none
  | .commitAcknowledged _ => none
  | .mPathRetire _ _ => none
  | .planeSwap _ => none
  | .paletteCheckEnd _ => none
  | .copyAdmission _ _ => none
  | .copyStart _ _ => none
  | .copyComplete _ _ => none
  | .collectiveArrival _ _ => none
  | .counterDelivery _ => none
  | .pendingActionRetry _ => none
  | .acwaitPoll _ => none
  | .counterDisarm _ => none
  | .walkPrefetchComplete _ _ _ => none
  | .allocateNode _ => none
  | .lateFieldResolve _ _ => none
  | .launchStart _ => none
  | .launchComplete _ _ => none
  | .preempt _ _ => none
  | .release _ _ => none
  | .nodeSaveComplete _ => none
  | .saveTimeout _ => none
  | .nodeRestore _ _ => none
  | .go _ _ => none
  | .rangeTableActivation _ => none
  | .migcmd _ => none
  | .migrationCopy => none
  | .migrationRedirect => none
  | .migrationReplay => none
  | .solveIterationComplete _ _ => none
  | .solveDeadline _ => none
  | .solveVerifyProduct _ _ => none
  | .solveFinish _ => none
  | .pacqGrant _ => none
  | .allotmentUpdate => none
  | .capw _ => none
  | .halt => none
  | .thermalThrottle _ _ => none
  | .thermalHalt _ _ => none
  | .thermalPowerOff _ _ => none
  | .rollback _ _ => none
  | .controlDivergence _ _ => none
  | .accumulatorScrub _ _ => none
  | .memoryScrub _ _ => none
  | .hostMemoryRead _ _ => none
  | .hostMemoryWrite _ _ => none
  | .hostLineRequest _ => none
  | .backInvalidateSnoop _ _ => none
  | .inboundFabricRequest _ _ => none
  | .fabricCompletionTimeout _ _ => none
  | .completerAbort _ _ => none
  | .linkTraining _ _ => none
  | .linkDown _ _ => none
  | .laneFailure _ _ => none
  | .pwid _ _ => none
  | .widthChangeComplete _ => none
  | .inbpWrite _ _ => none
  | .eqbaseWrite _ _ => none
  | .telemetryEnableWrite _ _ _ => none
  | .counterDump _ => none
  | .traceSample _ _ => none
  | .snapshotTrigger _ _ => none
  | .snapshotWriteOut _ => none
  | .snaprel _ => none
  | .controlRegisterWrite _ _ _ => none
  | .powerOnBringUp => none
  | .resetBoot => none
  | .pldmFirmwareUpdate _ => none
  | .pldmMonitoring _ => none
  | .spdmMeasurements => none
  | .spareCore _ => none
  | .rowSparing _ => none
  | .channelRetirement _ => none
  | .objectLoad _ _ => none
  | .memoryAccessComplete _ _ => none

/-- The token bits of a word (R100). -/
def Tok.place (t : Tok) : Nat := t.pop.toNat * 2 ^ 30 + t.push.toNat * 2 ^ 28

/-- Fixed bits and token bits of a word with no field. -/
def enc0 (base : Nat) (t : Tok) : Nat := base + t.place

/-- A word with one field a at bit p; the next ones add one field each. -/
def enc1 (base : Nat) (t : Tok) (a p : Nat) : Nat := enc0 base t + a * 2 ^ p

/-- A word with two fields. -/
def enc2 (base : Nat) (t : Tok) (a p b q : Nat) : Nat := enc1 base t a p + b * 2 ^ q

/-- A word with three fields. -/
def enc3 (base : Nat) (t : Tok) (a p b q c r : Nat) : Nat := enc2 base t a p b q + c * 2 ^ r

/-- A word with four fields. -/
def enc4 (base : Nat) (t : Tok) (a p b q c r d u : Nat) : Nat := enc3 base t a p b q c r + d * 2 ^ u

/-- A word with five fields. -/
def enc5 (base : Nat) (t : Tok) (a p b q c r d u e v : Nat) : Nat :=
  enc4 base t a p b q c r d u + e * 2 ^ v

/-- A word with six fields. -/
def enc6 (base : Nat) (t : Tok) (a p b q c r d u e v f x : Nat) : Nat :=
  enc5 base t a p b q c r d u e v + f * 2 ^ x

/-- A word with seven fields. -/
def enc7 (base : Nat) (t : Tok) (a p b q c r d u e v f x g y : Nat) : Nat :=
  enc6 base t a p b q c r d u e v f x + g * 2 ^ y

/-- The number whose bits are a row's fixed bits and the instruction's fields, each at its place. -/
def Instr.encodeNat : Instr → Nat
  | .add t xd xa xb => enc3 0x00400000 t xd.toNat 17 xa.toNat 12 xb.toNat 7
  | .sub t xd xa xb => enc3 0x00400001 t xd.toNat 17 xa.toNat 12 xb.toNat 7
  | .and t xd xa xb => enc3 0x00400002 t xd.toNat 17 xa.toNat 12 xb.toNat 7
  | .or t xd xa xb => enc3 0x00400003 t xd.toNat 17 xa.toNat 12 xb.toNat 7
  | .xor t xd xa xb => enc3 0x00400004 t xd.toNat 17 xa.toNat 12 xb.toNat 7
  | .sll t xd xa xb => enc3 0x00400005 t xd.toNat 17 xa.toNat 12 xb.toNat 7
  | .srl t xd xa xb => enc3 0x00400006 t xd.toNat 17 xa.toNat 12 xb.toNat 7
  | .sra t xd xa xb => enc3 0x00400007 t xd.toNat 17 xa.toNat 12 xb.toNat 7
  | .slt t xd xa xb => enc3 0x00400008 t xd.toNat 17 xa.toNat 12 xb.toNat 7
  | .sltU t xd xa xb => enc3 0x00400009 t xd.toNat 17 xa.toNat 12 xb.toNat 7
  | .min t xd xa xb => enc3 0x0040000A t xd.toNat 17 xa.toNat 12 xb.toNat 7
  | .minU t xd xa xb => enc3 0x0040000B t xd.toNat 17 xa.toNat 12 xb.toNat 7
  | .max t xd xa xb => enc3 0x0040000C t xd.toNat 17 xa.toNat 12 xb.toNat 7
  | .maxU t xd xa xb => enc3 0x0040000D t xd.toNat 17 xa.toNat 12 xb.toNat 7
  | .mul t xd xa xb => enc3 0x00800000 t xd.toNat 17 xa.toNat 12 xb.toNat 7
  | .mulh t xd xa xb => enc3 0x00800001 t xd.toNat 17 xa.toNat 12 xb.toNat 7
  | .mulhU t xd xa xb => enc3 0x00800002 t xd.toNat 17 xa.toNat 12 xb.toNat 7
  | .div t xd xa xb => enc3 0x00800003 t xd.toNat 17 xa.toNat 12 xb.toNat 7
  | .divU t xd xa xb => enc3 0x00800004 t xd.toNat 17 xa.toNat 12 xb.toNat 7
  | .rem t xd xa xb => enc3 0x00800005 t xd.toNat 17 xa.toNat 12 xb.toNat 7
  | .remU t xd xa xb => enc3 0x00800006 t xd.toNat 17 xa.toNat 12 xb.toNat 7
  | .clz t xd xa => enc2 0x00C00000 t xd.toNat 17 xa.toNat 12
  | .ctz t xd xa => enc2 0x00C00001 t xd.toNat 17 xa.toNat 12
  | .popc t xd xa => enc2 0x00C00002 t xd.toNat 17 xa.toNat 12
  | .fsh t xd xa xb n => enc4 0x00C00040 t xd.toNat 17 xa.toNat 12 xb.toNat 7 n.toNat 0
  | .addImmediate t xd xa imm => enc3 0x01000000 t xd.toNat 17 xa.toNat 12 imm.toNat 0
  | .andImmediate t xd xa imm => enc3 0x01400000 t xd.toNat 17 xa.toNat 12 imm.toNat 0
  | .orImmediate t xd xa imm => enc3 0x01800000 t xd.toNat 17 xa.toNat 12 imm.toNat 0
  | .xorImmediate t xd xa imm => enc3 0x01C00000 t xd.toNat 17 xa.toNat 12 imm.toNat 0
  | .sllImmediate t xd xa sh => enc3 0x02000000 t xd.toNat 17 xa.toNat 12 sh.toNat 0
  | .srlImmediate t xd xa sh => enc3 0x02400000 t xd.toNat 17 xa.toNat 12 sh.toNat 0
  | .sraImmediate t xd xa sh => enc3 0x02800000 t xd.toNat 17 xa.toNat 12 sh.toNat 0
  | .sltImmediate t xd xa imm => enc3 0x02C00000 t xd.toNat 17 xa.toNat 12 imm.toNat 0
  | .bfx t xd xa pos len1 => enc4 0x03000000 t xd.toNat 17 xa.toNat 12 pos.toNat 6 len1.toNat 0
  | .bfxU t xd xa pos len1 => enc4 0x03400000 t xd.toNat 17 xa.toNat 12 pos.toNat 6 len1.toNat 0
  | .bfi t xd xa pos len1 => enc4 0x03800000 t xd.toNat 17 xa.toNat 12 pos.toNat 6 len1.toNat 0
  | .lui t xd imm => enc2 0x03C00000 t xd.toNat 17 imm.toNat 0
  | .orsh t xd imm => enc2 0x04000000 t xd.toNat 17 imm.toNat 0
  | .ldB t xd xa imm => enc3 0x04400000 t xd.toNat 17 xa.toNat 12 imm.toNat 0
  | .ldH t xd xa imm => enc3 0x04800000 t xd.toNat 17 xa.toNat 12 imm.toNat 0
  | .ldW t xd xa imm => enc3 0x04C00000 t xd.toNat 17 xa.toNat 12 imm.toNat 0
  | .ldD t xd xa imm => enc3 0x05000000 t xd.toNat 17 xa.toNat 12 imm.toNat 0
  | .ldBU t xd xa imm => enc3 0x05400000 t xd.toNat 17 xa.toNat 12 imm.toNat 0
  | .ldHU t xd xa imm => enc3 0x05800000 t xd.toNat 17 xa.toNat 12 imm.toNat 0
  | .ldWU t xd xa imm => enc3 0x05C00000 t xd.toNat 17 xa.toNat 12 imm.toNat 0
  | .stB t xs xa imm => enc3 0x06000000 t xs.toNat 17 xa.toNat 12 imm.toNat 0
  | .stH t xs xa imm => enc3 0x06400000 t xs.toNat 17 xa.toNat 12 imm.toNat 0
  | .stW t xs xa imm => enc3 0x06800000 t xs.toNat 17 xa.toNat 12 imm.toNat 0
  | .stD t xs xa imm => enc3 0x06C00000 t xs.toNat 17 xa.toNat 12 imm.toNat 0
  | .ldlu t xd xa imm => enc3 0x07000000 t xd.toNat 17 xa.toNat 12 imm.toNat 0
  | .pref t xa imm => enc2 0x07400000 t xa.toNat 12 imm.toNat 0
  | .resq t xd xa imm => enc3 0x07800000 t xd.toNat 17 xa.toNat 12 imm.toNat 0
  | .amoSwap t xd xa xb scope wide => enc5 0x07C00000 t xd.toNat 17 xa.toNat 12 xb.toNat 7 scope.toNat 2 wide.toNat 1
  | .amoAdd t xd xa xb scope wide => enc5 0x07C00010 t xd.toNat 17 xa.toNat 12 xb.toNat 7 scope.toNat 2 wide.toNat 1
  | .amoAnd t xd xa xb scope wide => enc5 0x07C00020 t xd.toNat 17 xa.toNat 12 xb.toNat 7 scope.toNat 2 wide.toNat 1
  | .amoOr t xd xa xb scope wide => enc5 0x07C00030 t xd.toNat 17 xa.toNat 12 xb.toNat 7 scope.toNat 2 wide.toNat 1
  | .amoXor t xd xa xb scope wide => enc5 0x07C00040 t xd.toNat 17 xa.toNat 12 xb.toNat 7 scope.toNat 2 wide.toNat 1
  | .amoMin t xd xa xb scope wide => enc5 0x07C00050 t xd.toNat 17 xa.toNat 12 xb.toNat 7 scope.toNat 2 wide.toNat 1
  | .amoMax t xd xa xb scope wide => enc5 0x07C00060 t xd.toNat 17 xa.toNat 12 xb.toNat 7 scope.toNat 2 wide.toNat 1
  | .amoCas t xd xa xb scope wide => enc5 0x07C00070 t xd.toNat 17 xa.toNat 12 xb.toNat 7 scope.toNat 2 wide.toNat 1
  | .beq t xa xb off => enc3 0x08000000 t xa.toNat 17 xb.toNat 12 off.toNat 0
  | .bne t xa xb off => enc3 0x08400000 t xa.toNat 17 xb.toNat 12 off.toNat 0
  | .blt t xa xb off => enc3 0x08800000 t xa.toNat 17 xb.toNat 12 off.toNat 0
  | .bge t xa xb off => enc3 0x08C00000 t xa.toNat 17 xb.toNat 12 off.toNat 0
  | .bltU t xa xb off => enc3 0x09000000 t xa.toNat 17 xb.toNat 12 off.toNat 0
  | .bgeU t xa xb off => enc3 0x09400000 t xa.toNat 17 xb.toNat 12 off.toNat 0
  | .jal t xd off => enc2 0x09800000 t xd.toNat 17 off.toNat 0
  | .jalr t xd xa imm => enc3 0x09C00000 t xd.toNat 17 xa.toNat 12 imm.toNat 0
  | .fadd t xd xa xb dbl => enc4 0x0A000000 t xd.toNat 17 xa.toNat 12 xb.toNat 7 dbl.toNat 6
  | .fsub t xd xa xb dbl => enc4 0x0A000001 t xd.toNat 17 xa.toNat 12 xb.toNat 7 dbl.toNat 6
  | .fmul t xd xa xb dbl => enc4 0x0A000002 t xd.toNat 17 xa.toNat 12 xb.toNat 7 dbl.toNat 6
  | .fdiv t xd xa xb dbl => enc4 0x0A000003 t xd.toNat 17 xa.toNat 12 xb.toNat 7 dbl.toNat 6
  | .fsqrt t xd xa dbl => enc3 0x0A000004 t xd.toNat 17 xa.toNat 12 dbl.toNat 6
  | .fmin t xd xa xb dbl => enc4 0x0A000005 t xd.toNat 17 xa.toNat 12 xb.toNat 7 dbl.toNat 6
  | .fmax t xd xa xb dbl => enc4 0x0A000006 t xd.toNat 17 xa.toNat 12 xb.toNat 7 dbl.toNat 6
  | .fma t xd xa xb dbl => enc4 0x0A000007 t xd.toNat 17 xa.toNat 12 xb.toNat 7 dbl.toNat 6
  | .fcmpEq t xd xa xb dbl => enc4 0x0A000008 t xd.toNat 17 xa.toNat 12 xb.toNat 7 dbl.toNat 6
  | .fcmpLt t xd xa xb dbl => enc4 0x0A000009 t xd.toNat 17 xa.toNat 12 xb.toNat 7 dbl.toNat 6
  | .fcmpLe t xd xa xb dbl => enc4 0x0A00000A t xd.toNat 17 xa.toNat 12 xb.toNat 7 dbl.toNat 6
  | .fcvtFromI64 t xd xa dbl rz => enc4 0x0A000010 t xd.toNat 17 xa.toNat 12 dbl.toNat 6 rz.toNat 5
  | .fcvtFromU64 t xd xa dbl rz => enc4 0x0A000011 t xd.toNat 17 xa.toNat 12 dbl.toNat 6 rz.toNat 5
  | .fcvtToI64 t xd xa dbl rz => enc4 0x0A000012 t xd.toNat 17 xa.toNat 12 dbl.toNat 6 rz.toNat 5
  | .fcvtToU64 t xd xa dbl rz => enc4 0x0A000013 t xd.toNat 17 xa.toNat 12 dbl.toNat 6 rz.toNat 5
  | .fcvtSD t xd xa rz => enc3 0x0A000014 t xd.toNat 17 xa.toNat 12 rz.toNat 5
  | .fcvtDS t xd xa => enc2 0x0A000054 t xd.toNat 17 xa.toNat 12
  | .acwait t xd xa xb => enc3 0x0C000000 t xd.toNat 17 xa.toNat 12 xb.toNat 7
  | .acread t xd xa => enc2 0x0C000001 t xd.toNat 17 xa.toNat 12
  | .bar t xa xb => enc2 0x0C000002 t xa.toNat 12 xb.toNat 7
  | .wopen t xd xa => enc2 0x0C000003 t xd.toNat 17 xa.toNat 12
  | .wnext t xd xa => enc2 0x0C000004 t xd.toNat 17 xa.toNat 12
  | .wdone t xa xb => enc2 0x0C000005 t xa.toNat 12 xb.toNat 7
  | .ipub t xa xb => enc2 0x0C000006 t xa.toNat 12 xb.toNat 7
  | .solve t xd xa => enc2 0x0C000007 t xd.toNat 17 xa.toNat 12
  | .pacq t xa => enc1 0x0C000008 t xa.toNat 12
  | .prel t => enc0 0x0C000009 t
  | .gtc t xd => enc1 0x0C00000A t xd.toNat 17
  | .snap t => enc0 0x0C00000B t
  | .hfence t => enc0 0x0C00000C t
  | .eret t => enc0 0x0C00000D t
  | .nendS t => enc0 0x0C00000E t
  | .crd t xd cr => enc2 0x0C400000 t xd.toNat 17 cr.toNat 0
  | .cwr t xa cr => enc2 0x0C800000 t xa.toNat 12 cr.toNat 0
  | .trap t code => enc1 0x0CC00000 t code.toNat 0
  | .vadd t vd va vb ws mask ls => enc6 0x00200000 t vd.toNat 16 va.toNat 11 vb.toNat 6 ws.toNat 5 mask.toNat 2 ls.toNat 0
  | .vsub t vd va vb ws mask ls => enc6 0x00400000 t vd.toNat 16 va.toNat 11 vb.toNat 6 ws.toNat 5 mask.toNat 2 ls.toNat 0
  | .vmul t vd va vb ws mask ls => enc6 0x00600000 t vd.toNat 16 va.toNat 11 vb.toNat 6 ws.toNat 5 mask.toNat 2 ls.toNat 0
  | .vfma t vd va vb mask ls => enc5 0x00800000 t vd.toNat 16 va.toNat 11 vb.toNat 6 mask.toNat 2 ls.toNat 0
  | .vmin t vd va vb ws mask ls => enc6 0x00A00000 t vd.toNat 16 va.toNat 11 vb.toNat 6 ws.toNat 5 mask.toNat 2 ls.toNat 0
  | .vmax t vd va vb ws mask ls => enc6 0x00C00000 t vd.toNat 16 va.toNat 11 vb.toNat 6 ws.toNat 5 mask.toNat 2 ls.toNat 0
  | .vabs t vd va ws mask ls => enc5 0x00E00000 t vd.toNat 16 va.toNat 11 ws.toNat 5 mask.toNat 2 ls.toNat 0
  | .vneg t vd va ws mask ls => enc5 0x01000000 t vd.toNat 16 va.toNat 11 ws.toNat 5 mask.toNat 2 ls.toNat 0
  | .vdiv t vd va vb ws mask ls => enc6 0x01200000 t vd.toNat 16 va.toNat 11 vb.toNat 6 ws.toNat 5 mask.toNat 2 ls.toNat 0
  | .vrcp t vd va ws mask ls => enc5 0x01400000 t vd.toNat 16 va.toNat 11 ws.toNat 5 mask.toNat 2 ls.toNat 0
  | .vrsq t vd va ws mask ls => enc5 0x01600000 t vd.toNat 16 va.toNat 11 ws.toNat 5 mask.toNat 2 ls.toNat 0
  | .vsqrt t vd va ws mask ls => enc5 0x01800000 t vd.toNat 16 va.toNat 11 ws.toNat 5 mask.toNat 2 ls.toNat 0
  | .vexp2 t vd va ws mask ls => enc5 0x01A00000 t vd.toNat 16 va.toNat 11 ws.toNat 5 mask.toNat 2 ls.toNat 0
  | .vlog2 t vd va ws mask ls => enc5 0x01C00000 t vd.toNat 16 va.toNat 11 ws.toNat 5 mask.toNat 2 ls.toNat 0
  | .vadds t vd va vb ws mask ls => enc6 0x01E00000 t vd.toNat 16 va.toNat 11 vb.toNat 6 ws.toNat 5 mask.toNat 2 ls.toNat 0
  | .vsubs t vd va vb ws mask ls => enc6 0x02000000 t vd.toNat 16 va.toNat 11 vb.toNat 6 ws.toNat 5 mask.toNat 2 ls.toNat 0
  | .vand t vd va vb ws mask ls => enc6 0x02200000 t vd.toNat 16 va.toNat 11 vb.toNat 6 ws.toNat 5 mask.toNat 2 ls.toNat 0
  | .vor t vd va vb ws mask ls => enc6 0x02400000 t vd.toNat 16 va.toNat 11 vb.toNat 6 ws.toNat 5 mask.toNat 2 ls.toNat 0
  | .vxor t vd va vb ws mask ls => enc6 0x02600000 t vd.toNat 16 va.toNat 11 vb.toNat 6 ws.toNat 5 mask.toNat 2 ls.toNat 0
  | .vsll t vd va vb ws mask ls => enc6 0x02800000 t vd.toNat 16 va.toNat 11 vb.toNat 6 ws.toNat 5 mask.toNat 2 ls.toNat 0
  | .vsrl t vd va vb ws mask ls => enc6 0x02A00000 t vd.toNat 16 va.toNat 11 vb.toNat 6 ws.toNat 5 mask.toNat 2 ls.toNat 0
  | .vsra t vd va vb ws mask ls => enc6 0x02C00000 t vd.toNat 16 va.toNat 11 vb.toNat 6 ws.toNat 5 mask.toNat 2 ls.toNat 0
  | .vsllI t vd va imm ws mask ls => enc6 0x02E00000 t vd.toNat 16 va.toNat 11 imm.toNat 6 ws.toNat 5 mask.toNat 2 ls.toNat 0
  | .vsrlI t vd va imm ws mask ls => enc6 0x03000000 t vd.toNat 16 va.toNat 11 imm.toNat 6 ws.toNat 5 mask.toNat 2 ls.toNat 0
  | .vsraI t vd va imm ws mask ls => enc6 0x03200000 t vd.toNat 16 va.toNat 11 imm.toNat 6 ws.toNat 5 mask.toNat 2 ls.toNat 0
  | .vbfx t vd va vb ws mask ls => enc6 0x03400000 t vd.toNat 16 va.toNat 11 vb.toNat 6 ws.toNat 5 mask.toNat 2 ls.toNat 0
  | .vbfxU t vd va vb ws mask ls => enc6 0x03600000 t vd.toNat 16 va.toNat 11 vb.toNat 6 ws.toNat 5 mask.toNat 2 ls.toNat 0
  | .vfsh t vd va vb mask ls => enc5 0x03800000 t vd.toNat 16 va.toNat 11 vb.toNat 6 mask.toNat 2 ls.toNat 0
  | .vpopc t vd va ws mask ls => enc5 0x03A00000 t vd.toNat 16 va.toNat 11 ws.toNat 5 mask.toNat 2 ls.toNat 0
  | .vclz t vd va ws mask ls => enc5 0x03C00000 t vd.toNat 16 va.toNat 11 ws.toNat 5 mask.toNat 2 ls.toNat 0
  | .vcmpEq t kd va vb mask ls => enc5 0x04000000 t kd.toNat 16 va.toNat 11 vb.toNat 6 mask.toNat 2 ls.toNat 0
  | .vcmpNe t kd va vb mask ls => enc5 0x04200000 t kd.toNat 16 va.toNat 11 vb.toNat 6 mask.toNat 2 ls.toNat 0
  | .vcmpLt t kd va vb mask ls => enc5 0x04400000 t kd.toNat 16 va.toNat 11 vb.toNat 6 mask.toNat 2 ls.toNat 0
  | .vcmpLe t kd va vb mask ls => enc5 0x04600000 t kd.toNat 16 va.toNat 11 vb.toNat 6 mask.toNat 2 ls.toNat 0
  | .kand t kd ka kb => enc3 0x04800000 t kd.toNat 16 ka.toNat 11 kb.toNat 6
  | .kor t kd ka kb => enc3 0x04A00000 t kd.toNat 16 ka.toNat 11 kb.toNat 6
  | .kxor t kd ka kb => enc3 0x04C00000 t kd.toNat 16 ka.toNat 11 kb.toNat 6
  | .knot t kd ka => enc2 0x04E00000 t kd.toNat 16 ka.toNat 11
  | .vsel t vd va vb ws mask ls => enc6 0x05000000 t vd.toNat 16 va.toNat 11 vb.toNat 6 ws.toNat 5 mask.toNat 2 ls.toNat 0
  | .vmov t vd va ws mask ls => enc5 0x05200000 t vd.toNat 16 va.toNat 11 ws.toNat 5 mask.toNat 2 ls.toNat 0
  | .vbcast t vd va vb ws mask ls => enc6 0x05400000 t vd.toNat 16 va.toNat 11 vb.toNat 6 ws.toNat 5 mask.toNat 2 ls.toNat 0
  | .vperm t vd va vb ws mask ls => enc6 0x05600000 t vd.toNat 16 va.toNat 11 vb.toNat 6 ws.toNat 5 mask.toNat 2 ls.toNat 0
  | .vrot t vd va vb ws mask ls => enc6 0x05800000 t vd.toNat 16 va.toNat 11 vb.toNat 6 ws.toNat 5 mask.toNat 2 ls.toNat 0
  | .vli t vd imm ws mask => enc4 0x05A00000 t vd.toNat 16 imm.toNat 6 ws.toNat 5 mask.toNat 2
  | .vidx t vd ws mask => enc3 0x05C00000 t vd.toNat 16 ws.toNat 5 mask.toNat 2
  | .vredAdd t vd va ws mask ls => enc5 0x06000000 t vd.toNat 16 va.toNat 11 ws.toNat 5 mask.toNat 2 ls.toNat 0
  | .vredMin t vd va ws mask ls => enc5 0x06200000 t vd.toNat 16 va.toNat 11 ws.toNat 5 mask.toNat 2 ls.toNat 0
  | .vredMax t vd va ws mask ls => enc5 0x06400000 t vd.toNat 16 va.toNat 11 ws.toNat 5 mask.toNat 2 ls.toNat 0
  | .vscanAdd t vd va ws mask ls => enc5 0x06600000 t vd.toNat 16 va.toNat 11 ws.toNat 5 mask.toNat 2 ls.toNat 0
  | .vcvt t part vd va tag ws mask ls => enc7 0x08000000 t part.toNat 21 vd.toNat 16 va.toNat 11 tag.toNat 6 ws.toNat 5 mask.toNat 2 ls.toNat 0
  | .vcvtRz t part vd va tag ws mask ls => enc7 0x08800000 t part.toNat 21 vd.toNat 16 va.toNat 11 tag.toNat 6 ws.toNat 5 mask.toNat 2 ls.toNat 0
  | .vcvtSr t part vd va tag ws mask ls => enc7 0x09000000 t part.toNat 21 vd.toNat 16 va.toNat 11 tag.toNat 6 ws.toNat 5 mask.toNat 2 ls.toNat 0
  | .vsplit3 t vd va part ws mask ls => enc6 0x0A000000 t vd.toNat 16 va.toNat 11 part.toNat 6 ws.toNat 5 mask.toNat 2 ls.toNat 0
  | .vld t vd va tag ws mask ls => enc6 0x0A800000 t vd.toNat 16 va.toNat 11 tag.toNat 6 ws.toNat 5 mask.toNat 2 ls.toNat 0
  | .vst t va vb mask ls => enc4 0x0AA00000 t va.toNat 11 vb.toNat 6 mask.toNat 2 ls.toNat 0
  | .vldm t vd va tag ws mask ls => enc6 0x0AC00000 t vd.toNat 16 va.toNat 11 tag.toNat 6 ws.toNat 5 mask.toNat 2 ls.toNat 0
  | .vstm t va vb mask ls => enc4 0x0AE00000 t va.toNat 11 vb.toNat 6 mask.toNat 2 ls.toNat 0
  | .vgath t vd va tag ws mask ls => enc6 0x0B000000 t vd.toNat 16 va.toNat 11 tag.toNat 6 ws.toNat 5 mask.toNat 2 ls.toNat 0
  | .vscat t va vb mask ls => enc4 0x0B200000 t va.toNat 11 vb.toNat 6 mask.toNat 2 ls.toNat 0
  | .vldf t vd va code ws mask ls => enc6 0x0B400000 t vd.toNat 16 va.toNat 11 code.toNat 6 ws.toNat 5 mask.toNat 2 ls.toNat 0
  | .vstf t code va vb mask ls => enc5 0x0B600000 t code.toNat 16 va.toNat 11 vb.toNat 6 mask.toNat 2 ls.toNat 0
  | .vpal t va pal ls => enc3 0x0B800000 t va.toNat 11 pal.toNat 6 ls.toNat 0
  | .vcgen t vd va vb ws mask ls => enc6 0x0BA00000 t vd.toNat 16 va.toNat 11 vb.toNat 6 ws.toNat 5 mask.toNat 2 ls.toNat 0
  | .vovf t va mask ls => enc3 0x0C000000 t va.toNat 11 mask.toNat 2 ls.toNat 0
  | .vlsc t => enc0 0x0C200000 t
  | .vadam t vd va vb mask ls => enc5 0x0C400000 t vd.toNat 16 va.toNat 11 vb.toNat 6 mask.toNat 2 ls.toNat 0
  | .vqenc t vd va vb ws mask ls => enc6 0x0C600000 t vd.toNat 16 va.toNat 11 vb.toNat 6 ws.toNat 5 mask.toNat 2 ls.toNat 0
  | .vqencPal1 t vd va vb ws mask ls => enc6 0x0C800000 t vd.toNat 16 va.toNat 11 vb.toNat 6 ws.toNat 5 mask.toNat 2 ls.toNat 0
  | .vloop t count1 len1 => enc2 0x0FA00000 t count1.toNat 11 len1.toNat 0
  | .nendV t => enc0 0x0FE00000 t
  | .mwldSlot t slot code pb => enc3 0x00400000 t slot.toNat 19 code.toNat 11 pb.toNat 7
  | .mwldScratchpad t pa code pb => enc3 0x00600000 t pa.toNat 15 code.toNat 11 pb.toNat 7
  | .mswp t => enc0 0x00800000 t
  | .mband t bands => enc1 0x00C00000 t bands.toNat 18
  | .mslot t slot pa => enc2 0x01000000 t slot.toNat 20 pa.toNat 16
  | .mmf t tile pa pb fmt => enc4 0x01400000 t tile.toNat 19 pa.toNat 15 pb.toNat 11 fmt.toNat 8
  | .mmb t tile pa pb fmt => enc4 0x01800000 t tile.toNat 19 pa.toNat 15 pb.toNat 11 fmt.toNat 8
  | .mmw t tile pa pb fmt => enc4 0x01C00000 t tile.toNat 19 pa.toNat 15 pb.toNat 11 fmt.toNat 8
  | .mconst t tile pa pb kind => enc4 0x02000000 t tile.toNat 19 pa.toNat 15 pb.toNat 11 kind.toNat 8
  | .mconstB t tile pa pb kind => enc4 0x02000080 t tile.toNat 19 pa.toNat 15 pb.toNat 11 kind.toNat 8
  | .mzero t tile => enc1 0x02400000 t tile.toNat 19
  | .macc t tile pa pb => enc3 0x02800000 t tile.toNat 19 pa.toNat 15 pb.toNat 11
  | .madr t tile pa pb code => enc4 0x02C00000 t tile.toNat 19 pa.toNat 15 pb.toNat 11 code.toNat 7
  | .madrRz t tile pa pb code => enc4 0x02C00020 t tile.toNat 19 pa.toNat 15 pb.toNat 11 code.toNat 7
  | .madrSr t tile pa pb code => enc4 0x02C00040 t tile.toNat 19 pa.toNat 15 pb.toNat 11 code.toNat 7
  | .mchk t tile => enc1 0x03000000 t tile.toNat 19
  | .mbind t hnd pa => enc2 0x03400000 t hnd.toNat 20 pa.toNat 16
  | .mimm t tile hnd pa pb => enc4 0x03800000 t tile.toNat 19 hnd.toNat 17 pa.toNat 13 pb.toNat 9
  | .mimmHi t tile hnd pa pb => enc4 0x03800080 t tile.toNat 19 hnd.toNat 17 pa.toNat 13 pb.toNat 9
  | .mimmMid t tile hnd pa pb => enc4 0x03800100 t tile.toNat 19 hnd.toNat 17 pa.toNat 13 pb.toNat 9
  | .mimmLo t tile hnd pa pb => enc4 0x03800180 t tile.toNat 19 hnd.toNat 17 pa.toNat 13 pb.toNat 9
  | .mimv t hnd pa pb pc nrhs1 => enc5 0x03C00000 t hnd.toNat 20 pa.toNat 16 pb.toNat 12 pc.toNat 8 nrhs1.toNat 6
  | .mli t pd imm => enc2 0x08000000 t pd.toNat 18 imm.toNat 0
  | .mlih t pd imm => enc2 0x08400000 t pd.toNat 18 imm.toNat 0
  | .maddi t pd pa imm => enc3 0x08800000 t pd.toNat 18 pa.toNat 14 imm.toNat 0
  | .madd t pd pa pb => enc3 0x08C00000 t pd.toNat 18 pa.toNat 14 pb.toNat 10
  | .mmuli t pd pa imm => enc3 0x09000000 t pd.toNat 18 pa.toNat 14 imm.toNat 0
  | .mlds t pd pa imm => enc3 0x09400000 t pd.toNat 18 pa.toNat 14 imm.toNat 0
  | .mloop t pa off => enc2 0x09800000 t pa.toNat 18 off.toNat 0
  | .nendM t => enc0 0x0FC00000 t
  | .ccopy1d t qb slot sl eng => enc4 0x00400000 t qb.toNat 18 slot.toNat 14 sl.toNat 13 eng.toNat 10
  | .ccopy2d t qb slot sl eng => enc4 0x00800000 t qb.toNat 18 slot.toNat 14 sl.toNat 13 eng.toNat 10
  | .ccopy3d t qb slot sl eng => enc4 0x00C00000 t qb.toNat 18 slot.toNat 14 sl.toNat 13 eng.toNat 10
  | .cgath t qb slot sl eng => enc4 0x01000000 t qb.toNat 18 slot.toNat 14 sl.toNat 13 eng.toNat 10
  | .cscat t qb slot sl eng => enc4 0x01400000 t qb.toNat 18 slot.toNat 14 sl.toNat 13 eng.toNat 10
  | .cfill t qb slot sl eng => enc4 0x01800000 t qb.toNat 18 slot.toNat 14 sl.toNat 13 eng.toNat 10
  | .cradd t qb slot sl eng => enc4 0x01C00000 t qb.toNat 18 slot.toNat 14 sl.toNat 13 eng.toNat 10
  | .cfput t qb slot sl eng => enc4 0x02000000 t qb.toNat 18 slot.toNat 14 sl.toNat 13 eng.toNat 10
  | .cfget t qb slot sl eng => enc4 0x02400000 t qb.toNat 18 slot.toNat 14 sl.toNat 13 eng.toNat 10
  | .crs t qb slot sl eng => enc4 0x02800000 t qb.toNat 18 slot.toNat 14 sl.toNat 13 eng.toNat 10
  | .cag t qb slot sl eng => enc4 0x02C00000 t qb.toNat 18 slot.toNat 14 sl.toNat 13 eng.toNat 10
  | .carm t qb eng => enc2 0x03000000 t qb.toNat 18 eng.toNat 10
  | .csend t qa eng => enc2 0x03400000 t qa.toNat 18 eng.toNat 10
  | .cfence t => enc0 0x03800000 t
  | .cpermit t slot n1 => enc2 0x03C00000 t slot.toNat 14 n1.toNat 0
  | .qli t qd imm => enc2 0x08000000 t qd.toNat 18 imm.toNat 0
  | .qlih t qd imm => enc2 0x08400000 t qd.toNat 18 imm.toNat 0
  | .qaddi t qd qa imm => enc3 0x08800000 t qd.toNat 18 qa.toNat 14 imm.toNat 0
  | .qadd t qd qa qb => enc3 0x08C00000 t qd.toNat 18 qa.toNat 14 qb.toNat 10
  | .qlds t qd qa imm => enc3 0x09000000 t qd.toNat 18 qa.toNat 14 imm.toNat 0
  | .qloop t qa off => enc2 0x09400000 t qa.toNat 18 off.toNat 0
  | .nendC t => enc0 0x0FC00000 t
  | .heldPush _ _ => 0
  | .tokenDeadlock _ => 0
  | .trapEntry _ _ => 0
  | .handlerStart _ => 0
  | .nodeCommit _ => 0
  | .commitAcknowledged _ => 0
  | .mPathRetire _ _ => 0
  | .planeSwap _ => 0
  | .paletteCheckEnd _ => 0
  | .copyAdmission _ _ => 0
  | .copyStart _ _ => 0
  | .copyComplete _ _ => 0
  | .collectiveArrival _ _ => 0
  | .counterDelivery _ => 0
  | .pendingActionRetry _ => 0
  | .acwaitPoll _ => 0
  | .counterDisarm _ => 0
  | .walkPrefetchComplete _ _ _ => 0
  | .allocateNode _ => 0
  | .lateFieldResolve _ _ => 0
  | .launchStart _ => 0
  | .launchComplete _ _ => 0
  | .preempt _ _ => 0
  | .release _ _ => 0
  | .nodeSaveComplete _ => 0
  | .saveTimeout _ => 0
  | .nodeRestore _ _ => 0
  | .go _ _ => 0
  | .rangeTableActivation _ => 0
  | .migcmd _ => 0
  | .migrationCopy => 0
  | .migrationRedirect => 0
  | .migrationReplay => 0
  | .solveIterationComplete _ _ => 0
  | .solveDeadline _ => 0
  | .solveVerifyProduct _ _ => 0
  | .solveFinish _ => 0
  | .pacqGrant _ => 0
  | .allotmentUpdate => 0
  | .capw _ => 0
  | .halt => 0
  | .thermalThrottle _ _ => 0
  | .thermalHalt _ _ => 0
  | .thermalPowerOff _ _ => 0
  | .rollback _ _ => 0
  | .controlDivergence _ _ => 0
  | .accumulatorScrub _ _ => 0
  | .memoryScrub _ _ => 0
  | .hostMemoryRead _ _ => 0
  | .hostMemoryWrite _ _ => 0
  | .hostLineRequest _ => 0
  | .backInvalidateSnoop _ _ => 0
  | .inboundFabricRequest _ _ => 0
  | .fabricCompletionTimeout _ _ => 0
  | .completerAbort _ _ => 0
  | .linkTraining _ _ => 0
  | .linkDown _ _ => 0
  | .laneFailure _ _ => 0
  | .pwid _ _ => 0
  | .widthChangeComplete _ => 0
  | .inbpWrite _ _ => 0
  | .eqbaseWrite _ _ => 0
  | .telemetryEnableWrite _ _ _ => 0
  | .counterDump _ => 0
  | .traceSample _ _ => 0
  | .snapshotTrigger _ _ => 0
  | .snapshotWriteOut _ => 0
  | .snaprel _ => 0
  | .controlRegisterWrite _ _ _ => 0
  | .powerOnBringUp => 0
  | .resetBoot => 0
  | .pldmFirmwareUpdate _ => 0
  | .pldmMonitoring _ => 0
  | .spdmMeasurements => 0
  | .spareCore _ => 0
  | .rowSparing _ => 0
  | .channelRetirement _ => 0
  | .objectLoad _ _ => 0
  | .memoryAccessComplete _ _ => 0

/-- The word of an instruction (R103 to R122); an event has none and answers zero. -/
def encode (i : Instr) : BitVec 32 := BitVec.ofNat 32 i.encodeNat

/-- The instruction an opcode-table word stands for. The table numbers one 32-bit word and gives no stream;
the streams share words, so the model reads S, then V, then M, then C (log 8). -/
def decodeTableWord (nbits w : Nat) : Option Instr :=
  if nbits = 32 ∧ w < 2 ^ 32 then
    match decode .S (BitVec.ofNat 32 w) with
    | .ok i => some i
    | .error _ =>
      match decode .V (BitVec.ofNat 32 w) with
      | .ok i => some i
      | .error _ =>
        match decode .M (BitVec.ofNat 32 w) with
        | .ok i => some i
        | .error _ =>
          match decode .C (BitVec.ofNat 32 w) with
          | .ok i => some i
          | .error _ => none
  else none

end Sys2Proof
end

