-- ==== Sys2Proof/Machine/State.lean ====
section
/-! DEFINITION. The state of the package: every piece of state that spec/02 to spec/25 name, as plain data,
and the state after reset. INVENTORY.md's State heading lists each field with its rule. -/

namespace Sys2Proof.Machine

/-- Why the machine stops. -/
inductive Fault where
  /-- Raised by `step` alone, after a stack has reached 115 °C, on a turn that is neither the side-band controller's nor one of
  what lies outside the package: the power rails are off and only that controller runs (R454). Safe: the manual runs nothing
  else there. -/
  | railsOff
  deriving DecidableEq, Repr

/-- Why an instruction has no meaning. -/
inductive Refusal where
  /-- Raised by `exec` for an arm of the dispatcher that has no meaning yet. Safe: nothing is claimed. -/
  | notModelled (mnemonic : String)
  deriving DecidableEq, Repr

/-- Memory: cells in rising order of address, no cell equal to zero, which is what an unlisted address reads
as (R468 step 3; log 5). -/
abbrev Memory := List Host.Cell

/-- A vector register: 64 lanes under one tag (R42). -/
structure VReg where
  lanes : Vector Lane 64
  tag   : BitVec 4
  deriving DecidableEq, Repr

/-- A bypass latch (R44). -/
structure Latch where
  val   : VReg
  valid : Bool
  deriving DecidableEq, Repr

/-- An accumulator tile with its row checksums and tag (R47, R48). -/
structure Tile where
  rows : Vector (Vector Lane 64) 64
  sums : Vector Lane 64
  tag  : BitVec 4
  deriving DecidableEq, Repr

/-- A plane of stationary values, two bytes each in multiplier format, with its tag (R50, R72). -/
structure Plane where
  vals : Vector (Vector (BitVec 16) 64) 64
  tag  : BitVec 4
  deriving DecidableEq, Repr

/-- A canvas handle: bound bit, the 128-byte record and the stroke words decoded from it (R51, R309). -/
structure Handle where
  bound  : Bool
  record : List Byte
  main   : List Lane
  alt    : List Lane
  deriving DecidableEq, Repr

/-- A palette: 256 FP32 entries, valid bit, and whether its check is still running (R23, R52, R207). -/
structure Palette where
  entries  : Vector Lane 256
  valid    : Bool
  checking : Bool
  deriving DecidableEq, Repr

/-- What a trap records: cause, value, PC for the return, and the flag bits of TCAUSE (R58). -/
structure TrapInfo where
  cause : BitVec 8
  tval  : Word
  tepc  : Word
  post  : Bool := false
  chain : Bool := false
  /-- Was it a fetch breakpoint on the word at TEPC (R60)? -/
  fetched : Bool := false
  /-- Of a post-completion record: the cycle in which it was made, and whether a save had been asked for by then, whose
  image keeps it (R316, R388; log 93). -/
  made    : Nat := 0
  kept    : Bool := false
  deriving DecidableEq, Repr

/-- The condition of a strand (R273, R462). -/
inductive Cond where
  | ready
  | popStall (fifo : Nat)
  /-- The push of the retired instruction at a PC is held (R274); `last` when that instruction was `nend`. -/
  | pushHold (fifo : Nat) (pc : Word) (last : Bool)
  /-- Issued, waiting for memory to answer (R132). -/
  | memory (i : Instr)
  /-- M path, copy queue or issue limit full (R213, R247). -/
  | queueFull
  /-- Waiting in `acwait` or `bar` for a phase of a counter, first tested at a cycle (R153, R155). -/
  | counter (ctr phase since : Nat)
  | pacq
  | power
  /-- Held behind a fence, a trap report or other issued work (R165, R269, R239). -/
  | fence
  /-- `nend` of the C strand has issued and waits for every earlier C instruction (R270). -/
  | ending
  | ended
  deriving DecidableEq, Repr

/-- What one strand keeps between instructions. -/
structure StrandSt where
  pc      : Word
  secBase : Nat
  secLen  : Nat
  cond    : Cond
  /-- The FIFO whose token the waiting instruction has popped (R128). -/
  popped  : Option Nat
  /-- Has a wake reached the waiting strand (R337)? -/
  woken   : Bool
  /-- The cycle at which the present stall began (R275). -/
  since   : Nat
  frozen  : Bool
  /-- The word whose fetch breakpoint does not match again (R60). -/
  skipBrk : Option Word
  /-- A trap to raise at the next boundary (R60, R239, R316). -/
  pending : Option TrapInfo
  deriving DecidableEq, Repr

/-- An active `vloop`: first and last word of the body and passes still to run (R116, R210). -/
structure Loop where
  first : Word
  last  : Word
  left  : Nat
  deriving DecidableEq, Repr

/-- A V instruction that a later latch read may join to a chain (R117, R118, R279). -/
structure Member where
  pc      : Word
  yields  : Bool
  popped  : Option Nat
  pushed  : Bool
  /-- Does it store to memory or the scratchpad (R279)? -/
  stores  : Bool
  tailOnly : Bool
  /-- Is it a `vloop` (R117 limit 4)? -/
  loop    : Bool
  /-- Does the boundary before it lie inside a chain? -/
  linked  : Bool
  deriving DecidableEq, Repr

/-- What leaves the module (R414, R415, R420, R422, R455, R457, R458). -/
inductive OutMsg where
  | msix (fn : Nat)
  | hostWrite (addr : Nat) (bytes : List (Option Byte))
  /-- UIO traffic to a fabric window: port, PBR ID of the target, offset, and bytes under their mask or the length
  asked for (R417, R422). -/
  | fabricWrite (port pbrid off : Nat) (bytes : List (Option Byte))
  | fabricRead (port pbrid off len : Nat)
  /-- A read of host memory at a host physical address (R415). -/
  | hostRead (addr len : Nat)
  /-- Exclusive ownership of a line of pooled memory obtained or released, with its port and target (R421). -/
  | ownership (port pbrid line : Nat) (gain : Bool)
  | collective (port : Nat) (msg : CollMsg)
  /-- The answers to a request, by the port that it came by. -/
  | completion (port : Nat) (bytes : List Byte) (poison : Bool)
  | completerAbort (port : Nat)
  | recall (line : Nat)
  | pldm (code : Nat) (value : Word)
  | spdm (index : Nat) (bytes : List Byte)
  deriving DecidableEq, Repr

/-- An access that waits in a queue: at a page under migration (R383), or in a port's ordered queue (R426). -/
inductive Held where
  /-- The access of a strand that waits for memory. -/
  | strand (core : Nat) (st : Strand)
  /-- A host access or an inbound fabric request. -/
  | hostRead (addr len : Nat)
  | hostWrite (addr : Nat) (bytes : List (Option Byte))
  | hostLine (addr : Nat)
  | inbound (off : Nat) (req : FabricReq)
  /-- Source sectors to read and destination sectors to land of an engine's command, named by core and number. -/
  | engine (core id : Nat) (reads lands : List Nat)
  /-- What waits to leave by a port (R426). -/
  | out (m : OutMsg)
  /-- A write of the device's own for a partition, at a page under migration (R289, R383). -/
  | write (part pa : Nat) (bytes : List (Option Byte))
  /-- A record for a ring of a partition, of which the error queue's may send a vector and a lost trace record is counted
  (R443, R461). -/
  | ring (part base logn : Nat) (bytes : List Byte) (trace : Bool)
  /-- The host writes back a line that it holds (R420). -/
  | hostBack (line : Nat)
  /-- A line that `pref` asks for on behalf of a core, by its physical address (R146). -/
  | lease (core pa : Nat)
  deriving DecidableEq, Repr

/-- Which M path an issued instruction waits in; `order` entries only keep retirement order (R212, R213). -/
inductive Path where
  | array | weight | order
  deriving DecidableEq, Repr

/-- An issued M instruction: itself, its PC and push, the parameter values, band mask and rounding counter
captured at issue (R212, R213, R31), and TVAL of the trap that follows it (R239). -/
structure MEntry where
  path  : Path
  instr : Instr
  pc    : Word
  push  : BitVec 2
  r0    : Lane
  r1    : Lane
  r2    : Lane
  r3    : Lane
  bands : BitVec 4
  seed  : Word
  post  : Option Word
  deriving DecidableEq, Repr

/-- A C instruction issued and not retired: its number, whether it is complete, its push, whether it completes
only behind every earlier one (`cfence`, `nend`), and whether it is `nend` (R247, R248). -/
structure COut where
  id    : Nat
  pc    : Word
  done  : Bool
  push  : BitVec 2
  fence : Bool
  last  : Bool
  deriving DecidableEq, Repr

/-- The phases of a node on a core (R287), with the handler's wait for the other strands (R281). -/
inductive Phase where
  | idle | running | trapEntry | handler | committing
  deriving DecidableEq, Repr

/-- An item published and not yet committed: output index and bytes (R159). -/
structure OutItem where
  out   : Nat
  bytes : List Byte
  deriving DecidableEq, Repr

/-- A point issued to a node: walk handle, point, and whether `wdone` named it (R157, R158). -/
structure IssuedPoint where
  handle : Nat
  point  : Nat
  done   : Bool
  deriving DecidableEq, Repr

/-- What ends a node once its strands stand at boundaries (R278, R284, R371): a rollback with its cause, strand, PC, address and
the GTC of its detection, a discard by pre-emption, or what ends the member of its gang on another core. -/
inductive Ending where
  | rollback (cause strand : Nat) (pc addr : Word) (gtc : Nat)
  | discard
  | gang (core : Nat)
  deriving DecidableEq, Repr

/-- The node that a core runs (R57, R272 to R287). -/
structure Node where
  phase    : Phase
  part     : Nat
  launch   : Nat
  stage    : Nat
  itemOff  : Nat
  /-- Slot of the stage's input queue that the node holds (R364). -/
  slot     : Nat
  attempt  : Nat
  /-- Staged bytes by physical address, with the write's mask kept by presence (R143, R295). -/
  staged   : List (Nat × Byte)
  /-- Staged sectors that carry an uncorrectable error (R434, R436). -/
  stagedPoison : List Nat
  /-- Sectors reserved by copy commands (R255). -/
  reserved : Nat
  items    : List OutItem
  points   : List IssuedPoint
  pinned   : Bool
  /-- The cores of the gang, when the stage is a gang (R369). -/
  gang     : List Nat
  /-- The number of the gang, which no other gang has (the model's own): by it the members know one another, on whatever cores
  a restore has put them (R371, R387). -/
  gangNo   : Nat
  started  : Nat
  trapper  : Strand
  /-- The S strand as the freeze found it, while the handler runs on S (R281). -/
  sSaved   : StrandSt
  /-- The trap that the handler serves, whatever the handler writes to the trap registers (R283). -/
  trap     : Option TrapInfo
  /-- Did TVECP.EN stand at the node's start (R59)? -/
  handler  : Bool
  /-- A save asked for at this GTC (R386). -/
  saveAt   : Option Nat
  /-- Does a pre-emption still have to deal with the node (PMSTAT.BUSY, R384)? -/
  pm       : Bool
  /-- What ends the node as soon as its strands have stopped (R284). -/
  ending   : Option Ending
  /-- Stack of an accepted solve that has not finished (R161). -/
  solving  : Option Nat
  nextOp   : Nat
  deriving DecidableEq, Repr

/-- What a core has done in the cycle that is not yet over: the FIFOs popped and pushed, whose counts every push
and pop of the cycle still sees as they stood at its start (R67), the control register that `cwr` has written, which
changes for the instructions of the next cycle (R55, R176), the strands that have issued (R462), and whether the M strand
has written PSNA, which an earlier strand of the cycle then leaves alone (R176). -/
structure Now where
  popped : List Nat
  pushed : List Nat
  write  : Option (BitVec 12 × Word)
  issued : List Strand
  mPoison : Bool
  deriving DecidableEq, Repr

/-- One core: the state of R40, R54, R69 and R72, its strands and its node. -/
structure Core where
  x       : Vector Word 32
  v       : Vector VReg 32
  k       : Vector Word 8
  lat     : Vector Latch 4
  p       : Vector Lane 16
  q       : Vector Lane 16
  tiles   : Vector Tile 8
  wtags   : Vector (BitVec 4) 4
  live    : Plane
  shadow  : Plane
  handles : Vector Handle 4
  pals    : Vector Palette 2
  /-- Scratchpad at 0 and weight buffer at 0x8_0000 of the window (R9, R49, R68). -/
  window  : Memory
  /-- Poisoned sectors of the window (R434). -/
  winPoison : List Nat
  tvec    : Word
  tcause  : Word
  tepc    : Word
  tval    : Word
  psup    : Bool
  sup     : Bool
  twin    : Word
  tk      : Vector Nat 12
  bands   : BitVec 4
  lsc     : Word
  srseed  : Word
  ovf     : Bool
  psnv    : Bool
  psns    : BitVec 2
  psna    : Word
  req     : BitVec 3
  grant   : BitVec 3
  pend    : Bool
  lslt    : Vector Word 16
  brka    : Vector Word 4
  brkc    : Word
  strands : Vector StrandSt 4
  loops   : List Loop
  chain   : List Member
  mq      : List MEntry
  cout    : List COut
  /-- Charges of the last 850 cycles: cycle and pJ (R448). -/
  charges : List (Nat × Nat)
  /-- The core's limit L in pJ (R448, R470). -/
  limit   : Nat
  /-- Lines that the core's L1 holds (R147, R288). -/
  l1      : List Nat
  now     : Now
  node    : Node
  /-- Launch and stage of the core's last node (R368, R71). -/
  last    : Option (Nat × Nat × Nat)
  /-- Has a spare of the stack replaced the core (R466)? -/
  spared  : Bool
  deriving DecidableEq, Repr

/-- A fire whose action waits for room: its phase, and the action, argument, item and late-bound descriptors in
force when the counter fired (R337, R338). -/
structure Waiting where
  phase  : Nat
  action : Nat
  arg    : Nat
  item   : List Byte
  late   : List (List Byte)
  /-- VBASE, where a mailbox's ring begins (R340). -/
  base   : Nat
  deriving DecidableEq, Repr

/-- An arrival counter (R329); `waiting` holds its pending actions in order of phase (R338), `lines` the physical lines its region covers (R330), `late` the late-bound descriptors of a stored item (R358). -/
structure Counter where
  vbase : Nat
  vlen  : Nat
  total : Nat
  count : Nat
  phase : Nat
  armed : Bool
  ovfl  : Bool
  part  : Nat
  action : Nat
  arg   : Nat
  fires : Nat
  item  : List Byte
  waiting : List Waiting
  lines : List Nat
  late  : List (List Byte)
  deriving DecidableEq, Repr

/-- A delivery on its way to a counter: counter, bytes, partition of the writer (R335). -/
structure Delivery where
  ctr : Nat
  n   : Nat
  deriving DecidableEq, Repr

/-- The state of one point of a walk, NEW points standing in no table (R348). -/
inductive PointSt where
  | deferred (k t0 : Nat) (prefetching : Bool)
  | forced
  | issued (core : Nat)
  | visited
  deriving DecidableEq, Repr

/-- The lines that one deferral asked for and that are in flight (R347): the walk context and point, the core whose
node's end waits for them, while that node lasts, each line with the quad of its home slice, and whether the context
has since been freed or taken. -/
structure Prefetch where
  key   : Nat
  point : Nat
  core  : Option Nat
  lines : List (Nat × Nat)
  stale : Bool
  deriving DecidableEq, Repr

/-- The states of a walk context (R342). -/
inductive WalkSt where
  | free | opened | closed
  deriving DecidableEq, Repr

/-- A walk context: the descriptor's bytes, cursor, point states and queues (R342 to R349). -/
structure Walk where
  state   : WalkSt
  part    : Nat
  launch  : Nat
  desc    : List Byte
  cursor  : Nat
  points  : Table PointSt
  revisit : List Nat
  forced  : List Nat
  deriving DecidableEq, Repr

/-- What a solve controller is doing (R395 to R410). -/
inductive SolvePhase where
  | idle
  /-- Reserved by the controller of a leading stack (R395). -/
  | reserved (lead : Nat)
  /-- `finishing`: the status is known; `writing`: XVEC has been written (R400). -/
  | start | setup | iterate | verify | finishing | writing
  deriving DecidableEq, Repr

/-- A solve controller: the record's head, and the scalars it holds (R396 to R407). -/
structure Solver where
  phase   : SolvePhase
  addr    : Nat
  head    : List Byte
  /-- The canvas decoded at acceptance, or the block-sparse descriptor's bytes (R319, R396). -/
  canvas  : Handle
  desc    : List Byte
  core    : Nat
  part    : Nat
  launch  : Nat
  gtcAcc  : Nat
  /-- Is r_0 known (R410)? -/
  known   : Bool
  tmv     : Nat
  bn      : BitVec 64
  rn      : BitVec 64
  /-- Buffer of the best iterate (false XA, true XB), its norm and its iteration (R404). -/
  bestBuf : Bool
  bestRn  : BitVec 64
  bestIter : Nat
  /-- Does the current iterate lie in the best buffer (R404)? -/
  curBest : Bool
  iter    : Nat
  rho     : BitVec 64
  alpha   : BitVec 64
  om      : BitVec 64
  status  : Nat
  pivCnt  : Nat
  pivFirst : Option Nat
  /-- Units replaced under the pivot rule (R405). -/
  replaced : List Nat
  verified : Bool
  trueres : BitVec 64
  /-- The bytes of x_0 that START read (R409). -/
  x0      : List Byte
  /-- Attempts that each internal node of this step has lost to errors (R410). -/
  tries   : Table Nat
  /-- The internal nodes of the stack's share of the latest product: block and core (R408). -/
  ran     : List (Nat × Nat)
  /-- The stack's fifth walk context, which only the controller uses (R342, R408). -/
  walk    : Walk
  deriving DecidableEq, Repr

/-- Where a copy command stands (R247, R70, R250). -/
inductive CmdSt where
  | queued | admitted | executing
  deriving DecidableEq, Repr

/-- A copy command in an engine (R245), with its length X in bytes (lines for `carm`), the indices read at issue
(R261), its staging reservation (R255), and the source sectors read so far (R257). -/
structure Cmd where
  core : Nat
  id   : Nat
  part : Nat
  form : Nat
  slot : Option Nat
  aux  : Nat
  wait : BitVec 8
  sig  : BitVec 8
  cnt  : Nat
  src  : Word
  dst  : Word
  len  : Nat
  a1   : Lane
  a2   : Lane
  a3   : Lane
  a4   : Lane
  item : List Byte
  idx  : List Nat
  reserve : Nat
  state : CmdSt
  /-- Offset of the landing in the scratchpad, fixed at admission (R70). -/
  land : Nat
  /-- Source sectors already read: sector number, and each byte with its poison mark (R257). -/
  grabbed : Table (List (Byte × Bool))
  /-- Destination sectors that have landed (R257). -/
  landed : List Nat
  /-- Physical sectors that the command has newly staged, which its reservation stands for until it completes (R255). -/
  newly : List Nat
  /-- The incoming chunk of a collective step, when it has been paired (R265). -/
  arrived : Option CollMsg
  /-- GTC at the command's start (R422). -/
  began : Nat
  /-- Has the successor accepted the send of a collective step (R265)? -/
  accepted : Bool
  deriving DecidableEq, Repr

/-- A copy engine: its queue, oldest first, bytes moved for each partition (R250, R465), and the starts that each
partition has had in the round under way (R250). -/
structure Engine where
  queue : List Cmd
  moved : Table Nat
  round : Table Nat
  deriving DecidableEq, Repr

/-- A range-table entry: four 64-bit words (R379). -/
structure RangeEntry where
  w0 : Word
  w1 : Word
  w2 : Word
  w3 : Word
  deriving DecidableEq, Repr

/-- The conditions of a queue slot (R364). -/
inductive SlotSt where
  | free | reserved | ready | taken
  deriving DecidableEq, Repr

/-- A queue slot: condition, item bytes, late-bound descriptors, GTC at which it first became READY, order of
arrival and attempt count (R364 to R366, R371). -/
structure Slot where
  st    : SlotSt
  bytes : List Byte
  late  : List (List Byte)
  since : Nat
  order : Nat
  tries : Nat
  deriving DecidableEq, Repr

/-- A queue (R364): its launch, item size, the virtual address of its ring, and its slots; `nextOrder` numbers
arrivals. -/
structure Queue where
  launch : Nat
  size   : Nat
  ring   : Nat
  slots  : List Slot
  nextOrder : Nat
  deriving DecidableEq, Repr

/-- Gang kinds (R357). -/
inductive GangKind where
  | core | quad | stack
  deriving DecidableEq, Repr

/-- A stage of a launch (R357): queues by identifier, and the four sections of the code region. -/
structure Stage where
  input  : Nat
  outs   : List (Nat × Nat)
  long   : Bool
  kind   : GangKind
  k      : Nat
  min    : Nat
  max    : Nat
  weight : Nat
  aging  : Nat
  /-- Virtual base and length of the S, V, M and C sections (R127). -/
  secs   : List (Nat × Nat)
  deriving DecidableEq, Repr

/-- The states of a launch (R360). -/
inductive LaunchSt where
  | loaded | running | ended | failed
  deriving DecidableEq, Repr

/-- A loaded launch (R359 to R363): needs of R357, initial items (queue, bytes, descriptors), counters. -/
structure Launch where
  state  : LaunchSt
  prio   : Nat
  declared : Nat
  solve  : Bool
  coll   : Bool
  cores  : Nat
  fports : Nat
  stages : List Stage
  queues : List Nat
  /-- Counters that the launch's object brought (R99, R360). -/
  ctrs   : List Nat
  init   : List (Nat × List Byte × List (List Byte))
  done   : Nat
  committed : Nat
  /-- GTC since which the launch is quiescent (R373). -/
  quiet  : Option Nat
  deriving DecidableEq, Repr

/-- Where a start came from: a mailbox phase or a LAUNCH action's counter (R361, R444). -/
inductive StartSrc where
  | mailbox (phase : Nat)
  | action (ctr : Nat)
  deriving DecidableEq, Repr

/-- A start in the launch queue: the record's bytes and its source (R362). -/
structure Start where
  bytes : List Byte
  src   : StartSrc
  deriving DecidableEq, Repr

/-- A saved node: its save slot, its node, the core it ran on, and the strands that had ended, for which the image
has no field (R386, R387; log 21). -/
structure Saved where
  slot : Nat
  node : Node
  core : Nat
  ended : List Strand
  deriving DecidableEq, Repr

/-- A held scope (R384): core, stage, launch or partition. -/
inductive Scope where
  | core (c : Nat)
  | stage (launch stage : Nat)
  | launch (l : Nat)
  | partition
  deriving DecidableEq, Repr

/-- A snapshot latched and held (R464, R465). -/
structure Snap where
  bytes   : List Byte
  written : Bool
  deriving DecidableEq, Repr

/-- The telemetry block of a partition (R459, R463, R464): TRCTL, SAMPCTL, EVMASK, CDUMP, SNAPCTL, SNAPLOST,
SNAPBUF, EVSEL and PMC, and the trace ring's two device words. -/
structure Telemetry where
  trctl   : Word
  sampctl : Word
  evmask  : Word
  cdump   : Word
  snapctl : Word
  /-- Has an event matched since SNAPCTL was written (R464)? -/
  matched : Bool
  snaplost : Word
  snapbuf : Word
  evsel   : Table Nat
  pmc     : Table Nat
  snap    : Option Snap
  /-- Period of GTC that the last counter dump served, and the cycle of each strand's last sample (R460, R462). -/
  dumped  : Nat
  sampled : Table Nat
  deriving DecidableEq, Repr

/-- A partition: its control block (R377), launches, queues and telemetry. -/
structure Part where
  shadow  : Table RangeEntry
  active  : Table RangeEntry
  rtRefused : Bool
  rtReason : Nat
  rtEntry : Nat
  /-- A GO in progress (R382). -/
  going   : Bool
  savedN  : Nat
  discardedN : Nat
  saveBase : Word
  saveCnt : Word
  tvecp   : Word
  brka    : Vector Word 4
  brkc    : Word
  holds   : List Scope
  saved   : List Saved
  launches : Table Launch
  queues  : Table Queue
  launchQ : List Start
  /-- Units held for a gang stage: first core of the unit, launch, stage (R369). -/
  gangHolds : List (Nat × Nat × Nat)
  tel     : Telemetry
  deriving DecidableEq, Repr

/-- The collective engine of a port: the messages it holds (R423); the posted commands are the executing `crs` and
`cag` commands that name the port as IN. -/
structure Collective where
  buffer : List CollMsg
  deriving DecidableEq, Repr

/-- The page states of a migration (R383). -/
inductive MigSt where
  | idle | blocked | copying | replay | done | refused
  deriving DecidableEq, Repr

/-- Page migration: its state, the two pages, for the sparing of a row, which keeps its address, what MIGSTAT goes on
showing (R466), the redirects in force, and the accesses queued at the old home, in order of arrival (R383). -/
structure Migration where
  st   : MigSt
  src  : Nat
  dst  : Nat
  sparing : Option MigSt
  redirects : List (Nat × Nat)
  /-- At most 256 accesses, and those of the device's own units that a full queue holds back, in their order. -/
  queue : List Held
  stalled : List Held
  deriving DecidableEq, Repr

/-- A port's registers (R424), the ordered traffic that waits during a width change, with what a full queue holds back, and
how many of the messages that have left by the port its partner has acknowledged: the rest is in its retry buffer (R426). -/
structure Port where
  up    : Bool
  chg   : Bool
  width : BitVec 2
  maxw  : BitVec 2
  fallbk : Bool
  ide   : Bool
  reqw  : BitVec 2
  coll  : BitVec 4
  copy  : BitVec 4
  host  : BitVec 4
  ordq  : List Held
  stalled : List Held
  acked : Nat
  deriving DecidableEq, Repr

/-- A `pacq` request: core, class, place in the order of arrival, and whether it has been counted as set aside
(R446). -/
structure PacqReq where
  core  : Nat
  cls   : Nat
  order : Nat
  counted : Bool
  deriving DecidableEq, Repr

/-- A stack's power and thermal state: allotment in nJ, waiting requests, requests set aside, the number of requests so
far, and the thermal step in tenths (R446, R454, R470). -/
structure StackPower where
  allot : Nat
  queue : List PacqReq
  aside : List PacqReq
  arrivals : Nat
  steps : Nat
  /-- GTC of the last thermal step (R454). -/
  stepped : Option Nat
  deriving DecidableEq, Repr

/-- Newt's boot state (R457, R468): which bank is active, which becomes active at the next reset, both
banks, and how far bring-up has come. -/
structure Boot where
  active  : Bool
  next    : Bool
  bankA   : FlashImage
  bankB   : FlashImage
  booted  : Bool
  failed  : Bool
  ready   : Bool
  deriving DecidableEq, Repr

/-- What the package meets (the model's own; log 91): what each port finds at its other end, and the step of R468 that fails,
if one does. -/
structure Surroundings where
  ends : List (Nat × LinkPartner)
  flaw : Option Nat
  /-- How many of the latest messages each port's partner asks for again when the link resumes (R426). -/
  asks : List (Nat × Nat)
  deriving DecidableEq, Repr

/-- Whose turn an agenda entry gives (the model's own; log 3). -/
inductive Act where
  | strand (core : Nat) (st : Strand)
  | event (i : Instr)
  /-- Caches fill and evict on their own: the lines a core's L1 holds, those the slice of a quad holds, and its fills
  in progress become these (R147, R288, R346). -/
  | residency (core : Nat) (l1 : List Nat) (quad : Nat) (l2 fills : List Nat)
  /-- An executing copy command reads these source sectors and lands these destination sectors, numbered
  within the command, before its completion (R257, R259). -/
  | copyProgress (eng idx : Nat) (reads lands : List Nat)
  /-- The successor accepts the send of an executing collective step (R265). -/
  | sendAccepted (eng idx : Nat)
  /-- Bytes of host, pool or peer memory change by an agent outside the device (R289, R300). -/
  | outside (pa : Nat) (bytes : List (Option Byte)) (poison : Bool)
  /-- The host commits HDM decoder p at a base, or removes it (R416). -/
  | decoder (p : Nat) (base : Option Nat)
  /-- The host writes bytes of a line that it holds, or writes the line back (R420). -/
  | hostDirty (line : Nat) (bytes : List (Nat × Byte))
  | hostWriteBack (line : Nat)
  /-- The runtime unloads a launch (R360). -/
  | unload (part launch : Nat)
  /-- A read meets an error in storage (R434). -/
  | readError (site : ScrubSite) (uncorrectable : Bool)
  /-- An internal node, by its number, of the solve that a stack leads meets an uncorrectable error or a divergence (R410). -/
  | solveError (stack node : Nat) (divergence : Bool)
  /-- The side-band controller releases the thermal hold (R454). -/
  | releaseHeat
  /-- The 1 ms average of the input power becomes this (R450). -/
  | inputPower (watts : Nat)
  /-- What lies around the package, and what is defect in it, becomes this (R457, R468). -/
  | surround (x : Surroundings)
  /-- The partner of a port acknowledges some messages more, oldest first (R426). -/
  | acknowledged (port n : Nat)
  deriving DecidableEq, Repr

/-- An agenda entry: cycles that pass first, whether a memory access of the turn goes beyond the L1 and so
completes by its own event (R132), and the turn (log 3). -/
structure Turn where
  wait : Nat
  late : Bool
  act  : Act
  deriving DecidableEq, Repr

/-- Which strands may still have a turn in the cycle under way: every one, those after a core's strand, one of a core
whose M path has retired, but not M (R316), or none. -/
inductive CycleSlot where
  | fresh
  | after (core : Nat) (st : Strand)
  | retired (core : Nat)
  | closed
  deriving DecidableEq, Repr

/-- A line that the host holds by a partition's decoder, with the bytes it has written in its own copy, by offset (R416,
R420). -/
structure HostLine where
  line  : Nat
  part  : Nat
  dirty : List (Nat × Byte)
  deriving DecidableEq, Repr

/-- What an error record says (R444). -/
structure ErrRec where
  kind    : Nat
  cause   : Nat
  flags   : Nat := 0
  attempt : Nat := 0
  launch  : Nat := 0
  stage   : Nat := 0
  core    : Nat := 0
  pc      : Word := 0
  value   : Word := 0
  addr    : Word := 0
  arg     : Nat := 0
  deriving DecidableEq, Repr

/-- A record that is due to enter the error queue of a partition, with the GTC of its detection (R444). -/
structure Due where
  part : Nat
  gtc  : Nat
  err  : ErrRec
  deriving DecidableEq, Repr

/-- A repair that Newt has under way (R466): of a core, with whether the core was held before, or of a channel. -/
inductive Repair where
  | core (c : Nat) (held : Bool)
  | channel (c : Nat)
  deriving DecidableEq, Repr

/-- The whole machine. -/
structure State where
  /-- Cycles since reset (R5), and the GTC then (R6); the GTC is derived. -/
  cycle   : Nat
  gtcBase : Nat
  /-- The model's own: turns to come, the core that moves when none is listed and its next strand, the core
  whose instruction issues now and the late flag of its turn, what the cycle under way still admits, and how many free
  values are used (log 3, 6). -/
  agenda  : List Turn
  focus   : Nat
  round   : Strand
  core    : Nat
  late    : Bool
  slot    : CycleSlot
  free    : Nat
  /-- What the package meets (the model's own; log 91). -/
  around  : Surroundings
  /-- The configuration record in force (R4, R456). -/
  config  : Config.Record
  boot    : Boot
  /-- Power rails off (R454), the hold of a cap below the floor with HALT (R453), and the thermal hold (R454). -/
  railsOff : Bool
  halted  : Bool
  hot     : Bool
  /-- Stacks that reached 105 °C and have not come below 90 °C since (R454). -/
  hotStacks : List Nat
  cores   : Table Core
  mem     : Memory
  /-- Poisoned 16-byte sectors of the physical space (R435). -/
  poison  : List Nat
  /-- The L2 slices, keyed by quad: lines present, and fills in progress (R147, R288, R346). -/
  l2      : Table (List Nat)
  fills   : Table (List Nat)
  /-- The core that owns a line in its L1 for an atomic, by line; an L1 holds every other line under a read lease (R149, R288). -/
  owners  : Table Nat
  counters : Table Counter
  deliveries : List Delivery
  /-- Walk contexts, keyed 4 × stack + context (R342). -/
  walks   : Table Walk
  prefetches : List Prefetch
  solvers : Table Solver
  engines : Table Engine
  collectives : Table Collective
  parts   : Table Part
  migration : Migration
  /-- Error-queue registers (R442). -/
  eqbase  : Table Word
  /-- Records of the turn under way, or of one that an unfinished rollback of their partition precedes, which have still to
  enter their queues (R444, log 111). -/
  due     : List Due
  /-- Event totals of the physical function (R463). -/
  pfEvents : Table Nat
  /-- Totals of corrected and uncorrectable errors that scrubs found, as PLDM reads them (R455). -/
  ecc     : Nat × Nat
  /-- Newt's tallies toward a repair (R466): rollbacks for a detected error by core, corrected errors by DRAM row, and
  uncorrectable errors by channel. -/
  coreTally : Table Nat
  rowTally : Table Nat
  chanTally : Table Nat
  /-- Repairs of cores and channels under way, and the DRAM rows that spare rows stand in for (R466, R468 step 3). -/
  repairs : List Repair
  rowsOn  : List Nat
  power   : Table StackPower
  pkcap   : Word
  /-- GTC of the last write of PKCAP, and PAVG (R450, R451). -/
  capSince : Nat
  pavg    : Nat
  fscale  : Nat
  belowFloor : Bool
  throt   : Bool
  ports   : Table Port
  route   : Table Word
  /-- The port that ordered traffic to each fabric window took last (R427). -/
  onPort  : Table Nat
  inb     : Table Word
  /-- Committed HDM decoder bases (R416). -/
  hdm     : Table Nat
  /-- Lines that the host holds, oldest grant first (R420), and pool lines held, oldest fill first (R421). -/
  hostDir : List HostLine
  snoop   : List Nat
  /-- Traffic that has left the module, oldest first. -/
  sent    : List OutMsg
  deriving DecidableEq, Repr

/-- A zero register with tag RAW (R71). -/
def VReg.zero : VReg := { lanes := tab 64 (fun _ => 0), tag := 0 }

/-- A tile at node start: +0, tag F32, checksums 0 (R71). -/
def Tile.zero : Tile :=
  { rows := tab 64 (fun _ => tab 64 (fun _ => 0)), sums := tab 64 (fun _ => 0), tag := 7 }

/-- An empty plane, tag RAW (R50, R71). Its values, unreadable under RAW, are zero: DESIGN CHOICE (log 4). -/
def Plane.empty : Plane := { vals := tab 64 (fun _ => tab 64 (fun _ => 0)), tag := 0 }

/-- An unbound handle (R71). -/
def Handle.unbound : Handle :=
  { bound := false, record := List.replicate 128 0, main := [], alt := [] }

/-- An invalid palette (R71); its entries are zero, unreadable while invalid: DESIGN CHOICE (log 4). -/
def Palette.invalid : Palette := { entries := tab 256 (fun _ => 0), valid := false, checking := false }

/-- A strand with nothing to run. -/
def StrandSt.idle : StrandSt :=
  { pc := 0, secBase := 0, secLen := 0, cond := .ready, popped := none, woken := false, since := 0,
    frozen := false, skipBrk := none, pending := none }

/-- No node. -/
def Node.vacant : Node :=
  { phase := .idle, part := 0, launch := 0, stage := 0, itemOff := 0, slot := 0, attempt := 0, staged := [],
    stagedPoison := [], reserved := 0, items := [], points := [], pinned := false, gang := [], gangNo := 0, started := 0,
    trapper := .S, sSaved := StrandSt.idle, trap := Option.none, handler := false, saveAt := Option.none, pm := false,
    ending := Option.none, solving := Option.none, nextOp := 0 }

/-- Nothing done yet in the cycle. -/
def Now.none : Now := { popped := [], pushed := [], write := Option.none, issued := [], mPoison := false }

/-- A core after reset: registers at the values of R54 to R69 and R71, scratchpad and weight buffer zero
(R468 step 4), class 0 and its limit (R445). -/
def Core.reset : Core :=
  { x := tab 32 (fun _ => 0), v := tab 32 (fun _ => VReg.zero),
    k := tab 8 (fun i => if i = 0 then BitVec.allOnes 64 else 0),
    lat := tab 4 (fun _ => { val := VReg.zero, valid := false }),
    p := tab 16 (fun _ => 0), q := tab 16 (fun _ => 0),
    tiles := tab 8 (fun _ => Tile.zero), wtags := tab 4 (fun _ => 0),
    live := Plane.empty, shadow := Plane.empty, handles := tab 4 (fun _ => Handle.unbound),
    pals := tab 2 (fun _ => Palette.invalid), window := [], winPoison := [],
    tvec := 0, tcause := 0, tepc := 0, tval := 0, psup := false, sup := false,
    twin := 0x0000FFFFFFFFFFFF, tk := tab 12 (fun _ => 0), bands := 1,
    lsc := 0x00000000000F0000, srseed := 0, ovf := false, psnv := false, psns := 0, psna := 0,
    req := 0, grant := 0, pend := false, lslt := tab 16 (fun _ => 0), brka := tab 4 (fun _ => 0), brkc := 0,
    strands := tab 4 (fun _ => StrandSt.idle), loops := [], chain := [], mq := [], cout := [],
    charges := [], limit := 80000, l1 := [], now := Now.none, node := Node.vacant, last := Option.none, spared := false }

/-- A counter of the share before it is armed: all fields 0 (R329). -/
def Counter.reset : Counter :=
  { vbase := 0, vlen := 0, total := 0, count := 0, phase := 0, armed := false, ovfl := false, part := 0,
    action := 0, arg := 0, fires := 0, item := List.replicate 64 0, waiting := [], lines := [], late := [] }

/-- A FREE walk context (R342). -/
def Walk.reset : Walk :=
  { state := .free, part := 0, launch := 0, desc := [], cursor := 0, points := [], revisit := [], forced := [] }

/-- An idle solve controller (R395). -/
def Solver.reset : Solver :=
  { phase := .idle, addr := 0, head := [], canvas := Handle.unbound, desc := [], core := 0, part := 0, launch := 0, gtcAcc := 0, known := false,
    tmv := 0, bn := 0, rn := 0, bestBuf := false, bestRn := 0, bestIter := 0, curBest := true, iter := 0,
    rho := 0, alpha := 0, om := 0, status := 0, pivCnt := 0, pivFirst := none, replaced := [],
    verified := false, trueres := 0, x0 := [], tries := [], ran := [], walk := Walk.reset }

/-- An engine with an empty queue. -/
def Engine.reset : Engine := { queue := [], moved := [], round := [] }

/-- A collective engine that holds nothing. -/
def Collective.reset : Collective := { buffer := [] }

/-- An invalid range entry (R379: reset 0). -/
def RangeEntry.reset : RangeEntry := { w0 := 0, w1 := 0, w2 := 0, w3 := 0 }

/-- Telemetry registers at reset (R459): TRCTL.LOGN 10, the rest 0. -/
def Telemetry.reset : Telemetry :=
  { trctl := 10, sampctl := 0, evmask := 0, cdump := 0, snapctl := 0, matched := false, snaplost := 0, snapbuf := 0,
    evsel := [], pmc := [], snap := none, dumped := 0, sampled := [] }

/-- A partition's control block at reset (R377, R382, R384). -/
def Part.reset : Part :=
  { shadow := [], active := [], rtRefused := false, rtReason := 0, rtEntry := 0,
    going := false, savedN := 0, discardedN := 0,
    saveBase := 0, saveCnt := 0, tvecp := 0, brka := tab 4 (fun _ => 0), brkc := 0, holds := [], saved := [],
    launches := [], queues := [], launchQ := [], gangHolds := [], tel := Telemetry.reset }

/-- A port whose link is down (R424: reset 0, PARB 4, 2, 2). -/
def Port.reset : Port :=
  { up := false, chg := false, width := 0, maxw := 0, fallbk := false, ide := false, reqw := 0, coll := 4,
    copy := 2, host := 2, ordq := [], stalled := [], acked := 0 }

/-- A stack without an allotment (R470): no partition has a core in it. -/
def StackPower.reset : StackPower := { allot := 0, queue := [], aside := [], arrivals := 0, steps := 0, stepped := none }

/-- The two flash banks at reset: one firmware, the default record, signatures that verify. DESIGN CHOICE
(log 2). -/
def FlashImage.reset : FlashImage :=
  { firmware := 0, fwSigOk := true, record := Config.Record.default, recSigOk := true }

/-- Newt at reset: bank A active (DESIGN CHOICE, log 2), nothing booted (R457, R468). -/
def Boot.reset : Boot :=
  { active := false, next := false, bankA := FlashImage.reset, bankB := FlashImage.reset, booted := false,
    failed := false, ready := false }

/-- The machine right after reset: no node, no launch, nothing booted; every register at its reset value.
The allotment of stack 0 is what R470 derives for the record of log 2: P = 1,510 W, all of it in stack 0. -/
def State.reset : State :=
  { cycle := 0, gtcBase := 0, agenda := [], focus := 0, round := .S, core := 0, late := false, slot := .fresh, free := 0,
    around := { ends := [], flaw := none, asks := [] },
    config := Config.Record.default, boot := Boot.reset, railsOff := false, halted := false, hot := false, hotStacks := [], cores := [],
    mem := [], poison := [], l2 := [], fills := [], owners := [], counters := [], deliveries := [], walks := [], prefetches := [],
    solvers := [], engines := [], collectives := [], parts := [],
    migration := { st := .idle, src := 0, dst := 0, sparing := none, redirects := [], queue := [], stalled := [] }, eqbase := [], due := [], pfEvents := [], ecc := (0, 0), coreTally := [], rowTally := [], chanTally := [], repairs := [], rowsOn := [],
    power := [(0, { StackPower.reset with allot := 1510000 })], pkcap := 1700, capSince := 0, pavg := 0, fscale := 100, belowFloor := false, throt := false, ports := [], route := [], onPort := [],
    inb := [], hdm := [], hostDir := [], snoop := [], sent := [] }

end Sys2Proof.Machine
end

