-- ==== Sys2Proof/Machine/Memory.lean ====
section
/-! DEFINITION. Memory as cells in one canonical form, sectors and poison marks (R9, R257, R297, R435). -/

namespace Sys2Proof.Machine

/-- The byte at an address; an unlisted address reads 0. -/
def Memory.read : Memory → Nat → Byte
  | [], _ => 0
  | (a, b) :: t, k => if a = k then b else Memory.read t k

/-- A cell put before the first cell of a higher address. -/
def Memory.insert : Memory → Nat → Byte → Memory
  | [], k, b => [(k, b)]
  | (a, x) :: t, k, b => if k < a then (k, b) :: (a, x) :: t else (a, x) :: Memory.insert t k b

/-- The memory with one byte written; a zero byte is not listed. -/
def Memory.write (m : Memory) (k : Nat) (b : Byte) : Memory :=
  let r := m.filter (fun c => c.1 != k)
  if b = 0 then r else Memory.insert r k b

/-- The canonical form: addresses strictly rising, no zero byte listed. -/
def Memory.wf : Memory → Bool
  | [] => true
  | (_, b) :: [] => b != 0
  | (a, b) :: (c, d) :: t => decide (a < c) && b != 0 && Memory.wf ((c, d) :: t)

/-- n bytes from an address on. -/
def Memory.readBytes (m : Memory) (a n : Nat) : List Byte := (List.range n).map (fun i => m.read (a + i))

/-- Bytes written from an address on. -/
def Memory.writeBytes : Memory → Nat → List Byte → Memory
  | m, _, [] => m
  | m, a, b :: t => Memory.writeBytes (m.write a b) (a + 1) t

/-- Bytes written under a mask: an absent byte is kept. -/
def Memory.writeMasked : Memory → Nat → List (Option Byte) → Memory
  | m, _, [] => m
  | m, a, none :: t => Memory.writeMasked m (a + 1) t
  | m, a, some b :: t => Memory.writeMasked (m.write a b) (a + 1) t

/-- A little-endian number of n bytes. -/
def Memory.readNat (m : Memory) (a n : Nat) : Nat := leNat (m.readBytes a n)

/-- Every listed byte of an address range dropped, so that it reads 0. -/
def Memory.clear (m : Memory) (lo hi : Nat) : Memory := m.filter (fun c => c.1 < lo || hi ≤ c.1)

/-- The 16-byte sectors that n bytes from a touch (R7). -/
def sectorsOf (a n : Nat) : List Nat :=
  if n = 0 then [] else (List.range ((a + n - 1) / 16 - a / 16 + 1)).map (fun i => a / 16 + i)

/-- The 128-byte lines that n bytes from a touch (R7). -/
def linesOf (a n : Nat) : List Nat :=
  if n = 0 then [] else (List.range ((a + n - 1) / 128 - a / 128 + 1)).map (fun i => a / 128 + i)

/-- Does a write of the bytes a to a + n - 1 cover a whole sector? Such a write clears its mark (R435). -/
def coversSector (a n sec : Nat) : Bool := decide (a ≤ 16 * sec) && decide (16 * sec + 16 ≤ a + n)

/-- The poison marks after a write of n bytes from a (R435). -/
def clearMarks (marks : List Nat) (a n : Nat) : List Nat := marks.filter (fun s => !coversSector a n s)

/-- The sectors of which a masked write from a brings some byte. -/
def sectorsMet (a : Nat) (bytes : List (Option Byte)) : List Nat :=
  (sectorsOf a bytes.length).filter (fun s => ((bytes.take (16 * s + 16 - a)).drop (16 * s - a)).any Option.isSome)

/-- The poison marks after a masked write from a: a partial mask leaves a sector's mark as it is (R435). -/
def clearMasked (marks : List Nat) (a : Nat) (bytes : List (Option Byte)) : List Nat :=
  marks.filter (fun s => !(coversSector a bytes.length s && ((bytes.drop (16 * s - a)).take 16).all Option.isSome))

/-- The first poisoned byte of a read of n bytes from a: the byte address where a marked sector meets it. -/
def firstPoison (marks : List Nat) (a n : Nat) : Option Nat :=
  (List.range n).find? (fun i => marks.contains ((a + i) / 16)) |>.map (a + ·)

end Sys2Proof.Machine
end

