-- ==== Sys2Proof/Machine/Access.lean ====
section
/-! DEFINITION. Reading and changing the parts of the state: cores, strands, registers, partitions, time, tokens
and the configuration (spec/00, spec/02). -/

namespace Sys2Proof.Machine

/-- The state of core c. -/
def State.coreAt (s : State) (c : Nat) : Core := s.cores.get c Core.reset

/-- The state with core c replaced. -/
def State.setCore (s : State) (c : Nat) (k : Core) : State := { s with cores := s.cores.set c k }

/-- The core whose instruction issues now. -/
def State.me (s : State) : Core := s.coreAt s.core

/-- The state with that core replaced. -/
def State.setMe (s : State) (k : Core) : State := s.setCore s.core k

/-- That core changed by a function. -/
def State.updMe (s : State) (f : Core → Core) : State := s.setMe (f s.me)

/-- Core c changed by a function. -/
def State.updCore (s : State) (c : Nat) (f : Core → Core) : State := s.setCore c (f (s.coreAt c))

/-- Partition p. -/
def State.part (s : State) (p : Nat) : Part := s.parts.get p Part.reset

/-- Partition p replaced. -/
def State.setPart (s : State) (p : Nat) (v : Part) : State := { s with parts := s.parts.set p v }

/-- Partition p changed by a function. -/
def State.updPart (s : State) (p : Nat) (f : Part → Part) : State := s.setPart p (f (s.part p))

/-- Nanoseconds of a number of cycles at 850 MHz (R5, R6). -/
def nsOf (cycles : Nat) : Nat := cycles * 20 / 17

/-- The global time counter in ns (R6). -/
def State.gtc (s : State) : Nat := s.gtcBase + nsOf s.cycle

/-- The n-th free value, and the state that has used it (log 6). -/
def State.freeVal (s : State) : BitVec 64 := Config.freeValue s.free

/-- A free value is used up (log 6). -/
def State.useFree (s : State) : State := { s with free := s.free + 1 }

/-- Is core c present (R2)? -/
def State.present (s : State) (c : Nat) : Bool :=
  decide (c < 640) && decide (c / 4 % 10 < Config.quadsPerStack s.config.variant)

/-- Quads of partition p in the configuration record (R376). -/
def State.quadsOf (s : State) (p : Nat) : List Nat :=
  match s.config.parts.find? (fun e => e.1 == p) with
  | some e => e.2.quads
  | none => []

/-- Does partition p own core c's quad (R376)? -/
def State.owns (s : State) (p c : Nat) : Bool := (s.quadsOf p).contains (c / 4)

/-- Cores of partition p, ascending (R376). -/
def State.coresOf (s : State) (p : Nat) : List Nat :=
  (List.range 640).filter (fun c => s.owns p c && s.present c)

/-- The partition that owns core c, if any (R376, R456). -/
def State.partOf (s : State) (c : Nat) : Option Nat :=
  (s.config.parts.find? (fun e => e.2.quads.contains (c / 4))).map (·.1)

/-- The counter quota of partition p (R328). -/
def State.quotaOf (s : State) (p : Nat) : Nat :=
  match s.config.parts.find? (fun e => e.1 == p) with
  | some e => e.2.quota
  | none => 0

/-- Home agent of a counter (R327). -/
def homeOf (ctr : Nat) : Nat := ctr / 64

/-- Is a counter in the share of partition p (R328)? -/
def State.inShare (s : State) (p ctr : Nat) : Bool :=
  s.owns p (homeOf ctr) && decide (ctr % 64 < s.quotaOf p)

/-- Counter ctr. -/
def State.counter (s : State) (ctr : Nat) : Counter := s.counters.get ctr Counter.reset

/-- Counter ctr replaced. -/
def State.setCounter (s : State) (ctr : Nat) (k : Counter) : State :=
  { s with counters := s.counters.set ctr k }

/-- Has a counter at phase a reached phase p (R152)? -/
def reached (a p : Nat) : Bool := decide ((a + 2 ^ 32 - p % 2 ^ 32) % 2 ^ 32 < 2 ^ 31)

/-- UCAP (R3). -/
def State.ucap (s : State) : Word :=
  let v := s.config.variant
  BitVec.ofNat 64 (Config.variantCode v * 2 ^ 40 + Config.coreCount v * 2 ^ 30 + Config.solverCount v * 2 ^ 25
    + Config.fabricPorts v * 2 ^ 21 + Config.collectiveCount v * 2 ^ 17 + (2 ^ Config.quadsPerStack v - 1))

/-- COREID of the issuing core (R56); a core of no partition reads PART 0. -/
def State.coreid (s : State) : Word :=
  BitVec.ofNat 64 ((s.partOf s.core).getD 0 * 2 ^ 22 + s.core / 40 * 2 ^ 18 + s.core / 4 * 2 ^ 10 + s.core)

namespace Core

/-- Scalar register r; x0 reads 0 (R41). -/
def getX (k : Core) (r : BitVec 5) : Word := if r = 0 then 0 else vget k.x r.toNat 0

/-- Scalar register r written; a write of x0 is discarded (R41, R129). -/
def setX (k : Core) (r : BitVec 5) (w : Word) : Core :=
  if r = 0 then k else { k with x := vset k.x r.toNat w }

/-- Mask register r; k0 reads all ones (R43). -/
def getK (k : Core) (r : BitVec 3) : Word := if r = 0 then BitVec.allOnes 64 else vget k.k r.toNat 0

/-- Mask register r written (R43: k0 is never a destination). -/
def setK (k : Core) (r : BitVec 3) (w : Word) : Core :=
  if r = 0 then k else { k with k := vset k.k r.toNat w }

/-- Vector register r. -/
def getV (k : Core) (r : BitVec 5) : VReg := vget k.v r.toNat VReg.zero

/-- Vector register r written with its tag (R42). -/
def setV (k : Core) (r : BitVec 5) (w : VReg) : Core := { k with v := vset k.v r.toNat w }

/-- Parameter register p r (R46). -/
def getP (k : Core) (r : BitVec 4) : Lane := vget k.p r.toNat 0

/-- Parameter register p r written. -/
def setP (k : Core) (r : BitVec 4) (w : Lane) : Core := { k with p := vset k.p r.toNat w }

/-- Parameter register q r (R46). -/
def getQ (k : Core) (r : BitVec 4) : Lane := vget k.q r.toNat 0

/-- Parameter register q r written. -/
def setQ (k : Core) (r : BitVec 4) (w : Lane) : Core := { k with q := vset k.q r.toNat w }

/-- Accumulator tile t. -/
def getTile (k : Core) (t : BitVec 3) : Tile := vget k.tiles t.toNat Tile.zero

/-- Accumulator tile t replaced. -/
def setTile (k : Core) (t : BitVec 3) (v : Tile) : Core := { k with tiles := vset k.tiles t.toNat v }

/-- Handle h (R51). -/
def getH (k : Core) (h : BitVec 2) : Handle := vget k.handles h.toNat Handle.unbound

/-- Palette n (R52). -/
def getPal (k : Core) (n : Nat) : Palette := vget k.pals n Palette.invalid

/-- The strand st of the core. -/
def strand (k : Core) (st : Strand) : StrandSt := vget k.strands st.num StrandSt.idle

/-- Strand st replaced. -/
def setStrand (k : Core) (st : Strand) (v : StrandSt) : Core := { k with strands := vset k.strands st.num v }

/-- Strand st changed by a function. -/
def updStrand (k : Core) (st : Strand) (f : StrandSt → StrandSt) : Core := k.setStrand st (f (k.strand st))

/-- Tokens in FIFO n (R65). -/
def tokens (k : Core) (n : Nat) : Nat := vget k.tk n 0

/-- FIFO n set to a count. -/
def setTokens (k : Core) (n c : Nat) : Core := { k with tk := vset k.tk n c }

/-- The window of FIFO n: WINn + 1 (R66). -/
def windowOf (k : Core) (n : Nat) : Nat := field k.twin.toNat (4 * n) 4 + 1

/-- The valid bits of the four latches cleared (R44). -/
def dropLatches (k : Core) : Core := { k with lat := vmap k.lat (fun l => { l with valid := false }) }

/-- All four latches cleared, and what led to them forgotten (R44, R279). -/
def clearLatches (k : Core) : Core := { k.dropLatches with chain := [] }

/-- Does the core run or hold a node? -/
def busy (k : Core) : Bool := k.node.phase != .idle

/-- PCLS (R64). -/
def pcls (k : Core) : Word :=
  BitVec.ofNat 64 (b2n k.pend * 64 + k.req.toNat * 8 + k.grant.toNat)

/-- How often FIFO n has been popped in the cycle under way. -/
def pops (k : Core) (n : Nat) : Nat := (k.now.popped.filter (· == n)).length

/-- How often FIFO n has been pushed in the cycle under way. -/
def pushes (k : Core) (n : Nat) : Nat := (k.now.pushed.filter (· == n)).length

/-- Does FIFO n hold a token that the start of the cycle's count gives (R67)? -/
def canPop (k : Core) (n : Nat) : Bool := decide (k.pushes n < k.tokens n)

/-- Is FIFO n, by its count at the start of the cycle, below its window (R66, R67)? -/
def canPush (k : Core) (n : Nat) : Bool := decide (k.tokens n + k.pops n < k.windowOf n)

/-- A token popped from FIFO n in the cycle under way (R67). -/
def popFrom (k : Core) (n : Nat) : Core :=
  { k.setTokens n (k.tokens n - 1) with now := { k.now with popped := n :: k.now.popped } }

/-- A token pushed into FIFO n in the cycle under way (R67). -/
def pushInto (k : Core) (n : Nat) : Core :=
  { k.setTokens n (k.tokens n + 1) with now := { k.now with pushed := n :: k.now.pushed } }

/-- A token put back at the head of FIFO n (R128); one that was popped in the cycle under way was never gone. -/
def putBack (k : Core) (n : Nat) : Core :=
  { k.setTokens n (k.tokens n + 1) with now := { k.now with popped := k.now.popped.erase n } }

/-- TKCNT (R66): the counts at the start of the cycle (R67). -/
def tkcnt (k : Core) : Word :=
  BitVec.ofNat 64 ((List.range 12).foldl (fun a n => a + (k.tokens n + k.pops n - k.pushes n) % 32 * 2 ^ (5 * n)) 0)

/-- VSTAT (R61). -/
def vstat (k : Core) : Word :=
  BitVec.ofNat 64 (k.psns.toNat * 16 + b2n k.psnv * 8 + b2n (k.getPal 1).valid * 4 + b2n (k.getPal 0).valid * 2
    + b2n k.ovf)

/-- TSTAT (R58). -/
def tstat (k : Core) : Word := BitVec.ofNat 64 (b2n k.psup * 2 + b2n k.sup)

/-- NODE (R57). -/
def nodeReg (k : Core) : Word :=
  BitVec.ofNat 64 (k.node.launch * 2 ^ 48 + k.node.stage * 2 ^ 40 + k.node.itemOff)

/-- The poison register written by a load that met poison (R27, R61). -/
def setPoison (k : Core) (space : BitVec 2) (addr : Nat) : Core :=
  { k with psna := BitVec.ofNat 64 addr, psns := space, psnv := true }

/-- The poison register as a strand writes it (R27, R176): of several strands' writes in one cycle that of the strand latest in
the order S, V, M, C stays. -/
def notePoison (k : Core) (st : Strand) (space : BitVec 2) (addr : Nat) : Core :=
  match st with
  | .S | .V => if k.now.mPoison then k else k.setPoison space addr
  | .M => { k.setPoison space addr with now := { k.now with mPoison := true } }
  | .C => k.setPoison space addr

end Core

/-- The FIFO that a push code of a strand names (R65). -/
def pushFifo (st : Strand) (code : BitVec 2) : Nat := 3 * st.num + code.toNat - 1

/-- The FIFO that a pop code of a strand names (R65). -/
def popFifo (st : Strand) (code : BitVec 2) : Nat := 3 * ((st.num + code.toNat) % 4) + 3 - code.toNat

/-- Energy budget of a power class in pJ (R445). -/
def budget (c : Nat) : Nat :=
  match c with
  | 0 => 80000 | 1 => 300000 | 2 => 500000 | 3 => 750000 | 4 => 1000000 | 5 => 1400000 | 6 => 1800000
  | _ => 2300000

/-- Bands that a power class admits, as a mask (R445). -/
def bandsAdmitted (c : Nat) : BitVec 4 :=
  match c with
  | 0 | 1 => 0b0001 | 2 | 3 => 0b0011 | 4 | 5 => 0b0111 | _ => 0b1111

/-- The number of a core's unit for a gang kind. -/
def unitOf (kind : GangKind) (c : Nat) : Nat :=
  match kind with
  | .core => c
  | .quad => c / 4
  | .stack => c / 40

/-- All core numbers that hold state. -/
def State.coreKeys (s : State) : List Nat := s.cores.map (·.1)

/-- Cores of partition p that run a node. -/
def State.busyCores (s : State) (p : Nat) : List Nat :=
  s.coreKeys.filter (fun c => (s.coreAt c).busy && (s.coreAt c).node.part == p)

end Sys2Proof.Machine
end

