-- ==== Sys2Proof/Machine/Telemetry.lean ====
section
/-! DEFINITION. Event counts, strand conditions and snapshots (R462 to R465), and the passing of cycles. -/

namespace Sys2Proof.Machine

/-- Is an instruction one that waits for a walker or a solve controller (R462 code 13)? -/
def unitWait : Instr → Bool
  | .wopen _ _ _ | .wnext _ _ _ | .solve _ _ _ => true
  | _ => false

/-- Does a strand stand before an instruction that has not issued? -/
def Cond.unissued : Cond → Bool
  | .popStall _ | .queueFull | .power | .fence => true
  | _ => false

/-- The condition code of a strand of core c at a cycle (R462): the first row that applies, issuing before any other. A strand that is free to
issue and does not shows one of the reasons that the model does not time, codes 3, 4, 5 and 15 (a free value, log 6). -/
def State.condCode (s : State) (cycle c : Nat) (issued : Bool) (st : Strand) : Nat :=
  let k := s.coreAt c
  let t := k.strand st
  if issued && !t.cond.unissued then 0
  else match t.cond with
  | .popStall _ => 1
  | .pushHold _ _ _ => 2
  | .memory i => if unitWait i then 13 else 6
  | .queueFull => if st = .M then 7 else 8
  | .counter _ _ _ => 9
  | .pacq => 10
  | .power => 11
  | .ended => if t.frozen then 12 else 14
  | .ending => if t.frozen then 12 else 8
  | .fence => if t.frozen then 12 else match st with | .S => 6 | .V => 3 | .M => 7 | .C => 8
  | .ready =>
    if t.frozen ∨ k.node.phase = .handler then 12
    else [3, 4, 5, 15].getD (Config.idleReason cycle c st.num % 4) 3

/-- The condition code of a strand in the cycle under way. -/
def State.condNow (s : State) (c : Nat) (st : Strand) : Nat :=
  s.condCode s.cycle c ((s.coreAt c).now.issued.contains st) st

/-- Stacks that hold a core of partition p. -/
def State.stacksOf (s : State) (p : Nat) : List Nat :=
  (List.range 16).filter (fun k => (s.coresOf p).any (fun c => c / 40 == k))

/-- The core record of a snapshot (R465). -/
def State.snapCore (s : State) (c : Nat) : List Byte :=
  let k := s.coreAt c
  let run := k.busy
  leBytes 2 c ++ leBytes 2 k.node.launch ++ leBytes 1 k.node.stage
    ++ leBytes 1 (b2n run + 2 * b2n (k.node.phase == .handler)) ++ leBytes 2 0
    ++ [Strand.S, .V, .M, .C].flatMap (fun st => leBytes 8 (k.strand st).pc.toNat)
    ++ [Strand.S, .V, .M, .C].flatMap (fun st => leBytes 1 (s.condNow c st))
    ++ leBytes 4 k.pcls.toNat ++ leBytes 8 k.tkcnt.toNat ++ leBytes 8 k.node.started

/-- The engine record of a snapshot (R465). -/
def State.snapEngine (s : State) (p e : Nat) : List Byte :=
  let g := s.engines.get e Engine.reset
  let own := g.queue.filter (fun c => c.part == p)
  let ex := own.filter (fun c => c.state == .executing)
  let first := ex.head?
  leBytes 2 e ++ leBytes 1 (own.length - ex.length) ++ leBytes 1 ex.length ++ leBytes 4 0 ++ leBytes 8 (g.moved.get p 0)
    ++ leBytes 8 ((first.map (fun c => c.src.toNat)).getD 0)
    ++ leBytes 8 ((first.map (fun c => c.dst.toNat)).getD 0)

/-- The home stack of the queues of partition p: the most cores, the lowest number on a tie (R364). -/
def State.queueHome (s : State) (p : Nat) : Nat :=
  let n (k : Nat) := ((s.coresOf p).filter (fun c => c / 40 == k)).length
  (List.range 16).foldl (fun best k => if n best < n k then k else best) 0

/-- Is core c in a unit that a gang stage of the partition holds (R369)? -/
def Part.holdsCore (v : Part) (c : Nat) : Bool :=
  v.gangHolds.any (fun h =>
    let kind := (((v.launches.find h.2.1).bind (fun l => l.stages[h.2.2]?)).map (·.kind)).getD .core
    unitOf kind c == unitOf kind h.1)

/-- Slots of a partition's queues in one condition. -/
def Part.slotCount (v : Part) (st : SlotSt) : Nat :=
  (v.queues.map (fun q => (q.2.slots.filter (fun sl => sl.st == st)).length)).sum

/-- The allocator record of a snapshot (R465). -/
def State.snapAlloc (s : State) (p k : Nat) : List Byte :=
  let v := s.part p
  let here := s.queueHome p == k
  let cnt (st : SlotSt) := if here then v.slotCount st else 0
  leBytes 2 k ++ leBytes 2 ((s.busyCores p).filter (fun c => c / 40 == k)).length
    ++ leBytes 2 v.saved.length ++ leBytes 2 ((s.coresOf p).filter (fun c => c / 40 == k && v.holdsCore c)).length
    ++ leBytes 4 (cnt .ready) ++ leBytes 4 (cnt .reserved) ++ leBytes 4 (cnt .taken)
    ++ leBytes 4 v.launchQ.length ++ leBytes 8 0

/-- The registers that a snapshot of partition p latches, in the order of R465, padded to 44,608 bytes. -/
def State.snapBytes (s : State) (p source core : Nat) : List Byte :=
  let cs := s.coresOf p
  let ss := s.stacksOf p
  let es := ss.flatMap (fun k => (List.range 6).map (fun i => 6 * k + i))
  let head := leBytes 8 s.gtc ++ leBytes 1 source ++ leBytes 1 0 ++ leBytes 2 core ++ leBytes 2 cs.length
    ++ leBytes 2 es.length ++ leBytes 2 ss.length
  padTo 44608 (padTo 64 head ++ cs.flatMap s.snapCore ++ es.flatMap (s.snapEngine p)
    ++ ss.flatMap (s.snapAlloc p))

/-- A snapshot trigger of partition p (R464): latched, or dropped and counted while one is held. -/
def State.snapTrigger (s : State) (p source core : Nat) : State :=
  let v := s.part p
  match v.tel.snap with
  | some _ => s.setPart p { v with tel := { v.tel with snaplost := v.tel.snaplost + 1 } }
  | none => s.setPart p { v with tel := { v.tel with snap := some { bytes := s.snapBytes p source core, written := false } } }

/-- n counts of event number ev in partition p (R463): every counter that selects it, and the match of
SNAPCTL, whose first one triggers a snapshot (R464). -/
def State.countN (s : State) (p ev n : Nat) : State :=
  if n = 0 then s
  else
    let v := s.part p
    let pmc := v.tel.evsel.foldl (fun t e => if e.2 = ev then t.set e.1 ((t.get e.1 0 + n) % 2 ^ 64) else t) v.tel.pmc
    let s1 := if v.tel.evsel = [] then s else s.setPart p { v with tel := { v.tel with pmc := pmc } }
    if bitOf v.tel.snapctl.toNat 63 && field v.tel.snapctl.toNat 0 16 == ev && !v.tel.matched then
      (s1.updPart p (fun v => { v with tel := { v.tel with matched := true } })).snapTrigger p 2 0xFFFF
    else s1

/-- One count of an event (R463). -/
def State.count (s : State) (p ev : Nat) : State := s.countN p ev 1

/-- One count in the physical function's totals (R463). -/
def State.countPF (s : State) (ev : Nat) : State :=
  { s with pfEvents := s.pfEvents.set ev ((s.pfEvents.get ev 0 + 1) % 2 ^ 64) }

/-- The cycle that lies i cycles after the present one counted for a partition's nodes and their strands' conditions
(R463): what has issued in the cycle under way issued in it alone. -/
def State.countCycle (s : State) (p cycle i : Nat) : State :=
  let run := s.busyCores p
  let codes := run.flatMap (fun c => [Strand.S, .V, .M, .C].map (fun st =>
    s.condCode (cycle + i) c (i == 0 && (s.coreAt c).now.issued.contains st) st))
  (List.range 16).foldl (fun a code => a.countN p (0x20 + code) (codes.filter (· == code)).length)
    (s.countN p 1 run.length)

/-- Cycles of a partition's nodes and strand conditions counted while n cycles pass (R463). -/
def State.countCycles (s : State) (p n : Nat) : State :=
  (List.range n).foldl (fun a i => a.countCycle p s.cycle i) s

/-- n cycles pass (R5): time moves, and each partition with a selected event counts them. -/
def State.tick (s : State) (n : Nat) : State :=
  let s1 := { s with cycle := s.cycle + n }
  if n = 0 then s1
  else s.parts.foldl (fun a e =>
    if e.2.tel.evsel = [] ∧ bitOf e.2.tel.snapctl.toNat 63 = false then a else a.countCycles e.1 n) s1

end Sys2Proof.Machine
end

