-- ==== Sys2Proof/Machine/Space.lean ====
section
/-! DEFINITION. Translation through the range table, the classes of address, reads as a node sees them, and
writes that become visible at a home (R140, R290, R295, R333, R378 to R383, R417, R435). -/

namespace Sys2Proof.Machine

namespace RangeEntry

/-- VALID. -/
def valid (e : RangeEntry) : Bool := bitOf e.w1.toNat 63
/-- LOGSZ. -/
def logsz (e : RangeEntry) : Nat := field e.w1.toNat 50 6
/-- CHAN. -/
def chan (e : RangeEntry) : Nat := field e.w1.toNat 40 10
/-- WIN. -/
def win (e : RangeEntry) : Bool := bitOf e.w1.toNat 8
/-- Permission R. -/
def r (e : RangeEntry) : Bool := bitOf e.w1.toNat 7
/-- Permission W. -/
def w (e : RangeEntry) : Bool := bitOf e.w1.toNat 6
/-- Permission X. -/
def x (e : RangeEntry) : Bool := bitOf e.w1.toNat 5
/-- DIRECT. -/
def direct (e : RangeEntry) : Bool := bitOf e.w1.toNat 4
/-- ILV. -/
def ilv (e : RangeEntry) : Nat := field e.w1.toNat 2 2
/-- HOME: 0 device, 1 host, 2 pool, 3 peer. -/
def home (e : RangeEntry) : Nat := field e.w1.toNat 0 2
/-- First virtual address. -/
def base (e : RangeEntry) : Nat := e.w0.toNat
/-- Does the entry map a virtual address (R380)? -/
def maps (e : RangeEntry) (a : Nat) : Bool :=
  e.valid && decide (e.base ≤ a) && decide (a < e.base + 2 ^ e.logsz)
/-- Does it map device DRAM (R379)? -/
def dram (e : RangeEntry) : Bool := e.home == 0 && !e.win

end RangeEntry

/-- The channels that an entry interleaves over, for partition p (R380). -/
def State.channelSet (s : State) (p : Nat) (e : RangeEntry) : List Nat :=
  match e.ilv with
  | 0 => [e.chan]
  | 1 => [e.chan, e.chan + 1, e.chan + 2, e.chan + 3]
  | 2 => (List.range 640).filter (fun c => c / 40 == e.chan / 40 && s.present c)
  | _ => s.coresOf p

/-- The physical address behind offset o of an entry (R380). -/
def State.physAt (s : State) (p : Nat) (e : RangeEntry) (o : Nat) : Nat :=
  if e.home ≠ 0 ∨ e.win then e.w2.toNat + o
  else
    let set := s.channelSet p e
    let n := o / 4096
    (set.getD (n % set.length) 0) * 2 ^ 29 + e.w2.toNat + n / set.length * 4096 + o % 4096

/-- A migrated page is reached at its new place (R383). -/
def State.redirect (s : State) (pa : Nat) : Nat :=
  match s.migration.redirects.find? (fun r => r.1 == pa / 65536) with
  | some r => r.2 * 65536 + pa % 65536
  | none => pa

/-- The address that reaches a byte of device memory: its own, that of the page which a redirect has moved there, or none, for a
byte of a page that a redirect has left (R383). -/
def State.origin (s : State) (pa : Nat) : Option Nat :=
  match s.migration.redirects.find? (fun r => r.2 == pa / 65536) with
  | some r => some (r.1 * 65536 + pa % 65536)
  | none => if s.migration.redirects.any (fun r => r.1 == pa / 65536) then none else some pa

/-- Is the page of a physical address blocked by a migration (R383)? The source until the redirect, and then the
destination until the queue has been replayed there. -/
def State.blocked (s : State) (pa : Nat) : Bool :=
  match s.migration.st with
  | .blocked | .copying => pa / 65536 == s.migration.src
  | .replay => pa / 65536 == s.migration.dst
  | _ => false

/-- Where an address leads: a core's own scratchpad (R140), device DRAM, an on-chip window (core, offset), or
host, pool or peer memory. -/
inductive Place where
  | scratch (off : Nat)
  | dram (pa : Nat)
  | window (core off : Nat)
  | host (pa : Nat)
  | pool (pa : Nat)
  | peer (pa : Nat)
  deriving DecidableEq, Repr

/-- First address of the scratchpad alias (R140). -/
def aliasBase : Nat := 0xFFFFFFFFFFF80000

/-- The active entry of partition p that maps a virtual address (R380). -/
def State.entryOf (s : State) (p a : Nat) : Option RangeEntry :=
  ((s.part p).active.find? (fun e => e.2.maps a)).map (·.2)

/-- The place behind a virtual address through an entry. -/
def State.placeOf (s : State) (p : Nat) (e : RangeEntry) (a : Nat) : Place :=
  let pa := s.physAt p e (a - e.base)
  if e.win then .window ((pa - 0xF000000000) / 0x100000) (pa % 0x100000)
  else match e.home with
    | 0 => .dram (s.redirect pa)
    | 1 => .host pa
    | 2 => .pool pa
    | _ => .peer pa

/-- The fabric window of a physical address of pooled or peer memory (R417). -/
def fabricWindow (pa : Nat) : Nat := field pa 40 8 - 0x10

/-- The route register of a fabric window. -/
def State.routeOf (s : State) (w : Nat) : Word := s.route.get w 0

/-- The port that a message leaves by; the side-band controller's use none. -/
def OutMsg.port? : OutMsg → Option Nat
  | .msix _ | .hostWrite _ _ | .hostRead _ _ | .recall _ => some 0
  | .fabricWrite n _ _ _ | .fabricRead n _ _ _ | .ownership n _ _ _ | .collective n _ | .completion n _ _ | .completerAbort n => some n
  | .pldm _ _ | .spdm _ _ => none

/-- A port's retry buffer: what has left by it and its partner has not acknowledged, oldest first (R426, R427). -/
def State.retryOf (s : State) (n : Nat) : List OutMsg :=
  (s.sent.filter (fun m => m.port? == some n)).drop (s.ports.get n Port.reset).acked

/-- Does a port whose link is up still hold traffic in its queues (R427)? -/
def State.portBusy (s : State) (n : Nat) : Bool :=
  let p := s.ports.get n Port.reset
  p.up && (p.ordq != [] || p.stalled != [] || s.retryOf n != [])

/-- The port that ordered traffic to a window takes: the lowest-numbered of its ports whose link is up (R417), but the one
that it took last until that port's queues are empty (R427). -/
def State.portOf (s : State) (w : Nat) : Option Nat :=
  if bitOf (s.routeOf w).toNat 63 then
    let low := (List.range 13).find? (fun n => decide (1 ≤ n) && bitOf (s.routeOf w).toNat n && (s.ports.get n Port.reset).up)
    match s.onPort.find w with
    | some n => if low ≠ some n ∧ s.portBusy n then some n else low
    | none => low
  else none

/-- The ports of a window whose links are up, ascending (R417). -/
def State.windowPorts (s : State) (w : Nat) : List Nat :=
  if bitOf (s.routeOf w).toNat 63 then
    (List.range 13).filter (fun n => decide (1 ≤ n) && bitOf (s.routeOf w).toNat n && (s.ports.get n Port.reset).up)
  else []

/-- The port that UIO traffic to a window takes (R417, R426): of those that are up, one whose width does not change where
there is one, the one with the fewest queued flits, and the lowest number on a tie. -/
def State.uioPort (s : State) (w : Nat) : Option Nat :=
  let up := s.windowPorts w
  let calm := up.filter (fun n => !(s.ports.get n Port.reset).chg)
  let flits (n : Nat) : Nat := (s.ports.get n Port.reset).ordq.length
  (if calm = [] then up else calm).foldl (fun b n => match b with
    | some m => if flits n < flits m then some n else some m
    | none => some n) none

/-- PBRID of a window's target (R417). -/
def State.pbridOf (s : State) (w : Nat) : Nat := field (s.routeOf w).toNat 36 12

/-- The quad in whose slice a line is cached for core c (R288, R421): that of its channel, or the core's own for a line of
pooled memory. Lines of host and peer memory are in no slice. -/
def sliceOf (c line : Nat) : Option Nat :=
  let pa := 128 * line
  if pa < 0x5000000000 then some (pa / 2 ^ 29 / 4) else if 0x100000000000 ≤ pa then some (c / 4) else none

/-- Is a line present in its home slice, as core c meets it (R147, R346)? -/
def State.inL2 (s : State) (c line : Nat) : Bool := ((sliceOf c line).map (fun q => (s.l2.get q []).contains line)).getD false

/-- Is a fill of a line toward its home slice in progress (R147)? -/
def State.filling (s : State) (c line : Nat) : Bool :=
  ((sliceOf c line).map (fun q => (s.fills.get q []).contains line)).getD false

/-- A fill asked for, of a line that is not present (R146, R347). -/
def State.askFill (s : State) (c line : Nat) : State :=
  match sliceOf c line with
  | some q => if s.inL2 c line then s else { s with fills := s.fills.set q (setInsert (s.fills.get q []) line) }
  | none => s

/-- Lines that an L2 slice of 2 MiB and an L1 of 64 KiB hold (R7, R288). -/
def sliceLines : Nat := 16384
/-- Lines of an L1. -/
def l1Lines : Nat := 512

/-- A line put into a cache's list, newest last; past its capacity the line put in longest ago goes. -/
def cachePut (cap : Nat) (l : List Nat) (x : Nat) : List Nat :=
  let l1 := setErase l x ++ [x]
  l1.drop (l1.length - cap)

/-- A line leaves every cache and the snoop filter (R421). -/
def State.dropLine (s : State) (line : Nat) : State :=
  { s with snoop := setErase s.snoop line, l2 := s.l2.mapVals (fun _ l => setErase l line), owners := s.owners.erase line,
           cores := s.cores.mapVals (fun _ k => { k with l1 := setErase k.l1 line }) }

/-- A line of pooled memory that comes into a slice or an L1 joins the snoop filter; a full filter first evicts the line that was
filled longest ago (R421). -/
def State.track (s : State) (line : Nat) : State :=
  if 128 * line < 0x100000000000 ∨ s.snoop.contains line then s
  else
    let s1 := if s.snoop.length < 4194304 then s else s.dropLine (s.snoop.headD 0)
    { s1 with snoop := s1.snoop ++ [line] }

/-- Does some slice or L1 hold a line (R288)? -/
def State.cachedAnywhere (s : State) (line : Nat) : Bool :=
  s.l2.any (fun e => e.2.contains line) || s.cores.any (fun e => e.2.l1.contains line)

/-- The snoop filter holds lines that some slice or L1 holds (R421). -/
def State.pruneSnoop (s : State) : State := { s with snoop := s.snoop.filter s.cachedAnywhere }

/-- Core c's L1 takes a line, which the snoop filter tracks where it is of pooled memory (R421); one that has to go for it is owned
no longer. -/
def State.putL1 (s : State) (c line : Nat) : State :=
  let b := s.track line
  let l := cachePut l1Lines (b.coreAt c).l1 line
  State.pruneSnoop (State.updCore { b with owners := b.owners.filter (fun e => e.2 != c || l.contains e.1) } c
    (fun k => { k with l1 := l }))

/-- Core c's L1 takes a line under a read lease, unless it holds it already; another L1 that owns the line keeps it under a
lease (R146, R288). -/
def State.lease (s : State) (c line : Nat) : State :=
  if (s.coreAt c).l1.contains line then s
  else State.putL1 { s with owners := s.owners.erase line } c line

/-- Core c's L1 owns a line for an atomic, and no other L1 holds it (R149, R288). -/
def State.own (s : State) (c line : Nat) : State :=
  let s1 := State.putL1 { s with cores := s.cores.mapVals (fun _ k => { k with l1 := setErase k.l1 line }) } c line
  { s1 with owners := s1.owners.set line c }

/-- Does the host hold the line of a device address (R420)? -/
def State.hostHeld (s : State) (pa : Nat) : Bool := s.hostDir.any (fun h => h.line == pa / 128)

/-- What holds an access at a place back: nothing, the queue of a page under migration (R383), or the ordered queue of a
port whose width changes (R426), with the fabric window that it goes to. -/
inductive Gate where
  | clear
  | page
  | port (n : Nat) (window : Option Nat)
  deriving DecidableEq, Repr

/-- Do core c's caches hold a line, so that a read of it leaves the module by no port (R288, R421)? -/
def State.cachedBy (s : State) (c line : Nat) : Bool := (s.coreAt c).l1.contains line || s.inL2 c line

/-- What holds an access of core c at a place back (R383, R420, R426): host memory and the recall of a line that the host
holds leave by port 0, pooled memory that the core's slice does not hold by its window's port. -/
def State.gate (s : State) (c : Nat) : Place → Gate
  | .dram pa =>
    if s.blocked pa then .page else if s.hostHeld pa && (s.ports.get 0 Port.reset).chg then .port 0 none else .clear
  | .host _ => if (s.ports.get 0 Port.reset).chg then .port 0 none else .clear
  | .pool pa =>
    match s.portOf (fabricWindow pa) with
    | some n => if (s.ports.get n Port.reset).chg && !s.inL2 c (pa / 128) then .port n (some (fabricWindow pa)) else .clear
    | none => .clear
  | .scratch _ | .window _ _ | .peer _ => .clear

/-- An access joins the queue of what holds it back, while that has room for one of 256 (R383, R426). -/
def State.join (s : State) (x : Held) : Gate → State
  | .clear => s
  | .page =>
    if s.migration.queue.length < 256 then { s with migration := { s.migration with queue := s.migration.queue ++ [x] } } else s
  | .port n w =>
    let p := s.ports.get n Port.reset
    if p.ordq.length < 256 then
      { s with ports := s.ports.set n { p with ordq := p.ordq ++ [x] },
               onPort := match w with
                 | some i => s.onPort.set i n
                 | none => s.onPort }
    else s

/-- An access of the device's own joins the queue of a page under migration, or waits behind it while it is full (R383). -/
def State.joinPage (s : State) (x : Held) : State :=
  let m := s.migration
  { s with migration :=
      if m.queue.length < 256 ∧ m.stalled = [] then { m with queue := m.queue ++ [x] } else { m with stalled := m.stalled ++ [x] } }

/-- What a port is to send joins its ordered queue, or waits behind it while it is full (R426). -/
def State.joinPort (s : State) (n : Nat) (x : Held) : State :=
  let p := s.ports.get n Port.reset
  let q : Port := if p.ordq.length < 256 ∧ p.stalled = [] then { p with ordq := p.ordq ++ [x] } else { p with stalled := p.stalled ++ [x] }
  { s with ports := s.ports.set n q }

/-- An access of the device's own joins the queue of what holds it back, or waits behind it (R383, R426). -/
def State.joinOwn (s : State) (x : Held) : Gate → State
  | .clear => s
  | .page => s.joinPage x
  | .port n _ => s.joinPort n x

/-- A message leaves by its port, or joins the port's ordered queue while its width changes, or waits behind that queue while
it is full (R426); nothing leaves by a port whose link is down (R427). -/
def State.send (s : State) (m : OutMsg) : State :=
  match m.port? with
  | none => { s with sent := s.sent ++ [m] }
  | some n =>
    let p := s.ports.get n Port.reset
    if !p.up then s
    else if p.chg then s.joinPort n (.out m)
    else { s with sent := s.sent ++ [m] }

/-- A message to a fabric window leaves as ordered traffic, whose port the window then keeps (R417, R427). -/
def State.sendOrdered (s : State) (w : Nat) (m : OutMsg) : State :=
  State.send { s with onPort := s.onPort.set w (m.port?.getD 0) } m

/-- What an access needs of an entry. -/
structure Need where
  r : Bool
  w : Bool
  x : Bool := false
  deriving DecidableEq, Repr

/-- Does an entry grant what is needed? -/
def Need.ok (n : Need) (e : RangeEntry) : Bool := (!n.r || e.r) && (!n.w || e.w) && (!n.x || e.x)

/-- A resolved strand access: its place, whether its range is DIRECT. -/
structure Loc where
  place  : Place
  direct : Bool
  deriving DecidableEq, Repr

/-- The reserved part of a core's window (R9, R49, R380). -/
def windowReserved (off : Nat) : Bool := (decide (0x88000 ≤ off) && decide (off < 0xA0000)) || decide (0xC0000 ≤ off)

/-- Resolving a strand's access (R140, R378, R380, R417, R419), its address taken modulo 2^64: the place, or the
cause of the fault. The entry's permission comes before the reserved part of a window and a window without a port
(DEDUCED, log 100), and a range of a peer answers 0x07 whatever its fabric window (DEDUCED, log 102). -/
def State.resolve (s : State) (p : Nat) (need : Need) (va : Nat) : Except (BitVec 8) Loc :=
  let a := va % 2 ^ 64
  if aliasBase ≤ a then .ok { place := .scratch (a - aliasBase), direct := false }
  else
    match s.entryOf p a with
    | none => .error 0x06
    | some e =>
      if !need.ok e then .error 0x07
      else
        match s.placeOf p e a with
        | .window c off =>
          if !s.owns p c then .error 0x07
          else if windowReserved off then .error 0x06
          else if 0xA0000 ≤ off ∧ need.w then .error 0x07
          else .ok { place := .window c off, direct := true }
        | .peer _ => .error 0x07
        | .pool pa =>
          if s.portOf (fabricWindow pa) = none then .error 0x06
          else .ok { place := .pool pa, direct := e.direct }
        | q => .ok { place := q, direct := e.direct }

/-- The physical address of a place in coherent or host memory; windows and the alias have none here. -/
def Place.pa? : Place → Option Nat
  | .dram a | .host a | .pool a | .peer a => some a
  | .scratch _ | .window _ _ => none

/-- A word of an accumulator tile at a window offset from 0xA_0000 (R47). -/
def Core.tileByte (k : Core) (off : Nat) : Byte :=
  let o := off - 0xA0000
  let w := vget (vget (k.getTile (BitVec.ofNat 3 (o / 0x4000))).rows (o / 0x100 % 64) (tab 64 (fun _ => 0))) (o / 4 % 64) 0
  BitVec.ofNat 8 (w.toNat / 2 ^ (8 * (o % 4)))

/-- A byte of a core's window (R9, R47). -/
def Core.windowByte (k : Core) (off : Nat) : Byte :=
  if off < 0xA0000 then k.window.read off else if off < 0xC0000 then k.tileByte off else 0

/-- Bytes written into a core's window below the accumulators; touched weight slots turn RAW (R49). -/
def Core.writeWindow (k : Core) (off : Nat) (bytes : List (Option Byte)) : Core :=
  let n := bytes.length
  let tags := tab 4 (fun i =>
    if bytes.any Option.isSome ∧ off < 0x80000 + (i + 1) * 0x2000 ∧ 0x80000 + i * 0x2000 < off + n then 0
    else vget k.wtags i 0)
  let full := bytes.all Option.isSome
  { k with window := k.window.writeMasked off bytes, wtags := tags,
           winPoison := if full then clearMarks k.winPoison off n else k.winPoison }

/-- A byte as core c's node sees it at a physical address: its staged byte, or memory (R142, R258, R290). -/
def State.nodeByte (s : State) (c pa : Nat) : Byte :=
  match (s.coreAt c).node.staged.find? (fun e => e.1 == pa) with
  | some e => e.2
  | none => s.mem.read pa

/-- Does a byte that core c's node reads come from a poisoned sector (R435)? -/
def State.nodePoison (s : State) (c pa : Nat) : Bool :=
  let nd := (s.coreAt c).node
  match nd.staged.find? (fun e => e.1 == pa) with
  | some _ => nd.stagedPoison.contains (pa / 16)
  | none => s.poison.contains (pa / 16)

/-- One byte at a place, as core c's node sees it. -/
def State.placeByte (s : State) (c : Nat) (q : Place) (i : Nat) : Byte :=
  match q with
  | .scratch off => (s.coreAt c).window.read (off + i)
  | .window d off => (s.coreAt d).windowByte (off + i)
  | .dram pa | .host pa | .pool pa | .peer pa => s.nodeByte c (pa + i)

/-- Is that byte poisoned? -/
def State.placePoison (s : State) (c : Nat) (q : Place) (i : Nat) : Bool :=
  match q with
  | .scratch off => (s.coreAt c).winPoison.contains ((off + i) / 16)
  | .window d off => (s.coreAt d).winPoison.contains ((off + i) / 16)
  | .dram pa | .host pa | .pool pa | .peer pa => s.nodePoison c (pa + i)

/-- n bytes at a place. -/
def State.placeBytes (s : State) (c : Nat) (q : Place) (n : Nat) : List Byte :=
  (List.range n).map (s.placeByte c q)

/-- The first poisoned byte of n at a place. -/
def State.placeFirstPoison (s : State) (c : Nat) (q : Place) (n : Nat) : Option Nat :=
  (List.range n).find? (s.placePoison c q)

/-- The armed counter whose region covers a physical line, if any (R330). -/
def State.filterOf (s : State) (line : Nat) : Option Nat :=
  (s.counters.find? (fun e => e.2.armed && e.2.lines.contains line)).map (·.1)

/-- n bytes at a home reach the counter over their line (R333, R334): a delivery, or ACFOREIGN in the writer's
partition when the counter is another partition's. -/
def State.deliver (s : State) (p line n : Nat) : State :=
  match s.filterOf line with
  | none => s
  | some c =>
    if n = 0 then s
    else if (s.counter c).part = p then { s with deliveries := s.deliveries ++ [{ ctr := c, n := n }] }
    else s.count p 0x000B

/-- Bytes that the host wrote into a line it holds reach the home (R420): they take their place in the order sector by
sector and are counted (R333), as writes of the partition by whose decoder the host holds the line (R416). -/
def State.hostData (s : State) (p line : Nat) (dirty : List (Nat × Byte)) : State :=
  (List.range 8).foldl (fun a i =>
    let at_ (j : Nat) : Option Byte := (dirty.find? (fun e => e.1 == 16 * i + j)).map (·.2)
    let bytes := (List.range 16).map at_
    let n := (bytes.filter Option.isSome).length
    if n = 0 then a
    else
      let pa := 128 * line + 16 * i
      State.deliver { a with mem := a.mem.writeMasked pa bytes, owners := a.owners.erase line,
                             poison := if n = 16 then setErase a.poison (pa / 16) else a.poison }
        p line n) s

/-- The host gives a line back that it holds, with the bytes that it wrote (R420). -/
def State.hostBack (s : State) (line : Nat) : State :=
  match s.hostDir.find? (fun h => h.line == line) with
  | some h => State.hostData { s with hostDir := s.hostDir.filter (fun x => x.line != line) } h.part line h.dirty
  | none => s

/-- A host-held line is recalled before the device touches it, and the bytes that the host wrote come with the answer
(R420). -/
def State.recall (s : State) (line : Nat) : State :=
  if s.hostDir.any (fun h => h.line == line) then State.hostBack (s.send (.recall line)) line else s

/-- Every line that n bytes from a physical address touch is recalled (R420). -/
def State.recallBytes (s : State) (pa n : Nat) : State :=
  if s.hostDir = [] then s else (linesOf pa n).foldl State.recall s

/-- The lines of n bytes at a place are recalled, where it lies in device memory (R420). -/
def State.recallPlace (s : State) (n : Nat) : Place → State
  | .dram pa => s.recallBytes pa n
  | .scratch _ | .window _ _ | .host _ | .pool _ | .peer _ => s

/-- A read of n bytes at a physical address leaves the module (R415, R417): host memory by port 0 as a CXL.cache request,
pooled memory by its window's port with the target and the offset. -/
def State.askHome (s : State) (pa n : Nat) : State :=
  if pa < 0x10000000000 then s
  else if pa < 0x100000000000 then s.send (.hostRead (pa - 0x10000000000) n)
  else
    let w := fabricWindow pa
    s.sendOrdered w (.fabricRead ((s.portOf w).getD 0) (s.pbridOf w) (pa % 2 ^ 40) n)

/-- What core c's read of n bytes at a place asks for (R415, R417, R420): the host's copy of a line of device memory is
recalled, and host or pooled memory is asked unless the core's caches hold the line. The request and its answer are one step
(DESIGN CHOICE, log 94). -/
def State.askPlace (s : State) (c n : Nat) : Place → State
  | .dram pa => s.recallBytes pa n
  | .host pa | .pool pa => if s.cachedBy c (pa / 128) then s else s.askHome pa n
  | .scratch _ | .window _ _ | .peer _ => s

/-- Where a line of the physical space is at home: device, host or pooled memory. -/
def homePlace (pa : Nat) : Place :=
  if pa < 0x10000000000 then .dram pa else if pa < 0x100000000000 then .host pa else .pool pa

/-- May a line come into core c's caches now: they hold it, or a read of it can leave and is held back by nothing (R383, R417,
R426, R427)? -/
def State.admits (s : State) (c line : Nat) : Bool :=
  let q := homePlace (128 * line)
  s.cachedBy c line || (s.gate c q == .clear && match q with
    | .host _ => (s.ports.get 0 Port.reset).up
    | .pool pa => (s.portOf (fabricWindow pa)).isSome
    | _ => true)

/-- What a line's coming into core c's caches asks for, where they do not hold it yet (R415, R417, R420). -/
def State.askLine (s : State) (c line : Nat) : State :=
  if s.cachedBy c line then s else s.askPlace c 128 (homePlace (128 * line))

/-- The line that a place lies in, as a place. -/
def Place.line : Place → Place
  | .dram pa => .dram (pa / 128 * 128)
  | .host pa => .host (pa / 128 * 128)
  | .pool pa => .pool (pa / 128 * 128)
  | .peer pa => .peer (pa / 128 * 128)
  | .scratch off => .scratch off
  | .window d off => .window d off

/-- What core c's reads at several places ask for, each line once. -/
def State.askPlaces (s : State) (c : Nat) (l : List Place) : State :=
  (l.map Place.line).dedup.foldl (fun a q => a.askPlace c 128 q) s

/-- The bytes of one sector's share of a masked write from pa on. -/
def sectorSplit (pa : Nat) (bytes : List (Option Byte)) : List (Nat × List (Option Byte)) :=
  (sectorsOf pa bytes.length).map (fun sec =>
    let lo := max pa (16 * sec)
    let hi := min (pa + bytes.length) (16 * sec + 16)
    (lo, (bytes.drop (lo - pa)).take (hi - lo)))

/-- What leaves the module for a write at a physical address: host memory by port 0, a fabric window by the port of ordered
or of UIO traffic (R417, R420, R422). -/
def State.sendWrite (s : State) (uio : Bool) (pa : Nat) (bytes : List (Option Byte)) : State :=
  if pa < 0x10000000000 then s
  else if pa < 0x100000000000 then s.send (.hostWrite (pa - 0x10000000000) bytes)
  else
    let w := fabricWindow pa
    let m (n : Option Nat) : OutMsg := .fabricWrite (n.getD 0) (s.pbridOf w) (pa % 2 ^ 40) bytes
    if uio then s.send (m (s.uioPort w)) else s.sendOrdered w (m (s.portOf w))

/-- One sector performed at its home (R257, R288, R297, R435): bytes under their mask, the poison mark, and the traffic
that leaves the module; an L1 that owned the line owns it no longer. -/
def State.sectorPut (s : State) (pa : Nat) (bytes : List (Option Byte)) (marked : Bool) (uio : Bool := false) : State :=
  let s0 := s.recall (pa / 128)
  let full := bytes.length == 16 && bytes.all Option.isSome
  let marks := if marked then setInsert s0.poison (pa / 16) else if full then setErase s0.poison (pa / 16) else s0.poison
  State.sendWrite { s0 with mem := s0.mem.writeMasked pa bytes, poison := marks, owners := s0.owners.erase (pa / 128) } uio pa bytes

/-- A sector write for partition p, with its count (R333). -/
def State.sectorWrite (s : State) (p pa : Nat) (bytes : List (Option Byte)) (marked : Bool) (uio : Bool := false) : State :=
  (s.sectorPut pa bytes marked uio).deliver p (pa / 128) (bytes.filter Option.isSome).length

/-- A write that becomes visible at its home, sector by sector (R297, R333). -/
def State.visibleWrite (s : State) (p pa : Nat) (bytes : List (Option Byte)) : State :=
  (sectorSplit pa bytes).foldl (fun a e => a.sectorWrite p e.1 e.2 false) s

/-- Distinct sectors that a node holds staged (R143). -/
def Node.stagedSectors (nd : Node) : List Nat :=
  nd.staged.foldl (fun l e => setInsert l (e.1 / 16)) []

/-- Bytes staged for a node (R143). -/
def Node.stageAux (nd : Node) : Nat → List (Option Byte) → Node
  | _, [] => nd
  | pa, none :: t => Node.stageAux nd (pa + 1) t
  | pa, some b :: t => Node.stageAux { nd with staged := Table.set nd.staged pa b } (pa + 1) t

/-- A node's bytes staged, full sectors losing their poison mark (R143, R434). -/
def Node.stageBytes (nd : Node) (pa : Nat) (bytes : List (Option Byte)) : Node :=
  let n1 := nd.stageAux pa bytes
  if bytes.all Option.isSome then { n1 with stagedPoison := clearMarks n1.stagedPoison pa bytes.length } else n1

/-- Would staging n bytes at pa pass 2 MiB, counted in sectors (R143)? -/
def Node.stageOverflows (nd : Node) (pa n : Nat) : Bool :=
  let new := (sectorsOf pa n).filter (fun x => !nd.stagedSectors.contains x)
  new != [] && decide (131072 < nd.stagedSectors.length + new.length)

/-- A write of core c's node at a resolved place (R143, R258): scratchpad and windows at once, STAGED bytes
held for the node, DIRECT bytes performed, which pins the node (R441). -/
def State.nodeWrite (s : State) (c p : Nat) (l : Loc) (bytes : List (Option Byte)) : State :=
  match l.place with
  | .scratch off => s.updCore c (fun k => k.writeWindow off bytes)
  | .window d off =>
    (s.updCore d (fun k => k.writeWindow off bytes)).updCore c
      (fun k => { k with node := { k.node with pinned := true } })
  | .dram pa | .host pa | .pool pa | .peer pa =>
    if l.direct then
      (s.visibleWrite p pa bytes).updCore c (fun k => { k with node := { k.node with pinned := true } })
    else s.updCore c (fun k => { k with node := k.node.stageBytes pa bytes })

end Sys2Proof.Machine
end

