-- ==== Sys2Proof/Machine/Errors.lean ====
section
/-! DEFINITION. Rings in memory: the error queues (R442 to R444) and the trace rings (R461). -/

namespace Sys2Proof.Machine

/-- A read of n bytes of committed memory as a number, a migrated page at its new place (R383). -/
def State.memNat (s : State) (a n : Nat) : Nat := s.mem.readNat (s.redirect a) n

/-- What holds an access of the device's own at a physical address back: a page under migration (R383), or the recall that it
needs and a width change of port 0 (R420, R426). -/
def State.ownGate (s : State) (pa : Nat) : Gate := s.gate 0 (.dram (s.redirect pa))

/-- A write of the device's own for partition p (R289, R383): at a migrated page's new place, sector by sector, or in the
queue of what holds it back. -/
def State.ownWrite (s : State) (p pa : Nat) (bytes : List (Option Byte)) : State :=
  (sectorSplit pa bytes).foldl (fun a e => match a.ownGate e.1 with
    | .clear => a.sectorWrite p (a.redirect e.1) e.2 false
    | g => a.joinOwn (.write p e.1 e.2) g) s

/-- A write of full bytes of the device's own for partition p. -/
def State.writeFull (s : State) (p pa : Nat) (bytes : List Byte) : State := s.ownWrite p pa (bytes.map some)

/-- What holds back the header of a ring, or the slot that its next record would take (R289, R383, R420, R426). -/
def State.ringGate (s : State) (base logn size : Nat) : Gate :=
  let slot := base + 0x100 + size * (s.memNat base 8 % 2 ^ logn)
  (((sectorsOf base 0x100 ++ sectorsOf slot size).map (fun x => s.ownGate (16 * x))).find? (· != .clear)).getD .clear

/-- A record put into a ring (R443, R461): header at base, 2^logn slots of `bytes.length` bytes from
base + 0x100; a line of the header that the host holds is recalled (R420). Gives whether it entered, and whether the ring was empty before it. -/
def State.ringAppend (s0 : State) (p base logn : Nat) (bytes : List Byte) : State × Bool × Bool :=
  let s := s0.recallBytes (s0.redirect base) 256
  let prod := s.memNat base 8
  let drop := s.memNat (base + 8) 8
  let cons := s.memNat (base + 0x80) 8
  if (prod + 2 ^ 64 - cons) % 2 ^ 64 < 2 ^ logn then
    let s1 := s.writeFull p (base + 0x100 + bytes.length * (prod % 2 ^ logn)) bytes
    (s1.writeFull p base (leBytes 8 (prod + 1) ++ leBytes 8 drop), true, decide (prod = cons))
  else (s.writeFull p base (leBytes 8 prod ++ leBytes 8 (drop + 1)), false, false)

/-- The 64 bytes of an error record at a GTC (R444). -/
def ErrRec.bytes (e : ErrRec) (gtc : Nat) : List Byte :=
  leBytes 1 e.kind ++ leBytes 1 e.cause ++ leBytes 1 e.flags ++ leBytes 1 e.attempt ++ leBytes 2 e.launch
    ++ leBytes 1 e.stage ++ leBytes 1 0 ++ leBytes 4 e.core ++ leBytes 4 0 ++ leBytes 8 e.pc.toNat
    ++ leBytes 8 e.value.toNat ++ leBytes 8 e.addr.toNat ++ leBytes 8 gtc ++ leBytes 8 e.arg ++ leBytes 8 0

/-- The function whose vector tells of error queue n (R413, R414): virtual function n + 1, or the physical function for the
queue of records that concern no single partition. -/
def queueFn (n : Nat) : Nat := if n < 24 then n + 1 else 0

/-- A record enters a ring, and what follows (R414, R443, R461): the vector of an error queue that was empty, or the count of
a lost trace record. -/
def State.ringEnter (s : State) (p base logn : Nat) (bytes : List Byte) (trace : Bool) : State :=
  let (s1, entered, empty) := s.ringAppend p base logn bytes
  if trace then (if entered then s1 else s1.count p 0x0013)
  else if entered && empty then s1.send (.msix (queueFn p)) else s1

/-- A record for a ring: it enters, or waits in the queue of what holds it back (R289, R383, R426). -/
def State.ringPut (s : State) (p base logn : Nat) (bytes : List Byte) (trace : Bool) : State :=
  match s.ringGate base logn bytes.length with
  | .clear => s.ringEnter p base logn bytes trace
  | g => s.joinOwn (.ring p base logn bytes trace) g

/-- A record enters the error queue of its partition (R442, R443): lost and counted ERRLOST while EN is 0; the
function's vector is sent when the queue was empty (R414). -/
def State.enterRecord (s : State) (d : Due) : State :=
  let r := (s.eqbase.get d.part 0).toNat
  if bitOf r 63 then s.ringPut d.part (field r 8 40 * 256) 10 (d.err.bytes d.gtc) false else s.countPF 0x0032

/-- A record for the error queue of partition p, of an error detected at a GTC: it is due. -/
def State.reportAt (s : State) (p gtc : Nat) (e : ErrRec) : State := { s with due := s.due ++ [{ part := p, gtc := gtc, err := e }] }

/-- A record of an error detected now. -/
def State.report (s : State) (p : Nat) (e : ErrRec) : State := s.reportAt p s.gtc e

/-- Does one record enter a queue before another: in the order of GTC, and of core number for equal GTC (R444)? -/
def Due.before (a b : Due) : Bool := decide (a.gtc < b.gtc) || (a.gtc == b.gtc && decide (a.err.core ≤ b.err.core))

/-- Has partition p a node whose rollback, detected already, has not ended (R284)? Its record may precede those that are due. -/
def State.rollsBack (s : State) (p : Nat) : Bool :=
  s.cores.any (fun e => e.2.node.part == p && match e.2.node.ending with
    | some (.rollback _ _ _ _ _) => true
    | _ => false)

/-- The records that are due enter their queues in the order of R444; those of a partition with a rollback under way wait
until it has ended, since its own record carries the earlier GTC of its detection (DEDUCED, log 111). -/
def State.enterDue (s : State) : State :=
  let (later, now) := s.due.partition (fun d => s.rollsBack d.part)
  (now.insertionSort (fun a b => a.before b)).foldl State.enterRecord { s with due := later }

/-- A 32-byte trace record of partition p (R461), when its ring is enabled; a lost one counts TRDROP. -/
def State.trace (s : State) (p kind reason core launch stage strand : Nat) (a b : Nat) : State :=
  let r := (s.part p).tel.trctl.toNat
  if bitOf r 63 then
    let bytes := leBytes 1 kind ++ leBytes 1 reason ++ leBytes 2 core ++ leBytes 2 launch ++ leBytes 1 stage
      ++ leBytes 1 strand ++ leBytes 8 s.gtc ++ leBytes 8 a ++ leBytes 8 b
    s.ringPut p (field r 8 40 * 256) (field r 0 5) bytes true
  else s

/-- A trace record of a node's start or end (type 4 of R461), when EVMASK bit 2 asks for it. -/
def State.traceNode (s : State) (c reason : Nat) : State :=
  let nd := (s.coreAt c).node
  if bitOf (s.part nd.part).tel.evmask.toNat 2 then
    s.trace nd.part 4 reason c nd.launch nd.stage 0 nd.itemOff 0
  else s

end Sys2Proof.Machine
end

