-- ==== Sys2Proof/Machine/Ranges.lean ====
section
/-! DEFINITION. Making a range table active: the checks of R381 (and R417), and the activation itself. -/

namespace Sys2Proof.Machine

/-- Is a 64 KiB page of device memory mapped by an entry of partition p (R380)? A channel of the set whose turn no granule comes to
holds nothing of it. -/
def State.mapsPage (s : State) (p : Nat) (e : RangeEntry) (page : Nat) : Bool :=
  let set := s.channelSet p e
  let total := 2 ^ e.logsz / 4096
  let off := page * 65536 % 2 ^ 29
  e.dram && set.zipIdx.any (fun c =>
    c.1 == page * 65536 / 2 ^ 29 && decide (c.2 < total) &&
      decide (off < e.w2.toNat + (total - c.2 + set.length - 1) / set.length * 4096) && decide (e.w2.toNat < off + 65536))

/-- Pages of a migration under way (R383). -/
def State.movingPages (s : State) : List Nat :=
  match s.migration.st with
  | .blocked | .copying | .replay => [s.migration.src, s.migration.dst]
  | .idle | .done | .refused => []

/-- Does an entry change the translation of a line of an armed counter region of partition p (reason 8)? -/
def State.movesRegion (s : State) (p : Nat) (e : RangeEntry) : Bool :=
  s.counters.any (fun k => k.2.armed && k.2.part == p && k.2.lines.zipIdx.any (fun l =>
    let a := k.2.vbase + 128 * l.2
    e.maps a && s.redirect (s.physAt p e (a - e.base)) / 128 != l.1))

/-- Is PBASE of an entry outside what its home allows (reason 4: R9, R417)? A host-home PBASE outside the host's
window is taken as this reason (DEDUCED, log 20). -/
def State.badHome (s : State) (e : RangeEntry) : Bool :=
  let lo := e.w2.toNat
  let hi := lo + 2 ^ e.logsz - 1
  match e.home with
  | 0 => false
  | 1 => decide (lo < 0x10000000000) || decide (0x100000000000 ≤ hi)
  | _ => decide (lo < 0x100000000000) || decide (2 ^ 48 ≤ hi) ||
      (List.range (hi / 2 ^ 40 - lo / 2 ^ 40 + 1)).any (fun i => !bitOf (s.routeOf (lo / 2 ^ 40 - 0x10 + i)).toNat 63)

/-- The first reason of R381 for which a VALID entry fails beside the other VALID entries of its table. CHAN that
is not zero where R379 wants zero is reason 1 (DEDUCED, log 20). -/
def State.entryReason (s : State) (p : Nat) (others : List RangeEntry) (e : RangeEntry) : Option Nat :=
  let n1 := e.w1.toNat
  let pb := e.w2.toNat
  let size := 2 ^ e.logsz
  let set := s.channelSet p e
  if e.w0.toNat % 2 ^ 16 ≠ 0 ∨ field n1 56 7 ≠ 0 ∨ field n1 9 31 ≠ 0 ∨ e.w3 ≠ 0 ∨ e.logsz < 16 ∨ 40 < e.logsz
      ∨ (e.chan ≠ 0 ∧ (e.ilv = 3 ∨ e.win ∨ e.home ≠ 0)) then some 1
  else if e.base % size ≠ 0 ∨ pb % (if e.dram then 4096 else 65536) ≠ 0 then some 2
  else if others.any (fun o => decide (o.base < e.base + size) && decide (e.base < o.base + 2 ^ o.logsz)) then some 3
  else if (e.dram ∧ (set = [] ∨ set.any (fun c => !(s.owns p c && s.present c)) ∨ (e.ilv = 1 ∧ e.chan % 4 ≠ 0)
        ∨ (e.ilv = 2 ∧ e.chan % 40 ≠ 0)))
      ∨ (e.win ∧ (pb < 0xF000000000 ∨ !(s.owns p ((pb - 0xF000000000) / 0x100000) && s.present ((pb - 0xF000000000) / 0x100000))))
      ∨ (!e.win ∧ s.badHome e) then some 4
  else if (e.dram ∧ set.length * (2 ^ 29 - pb) < size) ∨ (e.win ∧ 0x100000 < pb % 0x100000 + size) then some 5
  else if (e.win ∧ (e.home ≠ 0 ∨ e.ilv ≠ 0 ∨ !e.direct)) ∨ (e.home ≠ 0 ∧ e.ilv ≠ 0) then some 6
  else if s.movingPages.any (s.mapsPage p e) then some 7
  else if s.movesRegion p e then some 8
  else none

/-- The first VALID entry of a shadow table that fails: its index and reason (R381). -/
def State.tableFault (s : State) (p : Nat) (t : Table RangeEntry) : Option (Nat × Nat) :=
  t.findSome? (fun e =>
    if e.2.valid then
      (s.entryReason p ((t.filter (fun o => o.1 != e.1 && o.2.valid)).map (·.2)) e.2).map (fun r => (e.1, r))
    else none)

/-- Activation (R381, R382): the shadow table becomes active in one step, or is refused whole. -/
def State.activate (s : State) (p : Nat) : State :=
  let v := s.part p
  match s.tableFault p v.shadow with
  | some (i, r) => s.setPart p { v with rtRefused := true, rtReason := r, rtEntry := i }
  | none => s.setPart p { v with active := v.shadow, rtRefused := false, rtReason := 0, rtEntry := 0 }

/-- Activation as a start is about to be consumed: when no node of the partition runs, commits or is saved (R381). -/
def State.activateIfQuiet (s : State) (p : Nat) : State :=
  if s.busyCores p = [] ∧ (s.part p).saved = [] then s.activate p else s

end Sys2Proof.Machine
end

