-- ==== Sys2Proof/Machine/Launch.lean ====
section
/-! DEFINITION. Launches, queues and the end of a node: starts and their checks (R361, R362), completion
sectors (R363), slots (R364, R365), discard, rollback and failure (R371, R372, R385, R439 to R441). -/

namespace Sys2Proof.Machine

namespace Queue

/-- Number of FREE slots: the room (R364). -/
def room (q : Queue) : Nat := (q.slots.filter (fun sl => sl.st == .free)).length

/-- READY slots, oldest first, by number and slot. -/
def ready (q : Queue) : List (Nat × Slot) :=
  let l := (q.slots.zipIdx.filter (fun e => e.1.st == .ready)).map (fun e => (e.2, e.1))
  l.insertionSort (fun a b => a.2.order ≤ b.2.order)

/-- The first slot in a condition turned into another. -/
def turnFirst (q : Queue) (a b : SlotSt) : Queue :=
  match q.slots.findIdx? (fun sl => sl.st == a) with
  | some i => { q with slots := q.slots.modify i (fun sl => { sl with st := b }) }
  | none => q

/-- The first n slots in a condition turned into another. -/
def turn (q : Queue) (a b : SlotSt) : Nat → Queue
  | 0 => q
  | n + 1 => Queue.turn (q.turnFirst a b) a b n

/-- An item put into the first slot of a condition, at the tail of the arrival order (R364, R365). -/
def place (q : Queue) (from_ : SlotSt) (bytes : List Byte) (late : List (List Byte)) (gtc : Nat) : Option Queue :=
  match q.slots.findIdx? (fun sl => sl.st == from_) with
  | some i =>
    some { q with nextOrder := q.nextOrder + 1,
                  slots := q.slots.set i { st := .ready, bytes := padTo q.size bytes, late := late, since := gtc, order := q.nextOrder, tries := 0 } }
  | none => none

/-- Slot i in a new condition. -/
def setSlot (q : Queue) (i : Nat) (st : SlotSt) : Queue :=
  { q with slots := q.slots.modify i (fun sl => { sl with st := st }) }

end Queue

/-- Queue qid of partition p. -/
def State.queue? (s : State) (p qid : Nat) : Option Queue := (s.part p).queues.find qid

/-- Queue qid of partition p changed. -/
def State.updQueue (s : State) (p qid : Nat) (f : Queue → Queue) : State :=
  match s.queue? p qid with
  | some q => s.updPart p (fun v => { v with queues := v.queues.set qid (f q) })
  | none => s

/-- Launch lid of partition p. -/
def State.launch? (s : State) (p lid : Nat) : Option Launch := (s.part p).launches.find lid

/-- Launch lid of partition p changed. -/
def State.updLaunch (s : State) (p lid : Nat) (f : Launch → Launch) : State :=
  match s.launch? p lid with
  | some l => s.updPart p (fun v => { v with launches := v.launches.set lid (f l) })
  | none => s

/-- An item placed at the tail of a queue (R365), or nothing when it has no FREE slot. -/
def State.placeItem (s : State) (p qid : Nat) (bytes : List Byte) (late : List (List Byte)) : Option State :=
  match s.queue? p qid with
  | some q =>
    match q.place .free bytes late s.gtc with
    | some q' => some (s.updPart p (fun v => { v with queues := v.queues.set qid q' }))
    | none => none
  | none => some s

/-- The stage that core c's node runs. -/
def State.stageOf (s : State) (p lid st : Nat) : Option Stage :=
  match s.launch? p lid with
  | some l => l.stages[st]?
  | none => none

/-- May the word at a virtual address be written as a completion sector (R362, check 4)? -/
def State.doneOk (s : State) (p a : Nat) : Bool :=
  a % 16 == 0 &&
    match s.entryOf p a with
    | some e => e.direct && e.dram && e.w
    | none => false

/-- The completion sector of R363. -/
def State.completionSector (s : State) (p lid status committed done : Nat) : State :=
  if done ≠ 0 ∧ s.doneOk p done then
    match s.entryOf p done with
    | some e =>
      s.writeFull p (s.physAt p e (done - e.base))
        (leBytes 2 lid ++ leBytes 1 status ++ leBytes 1 0 ++ leBytes 4 (min committed 0xFFFFFFFF) ++ leBytes 8 s.gtc)
    | none => s
  else s

/-- A node's copies and posted steps leave their engines (R270, R385); the free slots keep their permits. -/
def State.dropCommands (s : State) (c : Nat) : State :=
  { s with engines := s.engines.mapVals (fun _ g => { g with queue := g.queue.filter (fun m => m.core != c) }) }

/-- An accepted solve of core c's node is abandoned unless its XVEC writes have begun (R410). -/
def State.dropSolve (s : State) (c : Nat) : State :=
  match (s.coreAt c).node.solving with
  | none => s
  | some lead =>
    if (s.solvers.get lead Solver.reset).phase = .writing then s
    else { s with solvers := s.solvers.mapVals (fun k v =>
             if k = lead ∨ v.phase = .reserved lead then Solver.reset else v) }

/-- One issued point returns to its walk unvisited, at the tail of FORCED (R348). -/
def State.returnPoint (s : State) (w pt : Nat) : State :=
  let k := w / 256 * 4 + w % 256
  let x := s.walks.get k Walk.reset
  { s with walks := s.walks.set k { x with points := x.points.set pt .forced, forced := x.forced ++ [pt] } }

/-- A core becomes free of its node: registers keep what they hold until the next start (R71), the class goes
to 0 (R446), and the manager forgets its request. -/
def Core.release (k : Core) : Core :=
  { k with node := Node.vacant, last := some (k.node.part, k.node.launch, k.node.stage),
           strands := tab 4 (fun _ => StrandSt.idle), loops := [], chain := [], mq := [], cout := [],
           tk := tab 12 (fun _ => 0), req := 0, grant := 0, pend := false, sup := false, psup := false }

/-- A waiting class request is withdrawn (R162). -/
def State.withdrawPacq (s : State) (c : Nat) : State :=
  { s with power := s.power.mapVals (fun _ m =>
      { m with queue := m.queue.filter (fun e => e.core != c), aside := m.aside.filter (fun e => e.core != c) }) }

/-- Prefetches that core c's node started go on without it (R347, R348). -/
def State.detachPrefetches (s : State) (c : Nat) : State :=
  { s with prefetches := s.prefetches.map (fun f => if f.core = some c then { f with core := none } else f) }

/-- The node of core c goes with its staged writes, items and marks (R385, R439): the core is free after it. -/
def State.teardown (s : State) (c : Nat) : State :=
  let s1 := (s.coreAt c).node.points.foldl (fun a pt => a.returnPoint pt.handle pt.point) s
  let s2 := ((((s1.traceNode c 2).dropCommands c).dropSolve c).withdrawPacq c).detachPrefetches c
  s2.updCore c Core.release

/-- The node's input slot and reserved output slots after its end (R371): the slot takes a condition, `bump`
counts an attempt, and reservations become FREE. -/
def State.settleSlots (s : State) (nd : Node) (st : SlotSt) (bump : Bool) : State :=
  match s.stageOf nd.part nd.launch nd.stage with
  | none => s
  | some g =>
    let s1 := s.updQueue nd.part g.input (fun q =>
      { q with slots := q.slots.modify nd.slot (fun sl =>
          { sl with st := st, tries := if bump then sl.tries + 1 else sl.tries }) })
    g.outs.foldl (fun a o => a.updQueue nd.part o.1 (fun q => q.turn .reserved .free o.2)) s1

/-- Are two nodes members of one gang (R369, R371)? -/
def Node.together (a b : Node) : Bool := a.gang != [] && b.gang != [] && a.gangNo == b.gangNo

/-- The cores whose node belongs with core c's: its gang's members that have not committed, or c alone. -/
def State.gangOf (s : State) (c : Nat) : List Nat :=
  let nd := (s.coreAt c).node
  if nd.gang = [] then [c]
  else nd.gang.filter (fun d =>
    let e := (s.coreAt d).node
    e.phase != .idle && e.phase != .committing && nd.together e)

/-- Walk contexts of a launch become FREE (R342, R360). -/
def State.freeWalks (s : State) (p lid : Nat) : State :=
  let mine (w : Walk) : Bool := w.state != .free && w.part == p && w.launch == lid
  { s with walks := s.walks.mapVals (fun _ w => if mine w then Walk.reset else w),
           prefetches := s.prefetches.map (fun f =>
             if mine (s.walks.get f.key Walk.reset) then { f with stale := true } else f) }

/-- A launch leaves RUNNING (R360): completion sector, walk contexts, new state. -/
def State.leaveRunning (s : State) (p lid status : Nat) (st : LaunchSt) : State :=
  match s.launch? p lid with
  | none => s
  | some l =>
    let s1 := s.completionSector p lid status l.committed l.done
    (s1.freeWalks p lid).updLaunch p lid (fun l => { l with state := st, quiet := none })

/-- TCAUSE of a trap (R58). -/
def TrapInfo.word (i : TrapInfo) (st : Strand) : Word :=
  BitVec.ofNat 64 (i.cause.toNat + st.num * 2 ^ 8 + b2n i.chain * 2 ^ 10 + b2n i.post * 2 ^ 11)

/-- The flag bits of an error record for a trap (R444). -/
def TrapInfo.flags (i : TrapInfo) (st : Strand) : Nat := b2n i.post * 4 + b2n i.chain * 8 + st.num * 16

/-- ADDR of an error record for a trap: PSNA where poison was involved, otherwise the failing address (R444). -/
def TrapInfo.failAddr (i : TrapInfo) (k : Core) : Word :=
  if i.cause = 0x05 then k.psna
  else if i.cause = 0x06 ∨ i.cause = 0x07 ∨ i.cause = 0x08 ∨ i.cause = 0x0E then i.tval else 0

/-- The post-completion trap that the M strand of a running node owes (R316). -/
def Core.owedTrap (k : Core) : Option TrapInfo :=
  match (k.strand .M).pending with
  | some i => if k.node.phase = .running ∧ !(k.strand .M).frozen then some { i with tepc := (k.strand .M).pc } else none
  | none => none

/-- The entry of an owed trap on core c ahead of a discard that then takes the node from its handler (R316): the trap is
counted and the trap registers are written, or, without a handler, the node's failure is recorded (R59). -/
def State.enterOwed (s : State) (c : Nat) : State :=
  let k := s.coreAt c
  let nd := k.node
  match k.owedTrap with
  | none => s
  | some i =>
    let s1 := s.count nd.part 0x0014
    if nd.handler then
      s1.updCore c (fun k => { k with tcause := i.word .M, tepc := i.tepc, tval := i.tval, psup := k.sup, sup := true })
    else
      (s1.count nd.part 0x0012).report nd.part
        { kind := 1, cause := i.cause.toNat, flags := i.flags .M + b2n nd.pinned, launch := nd.launch, stage := nd.stage, core := c,
          attempt := nd.attempt, pc := i.tepc, value := i.tval, addr := i.failAddr k }

/-- The cores whose node, of a launch, a discard takes: every one whose commit has not begun (R286, R372). -/
def State.nodesOf (s : State) (p lid : Nat) : List Nat :=
  (s.busyCores p).filter (fun c => (s.coreAt c).node.launch == lid && (s.coreAt c).node.phase != .committing)

/-- Does a node of a launch owe a trap that fails it, no handler standing (R59, R316)? -/
def State.owesFailure (s : State) (p lid : Nat) : Bool :=
  (s.nodesOf p lid).any (fun c => (s.coreAt c).owedTrap.isSome && !(s.coreAt c).node.handler)

/-- Running and saved nodes of a launch are discarded, each after the trap that it owes, with the slots that they hold, those of
another launch's queue among them (log 74), and its queues emptied (R316, R371, R372). -/
def State.clearLaunch (s : State) (p lid : Nat) : State :=
  let s1 := (s.nodesOf p lid).foldl (fun a c =>
    ((a.enterOwed c).teardown c).settleSlots (a.coreAt c).node .free false) s
  let s2 := ((s1.part p).saved.filter (fun x => x.node.launch == lid)).foldl (fun a x => a.settleSlots x.node .free false) s1
  s2.updPart p (fun v =>
    { v with saved := v.saved.filter (fun x => x.node.launch != lid),
             gangHolds := v.gangHolds.filter (fun g => g.2.1 != lid),
             queues := v.queues.mapVals (fun _ q =>
               if q.launch = lid then { q with slots := q.slots.map (fun sl => { sl with st := .free, late := [], tries := 0 }) } else q) })

/-- A launch fails (R360, R372); a launch that does not run is left alone. -/
def State.failLaunch (s : State) (p lid : Nat) : State :=
  match s.launch? p lid with
  | some l => if l.state = .running then (s.clearLaunch p lid).leaveRunning p lid 1 .failed else s
  | none => s

/-- A node fails (R283): its effects go, its item is not re-queued, a record goes to the error queue, and its
launch fails (R371). -/
def State.failNode (s : State) (c : Nat) (e : ErrRec) : State :=
  let nd := (s.coreAt c).node
  let s1 := s.teardown c
  let s2 := (s1.settleSlots nd .free false).count nd.part 0x0012
  let s3 := s2.report nd.part { e with flags := e.flags + b2n nd.pinned, launch := nd.launch, stage := nd.stage, core := c, attempt := nd.attempt }
  s3.failLaunch nd.part nd.launch

/-- Saved members of a node's gang. -/
def State.savedGang (s : State) (nd : Node) : List Saved := (s.part nd.part).saved.filter (fun x => nd.together x.node)

/-- Saved members of a node's gang go with it (R371): their marks and slots as at a discard or rollback. -/
def State.dropSavedGang (s : State) (nd : Node) (bump : Bool) : State :=
  let gone := s.savedGang nd
  let s1 := gone.foldl (fun a x =>
    (x.node.points.foldl (fun b pt => b.returnPoint pt.handle pt.point) a).settleSlots x.node .ready bump) s
  (s1.countN nd.part (if bump then 0x0008 else 0x0011) gone.length).updPart nd.part (fun v =>
    { v with saved := v.saved.filter (fun x => !nd.together x.node) })

/-- A node is discarded by pre-emption with its gang (R385, R371): each item returns to READY in its place. -/
def State.discardNode (s : State) (c : Nat) : State :=
  ((s.gangOf c).foldl (fun a d =>
    let nd := (a.coreAt d).node
    ((a.teardown d).settleSlots nd .ready false).count nd.part 0x0011) s).dropSavedGang (s.coreAt c).node false

/-- A start refused (R362, R365, R444): a record, and a completion sector with REFUSED when DONE passed its
check. -/
def State.refuseStart (s : State) (p : Nat) (st : Start) (check : Nat) : State :=
  let lid := leAt st.bytes 0 2
  let arg := match st.src with
    | .mailbox ph => ph
    | .action c => c + 2 ^ 63
  let s1 := s.report p { kind := 5, cause := 1, launch := lid, value := BitVec.ofNat 64 check, arg := arg }
  let done := leAt st.bytes 8 8
  if check = 7 ∨ check = 8 ∨ 4 < check then s1.completionSector p lid 3 0 done else s1

/-- The first check of R362 that a launch record fails, if any. -/
def State.startCheck (s : State) (p : Nat) (b : List Byte) : Option Nat :=
  let lid := leAt b 0 2
  let flags := leAt b 2 1
  let prio := leAt b 3 1
  let seedq := leAt b 4 1
  let done := leAt b 8 8
  let reservedBad := flags / 8 != 0 || !zeroAt b 5 3 || !zeroAt b 0x10 48 || decide (7 < prio)
    || (!bitOf flags 0 && prio != 0) || (!bitOf flags 1 && (seedq != 0 || !zeroAt b 0x40 64))
  if reservedBad then some 1
  else match s.launch? p lid with
    | none => some 2
    | some l =>
      let seedBad := bitOf flags 1 &&
        match l.queues[seedq]? with
        | none => true
        | some q => match s.queue? p q with
          | some q => decide (64 < q.size)
          | none => true
      if seedBad then some 3
      else if done ≠ 0 ∧ !s.doneOk p done then some 4
      else
        let v := s.config.variant
        if (l.solve && Config.solverCount v == 0) || (l.coll && Config.collectiveCount v == 0)
            || decide (Config.fabricPorts v < l.fports) || decide ((s.coresOf p).length < l.cores) then some 5
        else
          let fits (g : Stage) : Bool :=
            match g.kind with
            | .core => true
            | .quad => (List.range 160).any (fun q => decide (g.k ≤ ((s.coresOf p).filter (fun c => c / 4 == q)).length))
            | .stack => (List.range 16).any (fun q => decide (g.k ≤ ((s.coresOf p).filter (fun c => c / 40 == q)).length))
          if l.stages.all fits then none else some 6

/-- Initial items of a launch placed in source order, all or none (R360, R365). -/
def State.placeInitial (s : State) (p : Nat) : List (Nat × List Byte × List (List Byte)) → Option State
  | [] => some s
  | (q, b, late) :: t =>
    match s.placeItem p q b late with
    | some s1 => State.placeInitial s1 p t
    | none => none

/-- A queued start begins its launch (R360, R361): initial items at a restart, the seed, then RUNNING. -/
def State.beginLaunch (s : State) (p : Nat) (st : Start) : State :=
  let lid := leAt st.bytes 0 2
  let flags := leAt st.bytes 2 1
  match s.launch? p lid with
  | none => s.refuseStart p st 2
  | some l =>
    let s1? := if l.state = .loaded then some s else s.placeInitial p l.init
    match s1? with
    | none => s.refuseStart p st 8
    | some s1 =>
      let s2? := if bitOf flags 1 then s1.placeItem p (l.queues.getD (leAt st.bytes 4 1) 0) ((st.bytes.drop 0x40).take 64) []
        else some s1
      match s2? with
      | none => s.refuseStart p st 7
      | some s2 =>
        s2.updLaunch p lid (fun l =>
        { l with
          state := .running, committed := 0, quiet := none,
          done := leAt st.bytes 8 8, prio := if bitOf flags 0 then leAt st.bytes 3 1 else l.declared })

/-- A launch record is consumed (R361, R362): refused, a CANCEL carried out, begun, or put into the launch queue
behind its running launch. The shadow range table takes effect first when the partition is quiet (R381). The caller
has seen room in the launch queue (R338). -/
def State.consume (s : State) (p : Nat) (st : Start) : State :=
  let lid := leAt st.bytes 0 2
  let cancel := bitOf (leAt st.bytes 2 1) 2
  let running (a : State) : Bool := ((a.launch? p lid).map (fun l => l.state == .running)).getD false
  let waits := running s || (s.part p).launchQ.any (fun q => leAt q.bytes 0 2 == lid)
  let s1 := s.activateIfQuiet p
  match s1.startCheck p st.bytes with
  | some n => s1.refuseStart p st n
  | none =>
    if cancel then
      if !running s1 then s1
      else if s1.owesFailure p lid then s1.failLaunch p lid
      else (s1.clearLaunch p lid).leaveRunning p lid 2 .ended
    else if waits then s1.updPart p (fun v => { v with launchQ := v.launchQ ++ [st] })
    else s1.beginLaunch p st

/-- The range entry of a mailbox address. The home agent works on the lines that its counter was armed over, so an
entry that the loader has written and no activation has taken yet serves too (DEDUCED, log 29). -/
def State.mailboxEntry (s : State) (p a : Nat) : Option RangeEntry :=
  (s.entryOf p a).orElse (fun _ => ((s.part p).shadow.find? (fun e => e.2.maps a)).map (·.2))

/-- The launch record at a phase of the mailbox whose counter's region starts at a base (R340): slot
(phase − 1) mod 512 of the ring. -/
def State.mailboxRecord (s : State) (p base phase : Nat) : List Byte :=
  let a := base + (phase + 511) % 512 * 128
  match s.mailboxEntry p a with
  | some e => s.mem.readBytes (s.redirect (s.physAt p e (a - e.base))) 128
  | none => []

/-- The host's copy of that record's line, if it holds one, is recalled (R420). -/
def State.mailboxReady (s : State) (p base phase : Nat) : State :=
  let a := base + (phase + 511) % 512 * 128
  match s.mailboxEntry p a with
  | some e => s.recallBytes (s.redirect (s.physAt p e (a - e.base))) 128
  | none => s

/-- The consumed-phase word of that mailbox written (R340). -/
def State.mailboxConsumed (s : State) (p base phase : Nat) : State :=
  match s.mailboxEntry p (base + 0x10000) with
  | some e => s.writeFull p (s.physAt p e (base + 0x10000 - e.base)) (leBytes 8 phase)
  | none => s

/-- Is the record held back, by a page under migration or by its line's recall during a width change, so that the action that
reads it is not carried out yet (R289, R340, R383, R426)? -/
def State.mailboxHeld (s : State) (p base phase : Nat) : Bool :=
  let a := base + (phase + 511) % 512 * 128
  match s.mailboxEntry p a with
  | some e => s.ownGate (s.physAt p e (a - e.base)) != .clear
  | none => false

/-- A LAUNCH action acts as a record with default parameters (R361). -/
def defaultRecord (lid : Nat) : List Byte := padTo 128 (leBytes 2 lid)

/-- Does an action still pending bring work to a launch (R373)? -/
def State.bringsWork (s : State) (p lid : Nat) (l : Launch) (k : Counter) : Bool :=
  k.part == p && k.waiting.any (fun w => match w.action with
    | 2 => l.queues.contains w.arg
    | 3 => w.arg == lid
    | 5 => leAt (s.mailboxRecord p w.base w.phase) 0 2 == lid
    | _ => false)

/-- A launch leaves its partition (R360): what runs of it is discarded, its walk contexts go, its waiting starts are
forgotten, its queues and its identifier are released, and no core's last node is of it any more (R71, R368). -/
def State.dropLaunch (s : State) (p lid : Nat) : State :=
  match s.launch? p lid with
  | none => s
  | some l =>
    let s1 := (s.clearLaunch p lid).freeWalks p lid
    let s2 : State := { s1 with cores := s1.cores.mapVals (fun _ k =>
      { k with last := k.last.filter (fun e => !(e.1 == p && e.2.1 == lid)) }) }
    s2.updPart p (fun v =>
      { v with launches := v.launches.erase lid, queues := v.queues.filter (fun e => !l.queues.contains e.1),
               launchQ := v.launchQ.filter (fun q => leAt q.bytes 0 2 != lid) })

/-- Is a launch quiescent (R373)? -/
def State.quiescent (s : State) (p lid : Nat) : Bool :=
  match s.launch? p lid with
  | none => false
  | some l =>
    (s.busyCores p).all (fun c => (s.coreAt c).node.launch != lid)
      && (s.part p).saved.all (fun x => x.node.launch != lid)
      && (s.part p).queues.all (fun q => q.2.launch != lid || q.2.slots.all (fun sl => sl.st == .free))
      && !s.counters.any (fun e => s.bringsWork p lid l e.2)

/-- The quiescent-since marks of a partition's running launches brought up to date (R373). -/
def State.markQuiet (s : State) (p : Nat) : State :=
  s.updPart p (fun v => { v with launches := v.launches.mapVals (fun lid l =>
    if l.state ≠ .running then l
    else if s.quiescent p lid then { l with quiet := some (l.quiet.getD s.gtc) }
    else { l with quiet := none }) })

end Sys2Proof.Machine
end

