-- ==== Sys2Proof/Machine/Counters.lean ====
section
/-! DEFINITION. Arrival counters: arming, deliveries, fires and their actions (R327 to R340). -/

namespace Sys2Proof.Machine

/-- Wakes sent to the S strands that wait on a counter for a phase now reached (R153, R337). -/
def State.wake (s : State) (ctr : Nat) : State :=
  let now := (s.counter ctr).phase
  { s with cores := s.cores.mapVals (fun _ k =>
      match (k.strand .S).cond with
      | .counter c p _ => if c = ctr ∧ reached now p then k.updStrand .S (fun t => { t with woken := true }) else k
      | _ => k) }

/-- Does some strand wait on a counter (WAITERS of R329)? -/
def State.hasWaiters (s : State) (ctr : Nat) : Bool :=
  s.cores.any (fun e => match (e.2.strand .S).cond with
    | .counter c _ _ => c == ctr
    | _ => false)

/-- What a counter does at a fire for a phase, as its registers stand then (R337). -/
def Counter.due (k : Counter) (phase : Nat) : Waiting :=
  { phase := phase, action := k.action, arg := k.arg, item := k.item, late := k.late, base := k.vbase }

/-- One action of a counter (R337), or nothing when it finds no room (R338). -/
def State.tryAction (s : State) (ctr : Nat) (w : Waiting) : Option State :=
  let p := (s.counter ctr).part
  match w.action with
  | 1 => some (s.wake ctr)
  | 2 => s.placeItem p w.arg w.item w.late
  | 3 =>
    if (s.part p).launchQ.length < 64 then some (s.consume p { bytes := defaultRecord w.arg, src := .action ctr }) else none
  | 4 => some { s with deliveries := s.deliveries ++ [{ ctr := w.arg, n := 1 }] }
  | 5 =>
    if (s.part p).launchQ.length < 64 ∧ !s.mailboxHeld p w.base w.phase then
      let r := s.mailboxReady p w.base w.phase
      some ((r.consume p { bytes := r.mailboxRecord p w.base w.phase, src := .mailbox w.phase }).mailboxConsumed p w.base w.phase)
    else none
  | _ => some s

/-- An action that waits (R338): queued in phase order, or lost past 255 with OVFL and a record. -/
def State.pendAction (s : State) (ctr : Nat) (w : Waiting) : State :=
  let k := s.counter ctr
  if 255 ≤ k.waiting.length then
    (s.setCounter ctr { k with ovfl := true }).report k.part { kind := 6, cause := 0, arg := ctr }
  else s.setCounter ctr { k with waiting := k.waiting ++ [w] }

/-- One fire (R336): the phase advances and the action runs once for it, behind actions that wait. -/
def State.fire (s : State) (ctr : Nat) : State :=
  let k := s.counter ctr
  let ph := (k.phase + 1) % 2 ^ 32
  let s1 := s.setCounter ctr { k with count := k.count - k.total, phase := ph, fires := (k.fires + 1) % 2 ^ 64 }
  let waits := k.action = 2 ∨ k.action = 3 ∨ k.action = 5
  if waits ∧ k.waiting ≠ [] then s1.pendAction ctr (k.due ph)
  else match s1.tryAction ctr (k.due ph) with
    | some s2 => s2
    | none => s1.pendAction ctr (k.due ph)

/-- Fires of a counter, at most n, while its count reaches its total (R336). -/
def State.fires (ctr : Nat) : Nat → State → State
  | 0, s => s
  | n + 1, s =>
    let k := s.counter ctr
    if k.armed ∧ k.total ≤ k.count then State.fires ctr n (s.fire ctr) else s

/-- A delivery of n bytes applied at the counter's home in one step (R336); the total is at least 1. -/
def State.applyDelivery (s : State) (ctr n : Nat) : State :=
  let k := s.counter ctr
  if k.armed then
    State.fires ctr ((k.count + n) / k.total) (s.setCounter ctr { k with count := k.count + n })
  else s

/-- The oldest waiting action, as it stood at its fire, tried again (R338). -/
def State.retryAction (s : State) (ctr : Nat) : State :=
  let k := s.counter ctr
  match k.waiting with
  | [] => s
  | w :: t =>
    match (s.setCounter ctr { k with waiting := t }).tryAction ctr w with
    | some s1 => s1
    | none => s

/-- The physical lines of a region that one entry holds (R330). -/
def State.regionLines (s : State) (p : Nat) (e : RangeEntry) (vbase vlen : Nat) : List Nat :=
  (List.range (vlen / 128)).map (fun i => s.redirect (s.physAt p e (vbase - e.base + 128 * i)) / 128)

/-- May a counter be armed over these lines (R330): no byte in another armed region, and room for one entry
more in the filter of every home agent that holds a line? -/
def State.regionFree (s : State) (ctr : Nat) (lines : List Nat) : Bool :=
  let others := s.counters.filter (fun e => e.2.armed && e.1 != ctr)
  others.all (fun e => lines.all (fun l => !e.2.lines.contains l)) &&
    lines.all (fun l => decide ((others.filter (fun e => e.2.lines.any (fun m => m / 2 ^ 22 == l / 2 ^ 22))).length < 256))

/-- A counter armed at its home (R266, R330): count 0, phase kept. -/
def State.arm (s : State) (ctr part vbase vlen total action arg : Nat) (item : List Byte) (lines : List Nat)
    (late : List (List Byte)) : State :=
  let k := s.counter ctr
  s.setCounter ctr { k with vbase := vbase, vlen := vlen, total := total, count := 0, armed := true, part := part,
                            action := action, arg := arg, item := item, lines := lines, late := late }

/-- A counter disarmed (R331): ARMED, COUNT and PEND cleared, PHASE kept; waiting strands issue again. -/
def State.disarm (s : State) (ctr : Nat) : State :=
  let k := s.counter ctr
  let s1 := s.setCounter ctr { k with armed := false, count := 0, waiting := [], lines := [], late := [] }
  { s1 with cores := s1.cores.mapVals (fun _ k =>
      match (k.strand .S).cond with
      | .counter c _ _ => if c = ctr then k.updStrand .S (fun t => { t with woken := true }) else k
      | _ => k) }

/-- A launch is unloaded (R360): the counters of its object that no other launch of the partition has are disarmed, and it
leaves the partition; a node that owes a trap and has no handler fails the launch first (R316). While a node of the launch
commits, the unload waits to be asked again (DEDUCED, log 89). -/
def State.unload (s : State) (p lid : Nat) : State :=
  match s.launch? p lid with
  | none => s
  | some l =>
    if (s.busyCores p).any (fun c => (s.coreAt c).node.launch == lid && (s.coreAt c).node.phase == .committing) then s
    else
    let s := if s.owesFailure p lid then s.failLaunch p lid else s
    let others := ((s.part p).launches.filter (fun e => e.1 != lid)).flatMap (fun e => e.2.ctrs)
    ((l.ctrs.filter (fun c => !others.contains c)).foldl State.disarm s).dropLaunch p lid

/-- The checks of R152 on a counter operand, without the test of arming: cause 0x0F, 0x02, 0x07. -/
def State.counterCheck (s : State) (p c : Nat) : Option (BitVec 8) :=
  if 2 ^ 16 ≤ c then some 0x0F
  else if !s.present (homeOf c) then some 0x02
  else if !s.inShare p c then some 0x07
  else none

/-- The checks of R152 in order. -/
def State.counterCheckArmed (s : State) (p c : Nat) : Option (BitVec 8) :=
  match s.counterCheck p c with
  | some e => some e
  | none => if (s.counter c).armed then none else some 0x0F

end Sys2Proof.Machine
end

