-- ==== Sys2Proof/Machine/Operands.lean ====
section
/-! DEFINITION. Operand forms: vector elements under their tags (R25, R170), masks (R171), sources that are
registers or latches (R111), what an instruction reads and yields for latch chains (R117), and the source checks of
R173 and R174. -/

namespace Sys2Proof.Machine

/-- The latches of two sources under LS: bit 0 for va, bit 1 for vb (R111). -/
def latchPair (va vb : BitVec 5) (ls : BitVec 2) : List (BitVec 2) :=
  (if ls.getLsbD 0 then [va.setWidth 2] else []) ++ (if ls.getLsbD 1 then [vb.setWidth 2] else [])

/-- The latch of one source under LS (R111). -/
def latchOne (va : BitVec 5) (ls : BitVec 1) : List (BitVec 2) := if ls.getLsbD 0 then [va.setWidth 2] else []

/-- The latches that a V instruction reads (R111). -/
def latchReads : Instr → List (BitVec 2)
  | .vadd _ _ va vb _ _ ls => latchPair va vb ls
  | .vsub _ _ va vb _ _ ls => latchPair va vb ls
  | .vmul _ _ va vb _ _ ls => latchPair va vb ls
  | .vfma _ _ va vb _ ls => latchPair va vb ls
  | .vmin _ _ va vb _ _ ls => latchPair va vb ls
  | .vmax _ _ va vb _ _ ls => latchPair va vb ls
  | .vabs _ _ va _ _ ls => latchOne va ls
  | .vneg _ _ va _ _ ls => latchOne va ls
  | .vdiv _ _ va vb _ _ ls => latchPair va vb ls
  | .vrcp _ _ va _ _ ls => latchOne va ls
  | .vrsq _ _ va _ _ ls => latchOne va ls
  | .vsqrt _ _ va _ _ ls => latchOne va ls
  | .vexp2 _ _ va _ _ ls => latchOne va ls
  | .vlog2 _ _ va _ _ ls => latchOne va ls
  | .vadds _ _ va vb _ _ ls => latchPair va vb ls
  | .vsubs _ _ va vb _ _ ls => latchPair va vb ls
  | .vand _ _ va vb _ _ ls => latchPair va vb ls
  | .vor _ _ va vb _ _ ls => latchPair va vb ls
  | .vxor _ _ va vb _ _ ls => latchPair va vb ls
  | .vsll _ _ va vb _ _ ls => latchPair va vb ls
  | .vsrl _ _ va vb _ _ ls => latchPair va vb ls
  | .vsra _ _ va vb _ _ ls => latchPair va vb ls
  | .vsllI _ _ va _ _ _ ls => latchOne va ls
  | .vsrlI _ _ va _ _ _ ls => latchOne va ls
  | .vsraI _ _ va _ _ _ ls => latchOne va ls
  | .vbfx _ _ va vb _ _ ls => latchPair va vb ls
  | .vbfxU _ _ va vb _ _ ls => latchPair va vb ls
  | .vfsh _ _ va vb _ ls => latchPair va vb ls
  | .vpopc _ _ va _ _ ls => latchOne va ls
  | .vclz _ _ va _ _ ls => latchOne va ls
  | .vcmpEq _ _ va vb _ ls => latchPair va vb ls
  | .vcmpNe _ _ va vb _ ls => latchPair va vb ls
  | .vcmpLt _ _ va vb _ ls => latchPair va vb ls
  | .vcmpLe _ _ va vb _ ls => latchPair va vb ls
  | .vsel _ _ va vb _ _ ls => latchPair va vb ls
  | .vmov _ _ va _ _ ls => latchOne va ls
  | .vbcast _ _ va vb _ _ ls => latchPair va vb ls
  | .vperm _ _ va vb _ _ ls => latchPair va vb ls
  | .vrot _ _ va vb _ _ ls => latchPair va vb ls
  | .vredAdd _ _ va _ _ ls => latchOne va ls
  | .vredMin _ _ va _ _ ls => latchOne va ls
  | .vredMax _ _ va _ _ ls => latchOne va ls
  | .vscanAdd _ _ va _ _ ls => latchOne va ls
  | .vcvt _ _ _ va _ _ _ ls => latchOne va ls
  | .vcvtRz _ _ _ va _ _ _ ls => latchOne va ls
  | .vcvtSr _ _ _ va _ _ _ ls => latchOne va ls
  | .vsplit3 _ _ va _ _ _ ls => latchOne va ls
  | .vld _ _ va _ _ _ ls => latchOne va ls
  | .vst _ va vb _ ls => latchPair va vb ls
  | .vldm _ _ va _ _ _ ls => latchOne va ls
  | .vstm _ va vb _ ls => latchPair va vb ls
  | .vgath _ _ va _ _ _ ls => latchOne va ls
  | .vscat _ va vb _ ls => latchPair va vb ls
  | .vldf _ _ va _ _ _ ls => latchOne va ls
  | .vstf _ _ va vb _ ls => latchPair va vb ls
  | .vpal _ va _ ls => latchOne va ls
  | .vcgen _ _ va vb _ _ ls => latchPair va vb ls
  | .vovf _ va _ ls => latchOne va ls
  | .vadam _ _ va vb _ ls => latchPair va vb ls
  | .vqenc _ _ va vb _ _ ls => latchPair va vb ls
  | .vqencPal1 _ _ va vb _ _ ls => latchPair va vb ls
  | _ => []

/-- Does a V instruction yield a vector result (R44)? -/
def yields : Instr → Bool
  | .vadd _ _ _ _ _ _ _ => true
  | .vsub _ _ _ _ _ _ _ => true
  | .vmul _ _ _ _ _ _ _ => true
  | .vfma _ _ _ _ _ _ => true
  | .vmin _ _ _ _ _ _ _ => true
  | .vmax _ _ _ _ _ _ _ => true
  | .vabs _ _ _ _ _ _ => true
  | .vneg _ _ _ _ _ _ => true
  | .vdiv _ _ _ _ _ _ _ => true
  | .vrcp _ _ _ _ _ _ => true
  | .vrsq _ _ _ _ _ _ => true
  | .vsqrt _ _ _ _ _ _ => true
  | .vexp2 _ _ _ _ _ _ => true
  | .vlog2 _ _ _ _ _ _ => true
  | .vadds _ _ _ _ _ _ _ => true
  | .vsubs _ _ _ _ _ _ _ => true
  | .vand _ _ _ _ _ _ _ => true
  | .vor _ _ _ _ _ _ _ => true
  | .vxor _ _ _ _ _ _ _ => true
  | .vsll _ _ _ _ _ _ _ => true
  | .vsrl _ _ _ _ _ _ _ => true
  | .vsra _ _ _ _ _ _ _ => true
  | .vsllI _ _ _ _ _ _ _ => true
  | .vsrlI _ _ _ _ _ _ _ => true
  | .vsraI _ _ _ _ _ _ _ => true
  | .vbfx _ _ _ _ _ _ _ => true
  | .vbfxU _ _ _ _ _ _ _ => true
  | .vfsh _ _ _ _ _ _ => true
  | .vpopc _ _ _ _ _ _ => true
  | .vclz _ _ _ _ _ _ => true
  | .vsel _ _ _ _ _ _ _ => true
  | .vmov _ _ _ _ _ _ => true
  | .vbcast _ _ _ _ _ _ _ => true
  | .vperm _ _ _ _ _ _ _ => true
  | .vrot _ _ _ _ _ _ _ => true
  | .vli _ _ _ _ _ => true
  | .vidx _ _ _ _ => true
  | .vredAdd _ _ _ _ _ _ => true
  | .vredMin _ _ _ _ _ _ => true
  | .vredMax _ _ _ _ _ _ => true
  | .vscanAdd _ _ _ _ _ _ => true
  | .vcvt _ _ _ _ _ _ _ _ => true
  | .vcvtRz _ _ _ _ _ _ _ _ => true
  | .vcvtSr _ _ _ _ _ _ _ _ => true
  | .vsplit3 _ _ _ _ _ _ _ => true
  | .vld _ _ _ _ _ _ _ => true
  | .vldm _ _ _ _ _ _ _ => true
  | .vgath _ _ _ _ _ _ _ => true
  | .vldf _ _ _ _ _ _ _ => true
  | .vcgen _ _ _ _ _ _ _ => true
  | .vadam _ _ _ _ _ _ => true
  | .vqenc _ _ _ _ _ _ _ => true
  | .vqencPal1 _ _ _ _ _ _ _ => true
  | _ => false

/-- Does a V instruction store (R279)? -/
def vStores : Instr → Bool
  | .vst _ _ _ _ _ => true
  | .vstm _ _ _ _ _ => true
  | .vscat _ _ _ _ _ => true
  | .vstf _ _ _ _ _ _ => true
  | _ => false

/-- May a V instruction only be a chain's tail (R117 limit 3)? -/
def tailOnly : Instr → Bool
  | .vcvtSr _ _ _ _ _ _ _ _ => true
  | .vst _ _ _ _ _ => true
  | .vstm _ _ _ _ _ => true
  | .vscat _ _ _ _ _ => true
  | .vstf _ _ _ _ _ _ => true
  | .vpal _ _ _ _ => true
  | .vlsc _ => true
  | _ => false

/-- A vector source: its value, its operand code in TVAL (R174), and whether it is a cleared latch (R44). -/
structure Src where
  val     : VReg
  code    : Nat
  cleared : Bool
  deriving DecidableEq, Repr

/-- A source: a register, or a latch when its LS bit is set; a cleared latch reads as POISON (R44, R111). -/
def Core.src (k : Core) (sel : Bool) (r : BitVec 5) (code : Nat) : Src :=
  if sel then
    let l := vget k.lat (r.toNat % 4) { val := VReg.zero, valid := false }
    if l.valid then { val := l.val, code := 5, cleared := false }
    else { val := { l.val with tag := 0xF }, code := 5, cleared := true }
  else { val := k.getV r, code := code, cleared := false }

/-- A register as a source. -/
def Core.srcReg (k : Core) (r : BitVec 5) (code : Nat) : Src := k.src false r code

/-- Width in bits of an element of a tag (R25). -/
def tagWidth : Nat → Nat
  | 3 | 8 | 9 => 16
  | 4 | 5 | 10 | 11 | 13 => 8
  | 12 => 2
  | 6 => 64
  | _ => 32

/-- Elements in a register of a tag (R170). -/
def tagCount (t : Nat) : Nat := 2048 / tagWidth t

namespace VReg

/-- Lane i. -/
def lane (v : VReg) (i : Nat) : Lane := vget v.lanes i 0

/-- Element e under the register's tag (R25). -/
def elem (v : VReg) (e : Nat) : Nat :=
  let w := tagWidth v.tag.toNat
  if w = 64 then (v.lane (2 * e)).toNat + (v.lane (2 * e + 1)).toNat * 2 ^ 32
  else field (v.lane (e / (32 / w))).toNat (e % (32 / w) * w) w

end VReg

/-- The lanes that hold elements f 0, f 1, … of width w (R25). -/
def packElems (w : Nat) (f : Nat → Nat) : Vector Lane 64 :=
  if w = 64 then tab 64 (fun i => BitVec.ofNat 32 (f (i / 2) / 2 ^ (32 * (i % 2))))
  else
    let m := 32 / w
    tab 64 (fun i => BitVec.ofNat 32 ((List.range m).foldl (fun a n => a + f (i * m + n) % 2 ^ w * 2 ^ (w * n)) 0))

/-- Is lane i enabled by a mask (R171)? -/
def laneOn (mask : Word) (i : Nat) : Bool := bitOf mask.toNat i

/-- Is element e of a tag enabled (R171): F64 element i by bit 2i, else the bit of its lane? -/
def elemOn (mask : Word) (tag e : Nat) : Bool :=
  let w := tagWidth tag
  if w = 64 then bitOf mask.toNat (2 * e) else bitOf mask.toNat (e / (32 / w))

/-- A register of a tag from its elements, disabled elements taking what the form gives (R171). -/
def ofElems (tag : Nat) (mask : Word) (off f : Nat → Nat) : VReg :=
  { lanes := packElems (tagWidth tag) (fun e => if elemOn mask tag e then f e else off e), tag := BitVec.ofNat 4 tag }

/-- A register from its lanes under a tag, disabled lanes zero (R171). -/
def ofLanes (tag : BitVec 4) (mask : Word) (f : Nat → Lane) : VReg :=
  { lanes := tab 64 (fun i => if laneOn mask i then f i else 0), tag := tag }

/-- TVAL of causes 0x04 and 0x05: operand code and tag (R174). -/
def tagTval (code : Nat) (tag : BitVec 4) : Word := BitVec.ofNat 64 (code * 256 + tag.toNat)

/-- A check before an instruction takes effect: it passes, traps with a cause and TVAL, meets poison that rolls
the node back (space and address of PSNA), or makes the strand wait. -/
inductive Check where
  | pass
  | trap (cause : BitVec 8) (tval : Word)
  /-- A trap whose TVAL the manual does not state: a free value (log 6). -/
  | trapOpen (cause : BitVec 8)
  | poison (space : BitVec 2) (addr : Nat)
  | wait (c : Cond)
  deriving DecidableEq, Repr

/-- The first check of a list that does not pass. -/
def Check.all : List Check → Check
  | [] => .pass
  | .pass :: t => Check.all t
  | c :: _ => c

/-- A trap when a condition holds. -/
def Check.trapIf (b : Bool) (cause : BitVec 8) (tval : Word) : Check := if b then .trap cause tval else .pass

/-- A trap with an unstated TVAL when a condition holds. -/
def Check.openIf (b : Bool) (cause : BitVec 8) : Check := if b then .trapOpen cause else .pass

/-- Source checks of R173 in order: a cleared latch, a POISON source, a tag outside the accepted set; each over
the sources in operand order. -/
def srcChecks (l : List (Src × List Nat)) : Check :=
  match l.find? (fun e => e.1.cleared) with
  | some e => .trap 0x05 (tagTval e.1.code e.1.val.tag)
  | none =>
    match l.find? (fun e => e.1.val.tag == 0xF) with
    | some e => .trap 0x05 (tagTval e.1.code e.1.val.tag)
    | none =>
      match l.find? (fun e => !e.2.contains e.1.val.tag.toNat) with
      | some e => .trap 0x04 (tagTval e.1.code e.1.val.tag)
      | none => .pass

/-- Every tag other than POISON (R172). -/
def anyTag : List Nat := [0, 1, 2, 3, 4, 5, 6, 7, 8, 9, 10, 11, 12, 13]
/-- Tags of an address, index, count, counter or key (R172). -/
def addrTags : List Nat := [0, 1, 2]
/-- Tags of element-wise arithmetic (R172). -/
def arithTags : List Nat := [1, 2, 3, 4, 5, 6, 7, 8, 9]
/-- Tags of `vdiv` (R172). -/
def divTags : List Nat := [6, 7, 8, 9]
/-- Tags of saturating arithmetic (R172). -/
def intTags : List Nat := [1, 2, 3, 4, 5]
/-- Tags of shifts and bit counts (R172). -/
def shiftTags : List Nat := [0, 1, 2, 3, 4, 5]
/-- Tags of compares, reductions and scans (R172). -/
def cmpTags : List Nat := [1, 2, 6, 7]

end Sys2Proof.Machine
end

