-- ==== Sys2Proof/Machine/Ops.lean ====
section
/-! DEFINITION. What every instruction shares: fetch (R127), breakpoints (R60), pop, checks, retirement and push
(R128, R274), latch chains (R117, R118, R279), the power check (R448), taking a trap (R281, R282) and the return
from one (R168, R283), and rollback (R439). -/

namespace Sys2Proof.Machine

/-- What a fetch gives. -/
inductive Fetched where
  | word (w : BitVec 32)
  | fault (cause : BitVec 8)
  | poison (addr : Nat)
  /-- The word lies in a page under migration, or its request waits at a port whose width changes, and is fetched once that is
  over (R383, R426). -/
  | held
  /-- The word lies in host memory, and port 0 has no link (R427). -/
  | lost
  deriving DecidableEq, Repr

/-- The word behind an executable place. -/
def State.placeWord (s : State) : Place → Fetched
  | .scratch _ => .fault 0x06
  | .window c off =>
    let k := s.coreAt c
    if k.winPoison.contains (off / 16) then .poison off
    else .word (BitVec.ofNat 32 (leNat ((List.range 4).map (fun i => k.windowByte (off + i)))))
  | .dram pa | .host pa | .pool pa | .peer pa =>
    if s.poison.contains (pa / 16) then .poison pa else .word (BitVec.ofNat 32 (s.mem.readNat pa 4))

/-- Has port 0 no link for an access to host memory? The node then rolls back, as an engine's does (R422, R427;
DEDUCED, log 12). -/
def State.hostGone (s : State) : Place → Bool
  | .host _ => !(s.ports.get 0 Port.reset).up
  | .scratch _ | .dram _ | .window _ _ | .pool _ | .peer _ => false

/-- The fetch of the word behind an executable place: with no link to it, held back, or the word (R127, R383, R426, R427). -/
def State.fetchPlace (s : State) (q : Place) : Fetched :=
  if s.hostGone q then .lost else if s.gate s.core q != Gate.clear then .held else s.placeWord q

/-- A fetch through the range table with X permission (R127). -/
def State.fetchMapped (s : State) (pc : Nat) : Fetched :=
  match s.resolve s.me.node.part { r := false, w := false, x := true } pc with
  | .error c => .fault c
  | .ok l => s.fetchPlace l.place

/-- A strand's fetch at an address (R101, R127): zero outside the section, or, on the S strand in supervisor mode,
outside the range that holds TVEC. -/
def State.fetch (s : State) (st : Strand) (pc : Nat) : Fetched :=
  let k := s.me
  let t := k.strand st
  if st = .S ∧ k.sup then
    match s.entryOf k.node.part k.tvec.toNat with
    | none => .fault 0x06
    | some e => if !e.x then .fault 0x07 else if e.maps pc then s.fetchMapped pc else .word 0
  else if t.secBase ≤ pc ∧ pc + 4 ≤ t.secBase + t.secLen then s.fetchMapped pc
  else .word 0

/-- A strand comes to issue: the word at its PC is asked for, the line of device memory being recalled that the host holds
(R415, R417, R420), unless the request is held back (R426), and the cycle is marked as the strand's, which counts where the strand does not stand still in it
(R462). -/
def State.beginIssue (s : State) (st : Strand) : State :=
  let s1 := match s.resolve s.me.node.part { r := false, w := false, x := true } (s.me.strand st).pc.toNat with
    | .ok l => if s.gate s.core l.place == Gate.clear then s.askPlace s.core 4 l.place else s
    | .error _ => s
  s1.updMe (fun k => { k with now := { k.now with issued := st :: k.now.issued } })

/-- Is an instruction a `vloop`? -/
def isVloop : Instr → Bool
  | .vloop _ _ _ => true
  | _ => false

/-- A loop on the way ahead, with the number of results that had come when its pass began, if the way ahead holds its
beginning. -/
structure Ahead where
  loop : Loop
  mark : Option Nat
  deriving DecidableEq, Repr

/-- Where the way ahead goes behind the word at pc, when so many results have come (R116): to the first word of a body that has
passes left, and the loops then active; a pass that has yielded nothing, which the passes behind it repeat, ends its loop. -/
def loopAhead (pc since : Nat) : List Ahead → Option Nat × List Ahead
  | [] => (none, [])
  | a :: t =>
    if a.loop.last.toNat = pc then
      if 1 < a.loop.left ∧ a.mark ≠ some since then
        (some a.loop.first.toNat, { loop := { a.loop with left := a.loop.left - 1 }, mark := some since } :: t)
      else loopAhead pc since t
    else (none, a :: t)

/-- The loop that a `vloop` at pc begins, if it may issue beside those active and within a section that ends at an address
(R116). -/
def vloopAhead (pc stop since : Nat) (l : List Ahead) : Instr → Option (List Ahead)
  | .vloop _ count1 len1 =>
    if 2 ≤ l.length ∨ stop < pc + 4 * (len1.toNat + 2) then none
    else some ({ loop := { first := BitVec.ofNat 64 (pc + 4), last := BitVec.ofNat 64 (pc + 4 * (len1.toNat + 1)), left := count1.toNat + 1 },
                 mark := some since } :: l)
  | .nendV _ => none
  | _ => some l

/-- The latches that coming instructions of the V strand read, each by its depth as the latches stand now, a body's returns
followed: at most `fuel` words ahead, until four results have come, or up to `nend` (R44, R116, R117). -/
def State.lookahead (s : State) : Nat → Nat → Nat → List Ahead → List Nat
  | 0, _, _, _ => []
  | fuel + 1, pc, since, l =>
    match s.fetch .V pc with
    | .word w =>
      match decode .V w with
      | .ok i =>
        let need := (latchReads i).filterMap (fun n => if since ≤ n.toNat then some (n.toNat - since) else none)
        let since1 := since + b2n (yields i)
        let t := s.me.strand .V
        match vloopAhead pc (t.secBase + t.secLen) since1 l i with
        | none => need
        | some l1 =>
          let r := if isVloop i then (none, l1) else loopAhead pc since1 l1
          if 4 ≤ since1 then need else need ++ s.lookahead fuel (r.1.getD (pc + 4)) since1 r.2
      | .error _ => []
    | _ => []

/-- Index, in the record of past V instructions, of the producer of the latch at a depth. -/
def producerAt : List Member → Nat → Nat → Option Nat
  | [], _, _ => none
  | m :: t, d, i => if m.yields then (if d = 0 then some i else producerAt t (d - 1) (i + 1)) else producerAt t d (i + 1)

/-- The head of the run that reaches back from a member through linked boundaries. -/
def runHead (l : List Member) : Nat → Nat → Nat
  | 0, i => i
  | fuel + 1, i =>
    match l[i]? with
    | some m => if m.linked && decide (i + 1 < l.length) then runHead l fuel (i + 1) else i
    | none => i

/-- Index of the head of the chain that a latch at a depth belongs to (R117), also where a `vloop` or a body's return between
the producer and the reader has cleared the latch: limits 4 and 5 speak of such chains. -/
def Core.chainHead (k : Core) (depth : Nat) : Option Nat :=
  (producerAt k.chain depth 0).map (runHead k.chain k.chain.length)

/-- More words than four results and the passes between them can need. -/
def StrandSt.wordsAhead (t : StrandSt) : Nat := 8 * (t.secLen / 4)

/-- Has the strand issued its last instruction, its `nend`, whose push may still be held (R101, R211, R274)? -/
def Cond.pastEnd : Cond → Bool
  | .ended => true
  | .pushHold _ _ last => last
  | _ => false

/-- The chain that the V strand stands inside, by its head's index, if any: some coming instruction reads a result that has
come, and the one whose chain reaches back furthest counts (R117, R278). The words behind a retired `nend` have no
effect (R101). -/
def State.vInside (s : State) : Option Nat :=
  let t := s.me.strand .V
  if t.cond.pastEnd then none
  else
    ((s.lookahead t.wordsAhead t.pc.toNat 0 (s.me.loops.map (fun l => { loop := l, mark := none }))).filterMap s.me.chainHead).max?

/-- Is a waiting access one that a freeze ends, to be issued again (R169)? -/
def endsWait : Instr → Bool
  | .solve _ _ _ => true
  | _ => false

/-- Does strand st stand at a boundary (R278)? None with a memory access outstanding, each in pop stall or push hold, and else
every strand but a V strand inside a chain. -/
def State.atBoundary (s : State) (st : Strand) : Bool :=
  match (s.me.strand st).cond with
  | .memory i => endsWait i && (st != .V || s.vInside.isNone)
  | .popStall _ | .pushHold _ _ _ => true
  | _ => st != .V || s.vInside.isNone

/-- The trap check of R118 on an instruction that reads latches: limits 1 to 4 of the chain it would extend. -/
def Core.chainBroken (k : Core) (i : Instr) (t : Tok) : Bool :=
  (latchReads i).any (fun n =>
    match k.chainHead n.toNat with
    | none => false
    | some h =>
      let ms := k.chain.take (h + 1)
      decide (7 < ms.length) || t.pop != 0 || (ms.take h).any (fun m => m.popped.isSome || m.loop)
        || ms.any (fun m => m.pushed || m.tailOnly))

/-- The part of a record that latch reads to come can reach: back to the fourth-last result, and through the run that it
belongs to; n counts the results so far (R44, R117). -/
def keepReachable : List Member → Nat → List Member
  | [], _ => []
  | m :: t, n =>
    let n1 := n + b2n m.yields
    if n1 < 4 ∨ m.linked then m :: keepReachable t n1 else [m]

/-- An issued V instruction goes into the record of past ones; its latch reads link the boundaries back to their
producers (R117). -/
def Core.recordV (k : Core) (i : Instr) (t : Tok) (pc : Word) : Core :=
  let far := (latchReads i).foldl (fun b n =>
    match producerAt k.chain n.toNat 0 with
    | some j => max b (j + 1)
    | none => b) 0
  let old := k.chain.zipIdx.map (fun e => if e.2 + 1 < far then { e.1 with linked := true } else e.1)
  let m : Member := { pc := pc, yields := yields i, popped := if t.pop = 0 then none else some (popFifo .V t.pop),
                      pushed := t.push != 0, stores := vStores i, tailOnly := tailOnly i, loop := isVloop i,
                      linked := decide (0 < far) }
  { k with chain := keepReachable (m :: old) 0 }

/-- The token of a waiting or trapping instruction returns to the head of its FIFO (R128). -/
def Core.returnToken (k : Core) (st : Strand) : Core :=
  let t := k.strand st
  match t.popped with
  | some n => (k.putBack n).setStrand st { t with popped := none }
  | none => k

/-- A strand gives up its wait (R169, R278): its token returns, and it issues again later. -/
def State.abandonWait (s : State) (st : Strand) : State :=
  let t := s.me.strand st
  match t.cond with
  | .popStall _ | .queueFull | .counter _ _ _ | .power | .fence =>
    s.updMe (fun k => (k.returnToken st).updStrand st (fun t => { t with cond := .ready, woken := false }))
  | .pacq =>
    (s.withdrawPacq s.core).updMe (fun k =>
      { (k.returnToken st).updStrand st (fun t => { t with cond := .ready, woken := false }) with pend := false })
  | .ready | .pushHold _ _ _ => s.updMe (fun k => k.returnToken st)
  | .memory i =>
    if endsWait i then s.updMe (fun k => (k.returnToken st).updStrand st (fun t => { t with cond := .ready })) else s
  | .ended | .ending => s

/-- A strand that did not trap freezes if it stands at a boundary (R281). -/
def State.freeze (s : State) (st : Strand) : State :=
  if s.atBoundary st then (s.abandonWait st).updMe (fun k => k.updStrand st (fun t => { t with frozen := true })) else s

/-- Entering a trap on the issuing core (R281): the trapping instruction has no effect and its token returns; in
supervisor mode the trap is nested (R282); without a handler the node fails (R59); else TCAUSE, TEPC, TVAL and
TSTAT are written, the latches are cleared, and the other strands freeze at their boundaries. A V strand of another
strand's trap that stands inside a chain keeps its latches until that boundary (DEDUCED, log 10). -/
def State.enterTrap (s : State) (st : Strand) (i : TrapInfo) : State :=
  let s1 := (s.updMe (fun k => k.returnToken st)).count s.me.node.part 0x0014
  let addr := i.failAddr s.me
  if s1.me.sup then
    s1.failNode s.core { kind := 9, cause := i.cause.toNat, flags := 2 + i.flags st, pc := i.tepc, value := i.tval, addr := addr }
  else if !s1.me.node.handler then
    s1.failNode s.core { kind := 1, cause := i.cause.toNat, flags := i.flags st, pc := i.tepc, value := i.tval, addr := addr }
  else
    let s2 := s1.updMe (fun k =>
      { k.updStrand st (fun t => { t with frozen := true, pending := none }) with
        tcause := i.word st, tepc := i.tepc, tval := i.tval, psup := k.sup, sup := true,
        node := { k.node with phase := .trapEntry, trapper := st, trap := some i } })
    let s3 := ([Strand.S, .V, .M, .C].filter (fun x => x != st)).foldl (fun a x => a.freeze x) s2
    if st = .V ∨ (s3.me.strand .V).frozen then s3.updMe Core.clearLatches else s3

/-- Does a save that is under way keep the strand's pending trap for its image: a post-completion record made while the
node drains (DEDUCED from R72, R316 and R388, log 93)? -/
def Core.keepsTrap (k : Core) (st : Strand) : Bool :=
  k.node.saveAt.isSome && ((k.strand st).pending.map (·.kept)).getD false

/-- The trap that the M strand enters before another strand's (R316): one that it owes since an earlier cycle. -/
def Core.owedBefore (k : Core) (cycle : Nat) (st : Strand) : Option TrapInfo :=
  match k.owedTrap with
  | some i => if st ≠ .M ∧ i.made < cycle ∧ !k.keepsTrap .M then some i else none
  | none => none

/-- Taking a trap on the issuing core (R281). Where the M strand still owes its own (R316), that one is entered, and
strand st, whose instruction does not issue, raises its trap again when it issues after the return, as R58 has it of the
second of two traps. -/
def State.takeTrap (s : State) (st : Strand) (i : TrapInfo) : State :=
  match s.me.owedBefore s.cycle st with
  | some j => (s.updMe (fun k => k.returnToken st)).enterTrap .M j
  | none => s.enterTrap st i

/-- A V strand that traps on the way to its boundary after another strand's trap (R58, log 13): it freezes, at its
chain's head when the chain can start again, and raises its trap when it issues again. -/
def State.deferTrap (s : State) (st : Strand) (i : TrapInfo) (again : Bool) : State :=
  s.updMe (fun k => ((k.returnToken st).updStrand st (fun t =>
    { t with frozen := true, pc := if again then i.tepc else t.pc, pending := if again then t.pending else some i })).clearLatches)

/-- A trap taken now, or deferred behind another strand's trap; in a node that is to be rolled back or discarded the strand
stops, and no handler runs (R284). -/
def State.raiseTrap (s : State) (st : Strand) (i : TrapInfo) (again : Bool) : State :=
  if s.me.node.ending.isSome ∨ s.me.node.phase = .trapEntry then s.deferTrap st i again else s.takeTrap st i

/-- The post-completion trap that core c's M strand still owes is entered ahead of an asynchronous event (R316). -/
def State.raiseOwed (s : State) (c : Nat) : State :=
  match (s.coreAt c).owedTrap with
  | some i => State.enterTrap { s with core := c } .M i
  | none => s

/-- Has every strand of core c stopped where a rollback or a discard may take the node (R278, R284)? -/
def State.atRest (s : State) (c : Nat) : Bool :=
  let b : State := { s with core := c }
  [Strand.S, .V, .M, .C].all (fun st => (b.me.strand st).frozen || b.atBoundary st)

/-- A strand stops inside its instruction, which meets an error (R437, R439). -/
def State.stopStrand (s : State) (c : Nat) (st : Strand) : State :=
  s.updCore c (fun k => (k.returnToken st).updStrand st (fun t => { t with frozen := true }))

/-- The strands of core c that stand at boundaries give up their waits (R169, R278, R385). -/
def State.giveUpWaits (s : State) (c : Nat) : State :=
  { [Strand.S, .V, .M, .C].foldl (fun a st => if a.atBoundary st then a.abandonWait st else a) { s with core := c } with core := s.core }

/-- The gang of core c's node is to end in this way once its strands have stopped (R284, R371). -/
def State.endLater (s : State) (c : Nat) (e : Ending) : State :=
  (s.gangOf c).foldl (fun a d => (a.giveUpWaits d).updCore d (fun k =>
    { k with node := { k.node with ending := some (if d = c then e else .gang c) } })) s

/-- What is to end core c's node, its own or its gang's. -/
def State.endingOf (s : State) (c : Nat) : Option Ending :=
  match (s.coreAt c).node.ending with
  | some (.gang d) => (s.coreAt d).node.ending
  | e => e

/-- The rollback of core c's node with its gang, saved members included (R371, R439 to R441): the items return with one
attempt more; a member that is pinned, or at its third attempt, fails the launch with a record that carries the GTC of
the detection. -/
def State.rollbackNow (s : State) (c : Nat) (cause strand : Nat) (pc addr : Word) (gtc : Nat) : State :=
  let nd := (s.coreAt c).node
  let cs := s.gangOf c
  let all := cs.map (fun d => (s.coreAt d).node) ++ (s.savedGang nd).map (·.node)
  let pinned := all.any (·.pinned)
  let tries := all.foldl (fun m d => max m (d.attempt + 1)) 0
  let rec0 : ErrRec :=
    { kind := if pinned then 3 else 2, cause := cause,
      flags := (if pinned then 1 else 0) + (if nd.phase = .handler then 2 else 0) + strand * 16,
      attempt := if pinned then nd.attempt else tries, launch := nd.launch, stage := nd.stage,
      core := c, pc := pc, addr := addr }
  let s1 := cs.foldl (fun a d =>
    let m := (a.coreAt d).node
    (a.teardown d).settleSlots m .ready true) s
  if pinned ∨ 3 ≤ tries then (s1.reportAt nd.part gtc rec0).failLaunch nd.part nd.launch
  else (s1.countN nd.part 0x0008 cs.length).dropSavedGang nd true

/-- A rollback of core c's node (R284, R439): strands that stand inside a latch chain or wait for memory run on to their next
boundary first, but for one that stops in its instruction. A rollback under way takes a later error in; a discard under way
becomes the rollback (DESIGN CHOICE, log 111). A trap owed after an instruction's completion is entered first (R316), and a
commit that has begun is left alone. -/
def State.rollbackNode (s0 : State) (c : Nat) (cause strand : Nat) (pc addr : Word) (stops : Option Strand) : State :=
  let s := { ((s0.gangOf c).foldl State.raiseOwed s0) with core := s0.core }
  let nd := (s.coreAt c).node
  if nd.phase = .idle ∨ nd.phase = .committing then s
  else
    let s1 := (stops.map (s.stopStrand c)).getD s
    match s1.endingOf c with
    | some (.rollback _ _ _ _ _) => s1
    | _ =>
      if (s.gangOf c).all s1.atRest then s.rollbackNow c cause strand pc addr s.gtc
      else s1.endLater c (.rollback cause strand pc addr s.gtc)

/-- A trap raised at the strand's next instruction (R128); inside a latch chain TEPC is the chain's head, whose
token returns, and a chain that has pushed or stored turns the cause into 0x01 (R279). -/
def State.trapHere (s : State) (st : Strand) (cause : BitVec 8) (tval : Word) : State :=
  let pc := (s.me.strand st).pc
  match (if st = .V then s.vInside else none) with
  | none => s.raiseTrap st { cause := cause, tval := tval, tepc := pc } true
  | some h =>
    let ms := s.me.chain.take (h + 1)
    let head := ms.getLast?
    let s1 := match head.bind (·.popped) with
      | some n => s.updMe (fun k => k.putBack n)
      | none => s
    let tepc := (head.map (·.pc)).getD pc
    match ms.find? (fun m => m.pushed || m.stores) with
    | some m =>
      s1.raiseTrap st { cause := 0x01, tval := if cause = 0x01 then tval else m.pc, tepc := tepc, chain := true } false
    | none => s1.raiseTrap st { cause := cause, tval := tval, tepc := tepc, chain := true } true

/-- Newt counts a rollback for an error that the hardware of core c has shown (R466). -/
def State.tallyCore (s : State) (c : Nat) : State :=
  if (s.coreAt c).node.phase = .idle ∨ (s.coreAt c).node.phase = .committing then s
  else { s with coreTally := s.coreTally.set c (s.coreTally.get c 0 + 1) }

/-- A read that met poison in a way that rolls the node back (R435): PSNA and VSTAT are set, then R439. -/
def State.poisonHere (s : State) (st : Strand) (space : BitVec 2) (addr : Nat) : State :=
  let pc := (s.me.strand st).pc
  ((s.updMe (fun k => k.notePoison st space addr)).tallyCore s.core).rollbackNode s.core 0x20 st.num pc (BitVec.ofNat 64 addr)
    (some st)

/-- A strand stands still in a condition; the stall's first cycle is kept (R275). -/
def State.stall (s : State) (st : Strand) (c : Cond) : State :=
  s.updMe (fun k => k.updStrand st (fun t => { t with cond := c, since := if t.cond = c then t.since else s.cycle }))

/-- A strand as its own issued instructions left it: while the handler runs on S, the S strand that it displaced (R274,
R281). -/
def Core.issued (k : Core) (st : Strand) : StrandSt :=
  if st = .S ∧ k.node.phase = .handler then k.node.sSaved else k.strand st

/-- That strand changed by a function. -/
def Core.updIssued (k : Core) (st : Strand) (f : StrandSt → StrandSt) : Core :=
  if st = .S ∧ k.node.phase = .handler then { k with node := { k.node with sSaved := f k.node.sSaved } } else k.updStrand st f

/-- Has the strand pushed in the cycle under way (R274)? -/
def Core.pushedNow (k : Core) (st : Strand) : Bool := k.now.pushed.any (fun n => n / 3 == st.num)

/-- The push of a retiring instruction (R66, R274): the count rises, or the push is held at its window. -/
def Core.push (k : Core) (st : Strand) (code : BitVec 2) (pc : Word) (cycle : Nat) : Core :=
  if code = 0 then k
  else
    let n := pushFifo st code
    if k.canPush n then k.pushInto n
    else k.updStrand st (fun t => { t with cond := .pushHold n pc false, since := cycle })

/-- The strand after its instruction has issued: next PC, nothing held. -/
def StrandSt.advance (t : StrandSt) (next : Word) : StrandSt :=
  { t with pc := next, cond := .ready, popped := none, woken := false, skipBrk := none }

/-- Retirement (R128 step 5, R274): the strand moves to the next PC, the event is counted (R463), and the push takes
place or is held. -/
def State.retire (s : State) (st : Strand) (t : Tok) (next : Word) : State :=
  let s1 := s.count s.me.node.part (2 + st.num)
  let pc := (s1.me.strand st).pc
  s1.updMe (fun k => (k.updStrand st (fun x => { x.advance next with since := s.cycle })).push st t.push pc s.cycle)

/-- PC + 4 of a strand. -/
def Core.pc4 (k : Core) (st : Strand) : Word := (k.strand st).pc + 4

/-- The number of the lowest fetch breakpoint that matches the strand's next word (R60). -/
def Core.fetchBrk (k : Core) (st : Strand) : Option Nat :=
  let t := k.strand st
  if t.skipBrk = some t.pc then none
  else (List.range 4).find? (fun n =>
    bitOf k.brkc.toNat (4 * n) && field k.brkc.toNat (4 * n + 1) 2 == st.num && !bitOf k.brkc.toNat (4 * n + 3)
      && vget k.brka n 0 == t.pc)

/-- The lowest data breakpoint that matches an S access of n bytes at a (R60). -/
def Core.dataBrk (k : Core) (a n : Nat) : Option Nat :=
  (List.range 4).find? (fun i =>
    bitOf k.brkc.toNat (4 * i) && field k.brkc.toNat (4 * i + 1) 2 == 0 && bitOf k.brkc.toNat (4 * i + 3)
      && decide (a ≤ (vget k.brka i 0).toNat) && decide ((vget k.brka i 0).toNat < a + n))

/-- The pop of an instruction (R128 step 2): nothing to pop, the token taken, or none when the FIFO is empty. A
waiting instruction has popped already. -/
def State.popTok (s : State) (st : Strand) (t : Tok) : Option State :=
  if t.pop = 0 then some s
  else if ((s.me.strand st).popped).isSome then some s
  else
    let n := popFifo st t.pop
    if s.me.canPop n then some (s.updMe (fun k => (k.popFrom n).updStrand st (fun x => { x with popped := some n }))) else none

/-- An instruction's checks, and what follows them: its effect, a trap, a rollback, or a wait (R128). -/
def State.checked (s : State) (st : Strand) (chk : State → Check) (eff : State → State) : State :=
  match chk s with
  | .trap c v => s.trapHere st c v
  | .trapOpen c => s.useFree.trapHere st c s.freeVal
  | .poison sp a => s.poisonHere st sp a
  | .wait c => s.stall st c
  | .pass => eff s

/-- The steps that every stream instruction shares (R128, R173, R212, R247): decode checks, fetch breakpoint, pop,
issue checks, effect. The effect retires the instruction or leaves it waiting. -/
def issue (st : Strand) (i : Instr) (t : Tok) (dec : State → Check) (chk : State → Check) (eff : State → State)
    (s : State) : State :=
  if st = .S ∧ s.me.sup ∧ (t.pop ≠ 0 ∨ t.push ≠ 0) then s.trapHere st 0x01 ((encode i).setWidth 64)
  else
    s.checked st dec (fun s =>
      match s.me.fetchBrk st with
      | some n =>
        -- DESIGN CHOICE (log 92): the latest match of a chain is the one reported.
        if st = .V ∧ s.vInside.isSome then
          s.updMe (fun k => k.updStrand .V (fun x =>
            { x with skipBrk := some x.pc, pending := some { cause := 0x12, tval := BitVec.ofNat 64 n, tepc := x.pc } }))
        else s.takeTrap st { cause := 0x12, tval := BitVec.ofNat 64 n, tepc := (s.me.strand st).pc, fetched := true }
      | none =>
        match s.popTok st t with
        | none => s.stall st (.popStall (popFifo st t.pop))
        | some s1 =>
          s1.checked st chk eff)

/-- No check. -/
def noCheck (_ : State) : Check := .pass

/-- The charges of a core in the last 850 cycles (R448). -/
def State.window (s : State) (k : Core) : Nat :=
  ((k.charges.filter (fun e => decide (s.cycle < e.1 + 850))).map (·.2)).sum

/-- The power check of R448 on a charge in pJ: the first row that applies. -/
def State.powerCheck (s : State) (c : Nat) : Check :=
  let k := s.me
  if c = 0 then .pass
  else if budget k.grant.toNat < c then .trap 0x0A (BitVec.ofNat 64 c)
  else if k.limit = 0 then .wait .power
  else if s.window k + c ≤ k.limit then .pass
  else if c ≤ k.limit then .wait .power
  else if s.window k = 0 then .pass
  else .wait .power

/-- A charge enters the window (R448). -/
def State.charge (s : State) (c : Nat) : State :=
  if c = 0 then s
  else s.updMe (fun k => { k with charges := k.charges.filter (fun e => decide (s.cycle < e.1 + 850)) ++ [(s.cycle, c)] })

/-- The first handler instruction can issue (R281 step 5): every other strand is frozen, S goes to TVEC. -/
def State.startHandler (s : State) : State :=
  let k := s.me
  if k.node.phase = .trapEntry ∧ k.node.ending = none ∧ [Strand.S, .V, .M, .C].all (fun x => (k.strand x).frozen || s.atBoundary x) then
    let s1 := ([Strand.S, .V, .M, .C].filter (fun x => !(k.strand x).frozen)).foldl (fun a x => a.freeze x) s
    s1.updMe (fun k =>
      { (k.clearLatches).setStrand .S { StrandSt.idle with pc := k.tvec } with
        node := { k.node with phase := .handler, sSaved := k.strand .S } })
  else s

/-- Is a cause a program error (R283)? -/
def programError (c : BitVec 8) : Bool :=
  c == 0x01 || c == 0x02 || c == 0x06 || c == 0x07 || c == 0x09 || c == 0x0E

/-- The return of `eret` in supervisor mode (R168): with no trap in service, as after a handler that wrote PSUP,
the steps of R168 on TCAUSE and TEPC (log 13); after a program error the node fails (R283); else the mode
returns, the latches are cleared, the strands are released, the trapping strand resumes at TEPC, and the time that a strand has
stood begins anew, since a handler has run (R275). -/
def State.returnFromTrap (s : State) : State :=
  let nd := s.me.node
  match nd.trap with
  | none =>
    s.updMe (fun k =>
      let k1 := { k.clearLatches with strands := vmap k.strands (fun t => { t with frozen := false, since := s.cycle }), sup := k.psup }
      k1.updStrand .S (fun t => { t with pc := if field k.tcause.toNat 8 2 = 0 then k.tepc else t.pc + 4, popped := none }))
  | some i =>
    if programError i.cause then
      s.failNode s.core { kind := 1, cause := i.cause.toNat, flags := i.flags nd.trapper, pc := i.tepc, value := i.tval, addr := i.failAddr s.me }
    else
      s.updMe (fun k =>
        let k1 := k.clearLatches.setStrand .S nd.sSaved
        let k2 := k1.updStrand nd.trapper (fun t =>
          { t with pc := k.tepc, skipBrk := if i.fetched ∧ i.tepc = k.tepc then some k.tepc else t.skipBrk, cond := match t.cond with
              | .pushHold n pc e => .pushHold n pc e
              | _ => .ready })
        { k2 with strands := vmap k2.strands (fun t => { t with frozen := false, since := s.cycle }), sup := k.psup,
                  node := { k.node with phase := .running, trap := none } })

/-- May a strand's pending trap be raised: a running node's, or that of an access of the handler on S, which is then a
nested trap (R60, R282)? -/
def State.canRaise (s : State) (st : Strand) : Bool :=
  (s.me.node.phase == .running || (s.me.node.phase == .handler && st == .S)) && s.me.node.ending.isNone && s.atBoundary st
    && !s.me.keepsTrap st

/-- A pending trap is raised at its strand's boundary (R60, R316); TEPC is the next unissued word, or the head of the
chain in which a deferred trap arose (R279). -/
def State.raisePending (s : State) (st : Strand) : State :=
  match (s.me.strand st).pending with
  | none => s
  | some i =>
    if s.canRaise st then s.takeTrap st (if i.chain then i else { i with tepc := (s.me.strand st).pc }) else s

/-- A trap that follows a completed S access whose bytes match a data breakpoint (R60). -/
def State.armDataBrk (s : State) (a n : Nat) : State :=
  match s.me.dataBrk a n with
  | some b => s.updMe (fun k => k.updStrand .S (fun t =>
      { t with pending := some { cause := 0x12, tval := BitVec.ofNat 64 b, tepc := t.pc } }))
  | none => s

end Sys2Proof.Machine
end

