-- ==== Sys2Proof/Machine/Scalar.lean ====
section
/-! DEFINITION. Scalar arithmetic, bit fields, constants, branches, jumps and floating point (R127 to R139,
R151). -/

namespace Sys2Proof.Machine

/-- Retirement to the next word. -/
def State.retireNext (s : State) (st : Strand) (t : Tok) : State := s.retire st t (s.me.pc4 st)

/-- An S instruction without issue checks that writes xd and goes on (R128, R169). -/
def issueX (i : Instr) (t : Tok) (xd : BitVec 5) (f : Core → Word) (s : State) : State :=
  issue .S i t noCheck noCheck (fun a => (a.updMe (fun k => k.setX xd (f k))).retireNext .S t) s

/-- The signed order of two words. -/
def sltW (a b : Word) : Bool := decide (a.toInt < b.toInt)

/-- 1 or 0 as a word. -/
def flagW (b : Bool) : Word := if b then 1 else 0

/-- The six low bits of a word as a shift count (R133). -/
def shamt (b : Word) : Nat := b.toNat % 64

/-- Bits [127:64] of the signed product (R134). -/
def mulhW (a b : Word) : Word := BitVec.ofInt 64 (a.toInt * b.toInt / 2 ^ 64)

/-- Bits [127:64] of the unsigned product (R134). -/
def mulhuW (a b : Word) : Word := BitVec.ofNat 64 (a.toNat * b.toNat / 2 ^ 64)

/-- Signed quotient, truncated toward zero, with the cases of R134. -/
def divW (a b : Word) : Word := if b = 0 then BitVec.allOnes 64 else BitVec.ofInt 64 (Int.tdiv a.toInt b.toInt)

/-- Unsigned quotient (R134). -/
def divuW (a b : Word) : Word := if b = 0 then BitVec.allOnes 64 else BitVec.ofNat 64 (a.toNat / b.toNat)

/-- Signed remainder, its sign that of the dividend (R134). -/
def remW (a b : Word) : Word := if b = 0 then a else BitVec.ofInt 64 (Int.tmod a.toInt b.toInt)

/-- Unsigned remainder (R134). -/
def remuW (a b : Word) : Word := if b = 0 then a else BitVec.ofNat 64 (a.toNat % b.toNat)

/-- Number of one bits among the n low bits (R135). -/
def popcount (w : Nat) : Nat → Nat
  | 0 => 0
  | n + 1 => popcount w n + b2n (bitOf w n)

/-- Leading zero bits of the n low bits of a number (R135). -/
def clzNat (w : Nat) : Nat → Nat
  | 0 => 0
  | n + 1 => if bitOf w n then 0 else 1 + clzNat w n

/-- Trailing zero bits, counted from bit i for at most n bits (R135). -/
def ctzNat (w i : Nat) : Nat → Nat
  | 0 => 0
  | n + 1 => if bitOf w i then 0 else 1 + ctzNat w (i + 1) n

/-- Bits [63:0] of (a:b) shifted right by n below 64 (R135). -/
def fshW (a b : Word) (n : Nat) : Word := BitVec.ofNat 64 ((a.toNat * 2 ^ 64 + b.toNat) / 2 ^ n)

/-- A field of a word, sign-extended from its top bit (R136). -/
def bfxW (a : Word) (p len : Nat) : Word := BitVec.ofInt 64 (signed (field a.toNat p len) len)

/-- A field of a word, zero-extended (R136). -/
def bfxuW (a : Word) (p len : Nat) : Word := BitVec.ofNat 64 (field a.toNat p len)

/-- The low bits of a put into a field of d (R136). -/
def bfiW (d a : Word) (p len : Nat) : Word := putField d p len a.toNat

/-- A branch (R138): to PC + 4 × off12 when the comparison holds. -/
def issueBranch (i : Instr) (t : Tok) (xa xb : BitVec 5) (off : BitVec 12) (c : Word → Word → Bool) (s : State) : State :=
  issue .S i t noCheck noCheck (fun a =>
    let pc := (a.me.strand .S).pc
    a.retire .S t (if c (a.me.getX xa) (a.me.getX xb) then pc + 4 * off.signExtend 64 else pc + 4)) s

/-- The format of a scalar floating form: FP32, or FP64 when dbl is set (R108, R151). -/
def scalarFmt (dbl : BitVec 1) : Fmt := if dbl = 1 then Fmt.f64 else Fmt.f32

/-- The rounding of a conversion: RNE, or RTZ when rz is set (R151). -/
def scalarRnd (rz : BitVec 1) : Rnd := if rz = 1 then .rtz else .rne

/-- A floating source: FP32 in bits [31:0] or FP64 (R41, R151). -/
def fsrc (dbl : BitVec 1) (w : Word) : FVal := (scalarFmt dbl).decode (w.toNat % 2 ^ (scalarFmt dbl).width)

/-- A floating result, FP32 with zero above (R41, R151). -/
def fres (dbl : BitVec 1) (mode : Rnd) (v : FVal) : Word := BitVec.ofNat 64 ((scalarFmt dbl).round mode v)

/-- `add` (R133): the sum modulo 2^64. -/
def execAdd (t : Tok) (xd xa xb : BitVec 5) (s : State) : Host.Outcome State Fault Refusal :=
  .next (issueX (.add t xd xa xb) t xd (fun k => k.getX xa + k.getX xb) s)

/-- `sub` (R133). -/
def execSub (t : Tok) (xd xa xb : BitVec 5) (s : State) : Host.Outcome State Fault Refusal :=
  .next (issueX (.sub t xd xa xb) t xd (fun k => k.getX xa - k.getX xb) s)

/-- `and` (R133). -/
def execAnd (t : Tok) (xd xa xb : BitVec 5) (s : State) : Host.Outcome State Fault Refusal :=
  .next (issueX (.and t xd xa xb) t xd (fun k => k.getX xa &&& k.getX xb) s)

/-- `or` (R133). -/
def execOr (t : Tok) (xd xa xb : BitVec 5) (s : State) : Host.Outcome State Fault Refusal :=
  .next (issueX (.or t xd xa xb) t xd (fun k => k.getX xa ||| k.getX xb) s)

/-- `xor` (R133). -/
def execXor (t : Tok) (xd xa xb : BitVec 5) (s : State) : Host.Outcome State Fault Refusal :=
  .next (issueX (.xor t xd xa xb) t xd (fun k => k.getX xa ^^^ k.getX xb) s)

/-- `sll` (R133): by xb[5:0]. -/
def execSll (t : Tok) (xd xa xb : BitVec 5) (s : State) : Host.Outcome State Fault Refusal :=
  .next (issueX (.sll t xd xa xb) t xd (fun k => k.getX xa <<< shamt (k.getX xb)) s)

/-- `srl` (R133). -/
def execSrl (t : Tok) (xd xa xb : BitVec 5) (s : State) : Host.Outcome State Fault Refusal :=
  .next (issueX (.srl t xd xa xb) t xd (fun k => k.getX xa >>> shamt (k.getX xb)) s)

/-- `sra` (R133). -/
def execSra (t : Tok) (xd xa xb : BitVec 5) (s : State) : Host.Outcome State Fault Refusal :=
  .next (issueX (.sra t xd xa xb) t xd (fun k => (k.getX xa).sshiftRight (shamt (k.getX xb))) s)

/-- `slt` (R133). -/
def execSlt (t : Tok) (xd xa xb : BitVec 5) (s : State) : Host.Outcome State Fault Refusal :=
  .next (issueX (.slt t xd xa xb) t xd (fun k => flagW (sltW (k.getX xa) (k.getX xb))) s)

/-- `slt.u` (R133). -/
def execSltU (t : Tok) (xd xa xb : BitVec 5) (s : State) : Host.Outcome State Fault Refusal :=
  .next (issueX (.sltU t xd xa xb) t xd (fun k => flagW (decide ((k.getX xa).toNat < (k.getX xb).toNat))) s)

/-- `min` (R133). -/
def execMin (t : Tok) (xd xa xb : BitVec 5) (s : State) : Host.Outcome State Fault Refusal :=
  .next (issueX (.min t xd xa xb) t xd (fun k => if sltW (k.getX xa) (k.getX xb) then k.getX xa else k.getX xb) s)

/-- `min.u` (R133). -/
def execMinU (t : Tok) (xd xa xb : BitVec 5) (s : State) : Host.Outcome State Fault Refusal :=
  .next (issueX (.minU t xd xa xb) t xd (fun k => if (k.getX xa).toNat < (k.getX xb).toNat then k.getX xa else k.getX xb) s)

/-- `max` (R133). -/
def execMax (t : Tok) (xd xa xb : BitVec 5) (s : State) : Host.Outcome State Fault Refusal :=
  .next (issueX (.max t xd xa xb) t xd (fun k => if sltW (k.getX xa) (k.getX xb) then k.getX xb else k.getX xa) s)

/-- `max.u` (R133). -/
def execMaxU (t : Tok) (xd xa xb : BitVec 5) (s : State) : Host.Outcome State Fault Refusal :=
  .next (issueX (.maxU t xd xa xb) t xd (fun k => if (k.getX xa).toNat < (k.getX xb).toNat then k.getX xb else k.getX xa) s)

/-- `mul` (R134). -/
def execMul (t : Tok) (xd xa xb : BitVec 5) (s : State) : Host.Outcome State Fault Refusal :=
  .next (issueX (.mul t xd xa xb) t xd (fun k => k.getX xa * k.getX xb) s)

/-- `mulh` (R134). -/
def execMulh (t : Tok) (xd xa xb : BitVec 5) (s : State) : Host.Outcome State Fault Refusal :=
  .next (issueX (.mulh t xd xa xb) t xd (fun k => mulhW (k.getX xa) (k.getX xb)) s)

/-- `mulh.u` (R134). -/
def execMulhU (t : Tok) (xd xa xb : BitVec 5) (s : State) : Host.Outcome State Fault Refusal :=
  .next (issueX (.mulhU t xd xa xb) t xd (fun k => mulhuW (k.getX xa) (k.getX xb)) s)

/-- `div` (R134): it never traps. -/
def execDiv (t : Tok) (xd xa xb : BitVec 5) (s : State) : Host.Outcome State Fault Refusal :=
  .next (issueX (.div t xd xa xb) t xd (fun k => divW (k.getX xa) (k.getX xb)) s)

/-- `div.u` (R134). -/
def execDivU (t : Tok) (xd xa xb : BitVec 5) (s : State) : Host.Outcome State Fault Refusal :=
  .next (issueX (.divU t xd xa xb) t xd (fun k => divuW (k.getX xa) (k.getX xb)) s)

/-- `rem` (R134). -/
def execRem (t : Tok) (xd xa xb : BitVec 5) (s : State) : Host.Outcome State Fault Refusal :=
  .next (issueX (.rem t xd xa xb) t xd (fun k => remW (k.getX xa) (k.getX xb)) s)

/-- `rem.u` (R134). -/
def execRemU (t : Tok) (xd xa xb : BitVec 5) (s : State) : Host.Outcome State Fault Refusal :=
  .next (issueX (.remU t xd xa xb) t xd (fun k => remuW (k.getX xa) (k.getX xb)) s)

/-- `clz` (R135). -/
def execClz (t : Tok) (xd xa : BitVec 5) (s : State) : Host.Outcome State Fault Refusal :=
  .next (issueX (.clz t xd xa) t xd (fun k => BitVec.ofNat 64 (clzNat (k.getX xa).toNat 64)) s)

/-- `ctz` (R135). -/
def execCtz (t : Tok) (xd xa : BitVec 5) (s : State) : Host.Outcome State Fault Refusal :=
  .next (issueX (.ctz t xd xa) t xd (fun k => BitVec.ofNat 64 (ctzNat (k.getX xa).toNat 0 64)) s)

/-- `popc` (R135). -/
def execPopc (t : Tok) (xd xa : BitVec 5) (s : State) : Host.Outcome State Fault Refusal :=
  .next (issueX (.popc t xd xa) t xd (fun k => BitVec.ofNat 64 (popcount (k.getX xa).toNat 64)) s)

/-- `fsh` (R135): xa is the high word. -/
def execFsh (t : Tok) (xd xa xb : BitVec 5) (n : BitVec 6) (s : State) : Host.Outcome State Fault Refusal :=
  .next (issueX (.fsh t xd xa xb n) t xd (fun k => fshW (k.getX xa) (k.getX xb) n.toNat) s)

/-- `add` with an immediate, sign-extended (R104, R133). -/
def execAddImmediate (t : Tok) (xd xa : BitVec 5) (imm : BitVec 12) (s : State) : Host.Outcome State Fault Refusal :=
  .next (issueX (.addImmediate t xd xa imm) t xd (fun k => k.getX xa + imm.signExtend 64) s)

/-- `and` with an immediate, zero-extended (R104, R133). -/
def execAndImmediate (t : Tok) (xd xa : BitVec 5) (imm : BitVec 12) (s : State) : Host.Outcome State Fault Refusal :=
  .next (issueX (.andImmediate t xd xa imm) t xd (fun k => k.getX xa &&& imm.setWidth 64) s)

/-- `or` with an immediate, zero-extended. -/
def execOrImmediate (t : Tok) (xd xa : BitVec 5) (imm : BitVec 12) (s : State) : Host.Outcome State Fault Refusal :=
  .next (issueX (.orImmediate t xd xa imm) t xd (fun k => k.getX xa ||| imm.setWidth 64) s)

/-- `xor` with an immediate, zero-extended. -/
def execXorImmediate (t : Tok) (xd xa : BitVec 5) (imm : BitVec 12) (s : State) : Host.Outcome State Fault Refusal :=
  .next (issueX (.xorImmediate t xd xa imm) t xd (fun k => k.getX xa ^^^ imm.setWidth 64) s)

/-- `sll` with an immediate count (R104, R133). -/
def execSllImmediate (t : Tok) (xd xa : BitVec 5) (sh : BitVec 6) (s : State) : Host.Outcome State Fault Refusal :=
  .next (issueX (.sllImmediate t xd xa sh) t xd (fun k => k.getX xa <<< sh.toNat) s)

/-- `srl` with an immediate count (R104, R133). -/
def execSrlImmediate (t : Tok) (xd xa : BitVec 5) (sh : BitVec 6) (s : State) : Host.Outcome State Fault Refusal :=
  .next (issueX (.srlImmediate t xd xa sh) t xd (fun k => k.getX xa >>> sh.toNat) s)

/-- `sra` with an immediate count (R104, R133). -/
def execSraImmediate (t : Tok) (xd xa : BitVec 5) (sh : BitVec 6) (s : State) : Host.Outcome State Fault Refusal :=
  .next (issueX (.sraImmediate t xd xa sh) t xd (fun k => (k.getX xa).sshiftRight sh.toNat) s)

/-- `slt` with an immediate, sign-extended. -/
def execSltImmediate (t : Tok) (xd xa : BitVec 5) (imm : BitVec 12) (s : State) : Host.Outcome State Fault Refusal :=
  .next (issueX (.sltImmediate t xd xa imm) t xd (fun k => flagW (sltW (k.getX xa) (imm.signExtend 64))) s)

/-- `bfx` (R136). -/
def execBfx (t : Tok) (xd xa : BitVec 5) (pos len1 : BitVec 6) (s : State) : Host.Outcome State Fault Refusal :=
  .next (issueX (.bfx t xd xa pos len1) t xd (fun k => bfxW (k.getX xa) pos.toNat (len1.toNat + 1)) s)

/-- `bfx.u` (R136). -/
def execBfxU (t : Tok) (xd xa : BitVec 5) (pos len1 : BitVec 6) (s : State) : Host.Outcome State Fault Refusal :=
  .next (issueX (.bfxU t xd xa pos len1) t xd (fun k => bfxuW (k.getX xa) pos.toNat (len1.toNat + 1)) s)

/-- `bfi` (R136): it reads xd. -/
def execBfi (t : Tok) (xd xa : BitVec 5) (pos len1 : BitVec 6) (s : State) : Host.Outcome State Fault Refusal :=
  .next (issueX (.bfi t xd xa pos len1) t xd (fun k => bfiW (k.getX xd) (k.getX xa) pos.toNat (len1.toNat + 1)) s)

/-- `lui` (R137). -/
def execLui (t : Tok) (xd : BitVec 5) (imm : BitVec 17) (s : State) : Host.Outcome State Fault Refusal :=
  .next (issueX (.lui t xd imm) t xd (fun _ => (imm.signExtend 64) <<< 16) s)

/-- `orsh` (R137): it reads xd. -/
def execOrsh (t : Tok) (xd : BitVec 5) (imm : BitVec 16) (s : State) : Host.Outcome State Fault Refusal :=
  .next (issueX (.orsh t xd imm) t xd (fun k => (k.getX xd) <<< 16 ||| imm.setWidth 64) s)

/-- `beq` (R138). -/
def execBeq (t : Tok) (xa xb : BitVec 5) (off : BitVec 12) (s : State) : Host.Outcome State Fault Refusal :=
  .next (issueBranch (.beq t xa xb off) t xa xb off (fun a b => a == b) s)

/-- `bne` (R138). -/
def execBne (t : Tok) (xa xb : BitVec 5) (off : BitVec 12) (s : State) : Host.Outcome State Fault Refusal :=
  .next (issueBranch (.bne t xa xb off) t xa xb off (fun a b => a != b) s)

/-- `blt` (R138). -/
def execBlt (t : Tok) (xa xb : BitVec 5) (off : BitVec 12) (s : State) : Host.Outcome State Fault Refusal :=
  .next (issueBranch (.blt t xa xb off) t xa xb off (fun a b => sltW a b) s)

/-- `bge` (R138). -/
def execBge (t : Tok) (xa xb : BitVec 5) (off : BitVec 12) (s : State) : Host.Outcome State Fault Refusal :=
  .next (issueBranch (.bge t xa xb off) t xa xb off (fun a b => !sltW a b) s)

/-- `blt.u` (R138). -/
def execBltU (t : Tok) (xa xb : BitVec 5) (off : BitVec 12) (s : State) : Host.Outcome State Fault Refusal :=
  .next (issueBranch (.bltU t xa xb off) t xa xb off (fun a b => decide (a.toNat < b.toNat)) s)

/-- `bge.u` (R138). -/
def execBgeU (t : Tok) (xa xb : BitVec 5) (off : BitVec 12) (s : State) : Host.Outcome State Fault Refusal :=
  .next (issueBranch (.bgeU t xa xb off) t xa xb off (fun a b => decide (b.toNat ≤ a.toNat)) s)

/-- `jal` (R139). -/
def execJal (t : Tok) (xd : BitVec 5) (off : BitVec 17) (s : State) : Host.Outcome State Fault Refusal :=
  .next (issue .S (.jal t xd off) t noCheck noCheck (fun a =>
    let pc := (a.me.strand .S).pc
    (a.updMe (fun k => k.setX xd (pc + 4))).retire .S t (pc + 4 * off.signExtend 64)) s)

/-- Target of `jalr` (R139). -/
def Core.jalrTarget (k : Core) (xa : BitVec 5) (imm : BitVec 12) : Word := k.getX xa + 4 * imm.signExtend 64

/-- `jalr` (R139): a target not a multiple of 4 traps with cause 0x08. -/
def execJalr (t : Tok) (xd xa : BitVec 5) (imm : BitVec 12) (s : State) : Host.Outcome State Fault Refusal :=
  .next (issue .S (.jalr t xd xa imm) t noCheck
    (fun a => Check.trapIf ((a.me.jalrTarget xa imm).toNat % 4 != 0) 0x08 (a.me.jalrTarget xa imm))
    (fun a =>
      let target := a.me.jalrTarget xa imm
      let pc := (a.me.strand .S).pc
      (a.updMe (fun k => k.setX xd (pc + 4))).retire .S t target) s)

/-- `fadd` (R151). -/
def execFadd (t : Tok) (xd xa xb : BitVec 5) (dbl : BitVec 1) (s : State) : Host.Outcome State Fault Refusal :=
  .next (issueX (.fadd t xd xa xb dbl) t xd (fun k => fres dbl .rne ((fsrc dbl (k.getX xa)).add (fsrc dbl (k.getX xb)))) s)

/-- `fsub` (R151). -/
def execFsub (t : Tok) (xd xa xb : BitVec 5) (dbl : BitVec 1) (s : State) : Host.Outcome State Fault Refusal :=
  .next (issueX (.fsub t xd xa xb dbl) t xd (fun k => fres dbl .rne ((fsrc dbl (k.getX xa)).sub (fsrc dbl (k.getX xb)))) s)

/-- `fmul` (R151). -/
def execFmul (t : Tok) (xd xa xb : BitVec 5) (dbl : BitVec 1) (s : State) : Host.Outcome State Fault Refusal :=
  .next (issueX (.fmul t xd xa xb dbl) t xd (fun k => fres dbl .rne ((fsrc dbl (k.getX xa)).mul (fsrc dbl (k.getX xb)))) s)

/-- `fdiv` (R151). -/
def execFdiv (t : Tok) (xd xa xb : BitVec 5) (dbl : BitVec 1) (s : State) : Host.Outcome State Fault Refusal :=
  .next (issueX (.fdiv t xd xa xb dbl) t xd (fun k => fres dbl .rne ((fsrc dbl (k.getX xa)).div (fsrc dbl (k.getX xb)))) s)

/-- `fsqrt` (R151). -/
def execFsqrt (t : Tok) (xd xa : BitVec 5) (dbl : BitVec 1) (s : State) : Host.Outcome State Fault Refusal :=
  .next (issueX (.fsqrt t xd xa dbl) t xd (fun k => fres dbl .rne (fsrc dbl (k.getX xa)).sqrt) s)

/-- `fmin` (R151). -/
def execFmin (t : Tok) (xd xa xb : BitVec 5) (dbl : BitVec 1) (s : State) : Host.Outcome State Fault Refusal :=
  .next (issueX (.fmin t xd xa xb dbl) t xd (fun k => fres dbl .rne ((fsrc dbl (k.getX xa)).min (fsrc dbl (k.getX xb)))) s)

/-- `fmax` (R151). -/
def execFmax (t : Tok) (xd xa xb : BitVec 5) (dbl : BitVec 1) (s : State) : Host.Outcome State Fault Refusal :=
  .next (issueX (.fmax t xd xa xb dbl) t xd (fun k => fres dbl .rne ((fsrc dbl (k.getX xa)).max (fsrc dbl (k.getX xb)))) s)

/-- `fma` (R151): xa × xb + xd, rounded once. -/
def execFma (t : Tok) (xd xa xb : BitVec 5) (dbl : BitVec 1) (s : State) : Host.Outcome State Fault Refusal :=
  .next (issueX (.fma t xd xa xb dbl) t xd (fun k => fres dbl .rne (((fsrc dbl (k.getX xa)).mul (fsrc dbl (k.getX xb))).add (fsrc dbl (k.getX xd)))) s)

/-- `fcmp.eq` (R151). -/
def execFcmpEq (t : Tok) (xd xa xb : BitVec 5) (dbl : BitVec 1) (s : State) : Host.Outcome State Fault Refusal :=
  .next (issueX (.fcmpEq t xd xa xb dbl) t xd (fun k => flagW ((fsrc dbl (k.getX xa)).eqv (fsrc dbl (k.getX xb)))) s)

/-- `fcmp.lt` (R151). -/
def execFcmpLt (t : Tok) (xd xa xb : BitVec 5) (dbl : BitVec 1) (s : State) : Host.Outcome State Fault Refusal :=
  .next (issueX (.fcmpLt t xd xa xb dbl) t xd (fun k => flagW ((fsrc dbl (k.getX xa)).lt (fsrc dbl (k.getX xb)))) s)

/-- `fcmp.le` (R151). -/
def execFcmpLe (t : Tok) (xd xa xb : BitVec 5) (dbl : BitVec 1) (s : State) : Host.Outcome State Fault Refusal :=
  .next (issueX (.fcmpLe t xd xa xb dbl) t xd (fun k => flagW ((fsrc dbl (k.getX xa)).le (fsrc dbl (k.getX xb)))) s)

/-- `fcvt.s.l` and `fcvt.d.l` (R151). -/
def execFcvtFromI64 (t : Tok) (xd xa : BitVec 5) (dbl rz : BitVec 1) (s : State) : Host.Outcome State Fault Refusal :=
  .next (issueX (.fcvtFromI64 t xd xa dbl rz) t xd (fun k => fres dbl (scalarRnd rz) (FVal.ofInt (k.getX xa).toInt)) s)

/-- `fcvt.s.lu` and `fcvt.d.lu` (R151). -/
def execFcvtFromU64 (t : Tok) (xd xa : BitVec 5) (dbl rz : BitVec 1) (s : State) : Host.Outcome State Fault Refusal :=
  .next (issueX (.fcvtFromU64 t xd xa dbl rz) t xd (fun k => fres dbl (scalarRnd rz) (FVal.ofInt (k.getX xa).toNat)) s)

/-- `fcvt.l.s` and `fcvt.l.d` (R29, R151). -/
def execFcvtToI64 (t : Tok) (xd xa : BitVec 5) (dbl rz : BitVec 1) (s : State) : Host.Outcome State Fault Refusal :=
  .next (issueX (.fcvtToI64 t xd xa dbl rz) t xd
    (fun k => BitVec.ofInt 64 ((fsrc dbl (k.getX xa)).toRange (scalarRnd rz) (-(2 ^ 63)) (2 ^ 63 - 1))) s)

/-- `fcvt.lu.s` and `fcvt.lu.d` (R29, R151). -/
def execFcvtToU64 (t : Tok) (xd xa : BitVec 5) (dbl rz : BitVec 1) (s : State) : Host.Outcome State Fault Refusal :=
  .next (issueX (.fcvtToU64 t xd xa dbl rz) t xd
    (fun k => BitVec.ofInt 64 ((fsrc dbl (k.getX xa)).toRange (scalarRnd rz) 0 (2 ^ 64 - 1))) s)

/-- `fcvt.s.d` (R29, R151). -/
def execFcvtSD (t : Tok) (xd xa : BitVec 5) (rz : BitVec 1) (s : State) : Host.Outcome State Fault Refusal :=
  .next (issueX (.fcvtSD t xd xa rz) t xd (fun k => fres 0 (scalarRnd rz) (fsrc 1 (k.getX xa))) s)

/-- `fcvt.d.s` (R151): exact. -/
def execFcvtDS (t : Tok) (xd xa : BitVec 5) (s : State) : Host.Outcome State Fault Refusal :=
  .next (issueX (.fcvtDS t xd xa) t xd (fun k => fres 1 .rne (fsrc 0 (k.getX xa))) s)

end Sys2Proof.Machine
end

