-- ==== Sys2Proof/Machine/ScalarMem.lean ====
section
/-! DEFINITION. Scalar memory access: loads, stores, the last-use load, prefetch, residency and atomics (R140 to
R150). An access that goes beyond the L1 by its turn, meets a page under migration, or leaves by port 0 during a
width change waits, and its effect takes place when memory answers (R132, R383, R426). -/

namespace Sys2Proof.Machine

/-- What a node's data access needs: R, W or both. -/
def needR : Need := { r := true, w := false }
/-- W permission. -/
def needW : Need := { r := false, w := true }
/-- R and W permission. -/
def needRW : Need := { r := true, w := true }

/-- A strand access of the issuing core resolved (R140). -/
def State.locate (s : State) (need : Need) (a : Nat) : Except (BitVec 8) Loc := s.resolve s.me.node.part need a

/-- Virtual address of an S access (R140). -/
def Core.memAddr (k : Core) (xa : BitVec 5) (imm : BitVec 12) : Word := k.getX xa + imm.signExtend 64

/-- Misalignment, translation, permission (R141). -/
def State.accessCheck (s : State) (need : Need) (a : Word) (n : Nat) : Check :=
  if a.toNat % n ≠ 0 then .trap 0x08 a
  else match s.locate need a.toNat with
    | .error c => .trap c a
    | .ok _ => .pass

/-- Would a write at a resolved place pass the node's staging limit (R143)? -/
def State.overflows (s : State) (l : Loc) (n : Nat) : Bool :=
  match l.place.pa? with
  | some pa => !l.direct && s.me.node.stageOverflows pa n
  | none => false

/-- The checks of a store (R141, R143). -/
def State.storeCheck (s : State) (a : Word) (n : Nat) : Check :=
  match s.accessCheck needW a n with
  | .pass =>
    match s.locate needW a.toNat with
    | .ok l => Check.trapIf (s.overflows l n) 0x0E a
    | .error c => .trap c a
  | c => c

/-- Does an access wait for memory to answer (R132), or behind what holds it back (R383, R426)? -/
def State.accessWaits (s : State) (q : Place) : Bool :=
  match q with
  | .scratch _ => false
  | q => s.late || s.gate s.core q != .clear

/-- An access waits, in the queue of what holds it back, if something does (R383, R426). -/
def State.holdAccess (s : State) (st : Strand) (i : Instr) (q : Place) : State :=
  (s.stall st (.memory i)).join (.strand s.core st) (s.gate s.core q)

/-- An access at a resolved address: held, or its effect at once. -/
def State.access (s : State) (st : Strand) (i : Instr) (need : Need) (a : Nat) (eff : State → State) : State :=
  match s.locate need a with
  | .ok l => if s.accessWaits l.place then s.holdAccess st i l.place else eff s
  | .error _ => eff s

/-- The loss of a link to host memory (log 12). -/
def State.hostLost (s : State) (st : Strand) (a : Nat) : State :=
  s.rollbackNode s.core 0x20 st.num (s.me.strand st).pc (BitVec.ofNat 64 a) (some st)

/-- The effect of a load of n bytes (R142), what it asks for having come (R415, R417, R420): poison rolls the node
back (R435); else the extended value. -/
def State.loadEffect (s : State) (t : Tok) (xd : BitVec 5) (a n : Nat) (ext : Nat → Word) : State :=
  match s.locate needR a with
  | .error c => s.trapHere .S c (BitVec.ofNat 64 a)
  | .ok l =>
    if s.hostGone l.place then s.hostLost .S a
    else
      let b := s.askPlace s.core n l.place
      if (b.placeFirstPoison b.core l.place n).isSome then b.poisonHere .S 0 a
      else
        let v := ext (leNat (b.placeBytes b.core l.place n))
        ((b.updMe (fun k => k.setX xd v)).retireNext .S t).armDataBrk a n

/-- A load (R140 to R142). -/
def issueLoad (i : Instr) (t : Tok) (xd xa : BitVec 5) (imm : BitVec 12) (n : Nat) (ext : Nat → Word) (s : State) : State :=
  issue .S i t noCheck (fun b => b.accessCheck needR (b.me.memAddr xa imm) n)
    (fun b =>
      let a := (b.me.memAddr xa imm).toNat
      b.access .S i needR a (fun c => c.loadEffect t xd a n ext)) s

/-- Sign extension from n bytes (R142). -/
def sext (n v : Nat) : Word := BitVec.ofInt 64 (signed v (8 * n))

/-- Zero extension (R142). -/
def zext (v : Nat) : Word := BitVec.ofNat 64 v

/-- `ld.b` (R142). -/
def execLdB (t : Tok) (xd xa : BitVec 5) (imm : BitVec 12) (s : State) : Host.Outcome State Fault Refusal :=
  .next (issueLoad (.ldB t xd xa imm) t xd xa imm 1 (sext 1) s)

/-- `ld.h` (R142). -/
def execLdH (t : Tok) (xd xa : BitVec 5) (imm : BitVec 12) (s : State) : Host.Outcome State Fault Refusal :=
  .next (issueLoad (.ldH t xd xa imm) t xd xa imm 2 (sext 2) s)

/-- `ld.w` (R142). -/
def execLdW (t : Tok) (xd xa : BitVec 5) (imm : BitVec 12) (s : State) : Host.Outcome State Fault Refusal :=
  .next (issueLoad (.ldW t xd xa imm) t xd xa imm 4 (sext 4) s)

/-- `ld.d` (R142). -/
def execLdD (t : Tok) (xd xa : BitVec 5) (imm : BitVec 12) (s : State) : Host.Outcome State Fault Refusal :=
  .next (issueLoad (.ldD t xd xa imm) t xd xa imm 8 zext s)

/-- `ld.b.u` (R142). -/
def execLdBU (t : Tok) (xd xa : BitVec 5) (imm : BitVec 12) (s : State) : Host.Outcome State Fault Refusal :=
  .next (issueLoad (.ldBU t xd xa imm) t xd xa imm 1 zext s)

/-- `ld.h.u` (R142). -/
def execLdHU (t : Tok) (xd xa : BitVec 5) (imm : BitVec 12) (s : State) : Host.Outcome State Fault Refusal :=
  .next (issueLoad (.ldHU t xd xa imm) t xd xa imm 2 zext s)

/-- `ld.w.u` (R142). -/
def execLdWU (t : Tok) (xd xa : BitVec 5) (imm : BitVec 12) (s : State) : Host.Outcome State Fault Refusal :=
  .next (issueLoad (.ldWU t xd xa imm) t xd xa imm 4 zext s)

/-- The effect of a store of the n low bytes of xs (R143). It takes its place in program order, at a host-home address too,
where the manual leaves it unordered with the strand's device accesses (R144, R165; DESIGN CHOICE, log 75). -/
def State.storeEffect (s : State) (t : Tok) (xs : BitVec 5) (a n : Nat) : State :=
  match s.locate needW a with
  | .error c => s.trapHere .S c (BitVec.ofNat 64 a)
  | .ok l =>
    if s.hostGone l.place then s.hostLost .S a
    else
      let bytes := (leBytes n (s.me.getX xs).toNat).map some
      ((s.nodeWrite s.core s.me.node.part l bytes).retireNext .S t).armDataBrk a n

/-- A store (R140, R141, R143). -/
def issueStore (i : Instr) (t : Tok) (xs xa : BitVec 5) (imm : BitVec 12) (n : Nat) (s : State) : State :=
  issue .S i t noCheck (fun b => b.storeCheck (b.me.memAddr xa imm) n)
    (fun b =>
      let a := (b.me.memAddr xa imm).toNat
      b.access .S i needW a (fun c => c.storeEffect t xs a n)) s

/-- `st.b` (R143). -/
def execStB (t : Tok) (xs xa : BitVec 5) (imm : BitVec 12) (s : State) : Host.Outcome State Fault Refusal :=
  .next (issueStore (.stB t xs xa imm) t xs xa imm 1 s)

/-- `st.h` (R143). -/
def execStH (t : Tok) (xs xa : BitVec 5) (imm : BitVec 12) (s : State) : Host.Outcome State Fault Refusal :=
  .next (issueStore (.stH t xs xa imm) t xs xa imm 2 s)

/-- `st.w` (R143). -/
def execStW (t : Tok) (xs xa : BitVec 5) (imm : BitVec 12) (s : State) : Host.Outcome State Fault Refusal :=
  .next (issueStore (.stW t xs xa imm) t xs xa imm 4 s)

/-- `st.d` (R143). -/
def execStD (t : Tok) (xs xa : BitVec 5) (imm : BitVec 12) (s : State) : Host.Outcome State Fault Refusal :=
  .next (issueStore (.stD t xs xa imm) t xs xa imm 8 s)

/-- Staged bytes of a node withdrawn from a physical line (R145). -/
def Node.withdrawLine (nd : Node) (line : Nat) : Node :=
  { nd with staged := nd.staged.filter (fun e => e.1 / 128 != line),
            stagedPoison := nd.stagedPoison.filter (fun x => x / 8 != line) }

/-- The effect of `ldlu` (R145): the load, and in the same step the node's staged bytes of the line go. -/
def State.ldluEffect (s : State) (t : Tok) (xd : BitVec 5) (a : Nat) : State :=
  match s.locate needR a with
  | .error c => s.trapHere .S c (BitVec.ofNat 64 a)
  | .ok l =>
    if s.hostGone l.place then s.hostLost .S a
    else
      let b := s.askPlace s.core 8 l.place
      if (b.placeFirstPoison b.core l.place 8).isSome then b.poisonHere .S 0 a
      else
        let v := zext (leNat (b.placeBytes b.core l.place 8))
        let s1 := match l.place with
          | .dram pa => if l.direct then b else b.updMe (fun k => { k with node := k.node.withdrawLine (pa / 128) })
          | _ => b
        ((s1.updMe (fun k => k.setX xd v)).retireNext .S t).armDataBrk a 8

/-- `ldlu` (R145). -/
def execLdlu (t : Tok) (xd xa : BitVec 5) (imm : BitVec 12) (s : State) : Host.Outcome State Fault Refusal :=
  .next (issue .S (.ldlu t xd xa imm) t noCheck (fun b => b.accessCheck needR (b.me.memAddr xa imm) 8)
    (fun b =>
      let a := (b.me.memAddr xa imm).toNat
      b.access .S (.ldlu t xd xa imm) needR a (fun c => c.ldluEffect t xd a)) s)

/-- The physical line that `pref` and `resq` act on: none for an address that does not translate for a load, and for the
alias and the windows, which have no lines (R140, R146, R147). -/
def State.sampleLine (s : State) (a : Nat) : Option Nat :=
  match s.locate needR a with
  | .ok l => l.place.pa?.map (· / 128)
  | .error _ => none

/-- Is an address untranslatable, or without R permission (R147, R380, R417)? -/
def State.sampleBad (s : State) (a : Nat) : Bool :=
  match s.locate needR a with
  | .ok _ => false
  | .error c => c == 0x06 || !(((s.entryOf s.me.node.part a).map RangeEntry.r).getD false)

/-- A line that `pref` asks for on behalf of core c, by its physical address (R146): what its coming needs is asked for, the home
slice is asked to fill it, and the L1 takes a read lease on it; a line that no link reaches stays away (R427). A request that is
held back waits in the queue of what holds it. -/
def State.prefLine (s : State) (c pa : Nat) : State :=
  match s.gate c (homePlace pa) with
  | .clear => if s.admits c (pa / 128) then ((s.askLine c (pa / 128)).askFill c (pa / 128)).lease c (pa / 128) else s
  | g => s.join (.lease c pa) g

/-- Has the queue of what holds an access back room for one more (R383, R426)? -/
def State.accepts (s : State) : Gate → Bool
  | .clear => true
  | .page => decide (s.migration.queue.length < 256)
  | .port n _ => decide ((s.ports.get n Port.reset).ordq.length < 256)

/-- The effect of `pref` (R146): it retires when the request is accepted, and waits while what holds the request back has no
room for it. -/
def State.prefEffect (s : State) (t : Tok) (xa : BitVec 5) (imm : BitVec 12) : State :=
  match s.sampleLine (s.me.memAddr xa imm).toNat with
  | none => s.retireNext .S t
  | some line =>
    if s.accepts (s.gate s.core (homePlace (128 * line))) then (s.prefLine s.core (128 * line)).retireNext .S t
    else s.stall .S (.memory (.pref t xa imm))

/-- `pref` (R146); it never traps. -/
def execPref (t : Tok) (xa : BitVec 5) (imm : BitVec 12) (s : State) : Host.Outcome State Fault Refusal :=
  .next (issue .S (.pref t xa imm) t noCheck noCheck (fun b => b.prefEffect t xa imm) s)

/-- The sample of `resq` (R147). -/
def State.residency (s : State) (a : Nat) : Word :=
  if aliasBase ≤ a then 8
  else if s.sampleBad a then BitVec.ofNat 64 (2 ^ 63)
  else match s.sampleLine a with
    | none => 0
    | some line =>
      BitVec.ofNat 64 (b2n (s.filling s.core line) * 4 + b2n (s.inL2 s.core line) * 2 + b2n (s.me.l1.contains line))

/-- `resq` (R147). -/
def execResq (t : Tok) (xd xa : BitVec 5) (imm : BitVec 12) (s : State) : Host.Outcome State Fault Refusal :=
  .next (issue .S (.resq t xd xa imm) t noCheck noCheck (fun b =>
    let v := b.residency (b.me.memAddr xa imm).toNat
    (b.updMe (fun k => k.setX xd v)).retireNext .S t) s)

/-- Does the range entry that maps an address of the issuing core lead to an on-chip window (R379)? -/
def State.throughWindow (s : State) (a : Nat) : Bool :=
  !decide (aliasBase ≤ a) && ((s.entryOf s.me.node.part a).map RangeEntry.win).getD false

/-- The checks of an atomic (R148, R149): an entry that maps an on-chip window fails the permission check, whatever the offset
in the window. -/
def State.amoCheck (s : State) (a : Word) (n : Nat) : Check :=
  if a.toNat % n = 0 ∧ s.throughWindow a.toNat then .trap 0x07 a else s.accessCheck needRW a n

/-- The new word of an atomic from the old word, xb and xd, all cut to its width w in bits. -/
abbrev AmoFn := Nat → Nat → Nat → Nat → Nat

/-- Where an atomic has executed (R149, R288): in the core's L1, which then owns the line, by scope `core` or `quad` and on
host and pooled memory; else at the line's home, as any write there. -/
def State.amoSite (s : State) (scope : BitVec 2) : Place → State
  | .dram pa => if scope.toNat < 2 then s.own s.core (pa / 128) else s
  | .host pa | .pool pa => s.own s.core (pa / 128)
  | .scratch _ | .window _ _ | .peer _ => s

/-- The effect of an atomic (R148 to R150): it acts on the value in the order, not on staged bytes, and is
performed at once; a DIRECT range pins the node. -/
def State.amoEffect (s : State) (t : Tok) (xd xb : BitVec 5) (scope : BitVec 2) (a n : Nat) (f : AmoFn) : State :=
  match s.locate needRW a with
  | .error c => s.trapHere .S c (BitVec.ofNat 64 a)
  | .ok l =>
    if s.hostGone l.place then s.hostLost .S a
    else
      let w := 8 * n
      let b := (s.me.getX xb).toNat % 2 ^ w
      let d := (s.me.getX xd).toNat % 2 ^ w
      match l.place with
      | .scratch off =>
        if s.me.winPoison.contains (off / 16) then s.poisonHere .S 0 a
        else
          let old := s.me.window.readNat off n
          ((s.updMe (fun k => (k.writeWindow off ((leBytes n (f w old b d)).map some)).setX xd (sext n old))).retireNext
            .S t).armDataBrk a n
      | .dram pa | .host pa | .pool pa | .peer pa =>
        let r := s.askPlace s.core n l.place
        if r.poison.contains (pa / 16) then r.poisonHere .S 0 a
        else
          let old := r.mem.readNat pa n
          let s1 := (r.visibleWrite r.me.node.part pa ((leBytes n (f w old b d)).map some)).amoSite scope l.place
          ((s1.updMe (fun k => { k.setX xd (sext n old) with
              node := { k.node with pinned := k.node.pinned || l.direct } })).retireNext .S t).armDataBrk a n
      | .window _ _ => s.trapHere .S 0x07 (BitVec.ofNat 64 a)

/-- Bytes of an atomic: 4 for `.w`, 8 for `.d`. -/
def amoBytes (wide : BitVec 1) : Nat := if wide = 1 then 8 else 4

/-- An atomic (R148). Its scope chooses where it executes and nothing else (R149). -/
def issueAmo (i : Instr) (t : Tok) (xd xa xb : BitVec 5) (scope : BitVec 2) (wide : BitVec 1) (f : AmoFn) (s : State) : State :=
  issue .S i t noCheck (fun b => b.amoCheck (b.me.getX xa) (amoBytes wide))
    (fun b =>
      let a := (b.me.getX xa).toNat
      b.access .S i needRW a (fun c => c.amoEffect t xd xb scope a (amoBytes wide) f)) s

/-- `swap` of R148. -/
def amoSwapF : AmoFn := fun _ _ b _ => b
/-- `add` of R148. -/
def amoAddF : AmoFn := fun w old b _ => (old + b) % 2 ^ w
/-- `and` of R148. -/
def amoAndF : AmoFn := fun _ old b _ => old &&& b
/-- `or` of R148. -/
def amoOrF : AmoFn := fun _ old b _ => old ||| b
/-- `xor` of R148. -/
def amoXorF : AmoFn := fun _ old b _ => old ^^^ b
/-- Signed `min` of R148. -/
def amoMinF : AmoFn := fun w old b _ => if signed b w < signed old w then b else old
/-- Signed `max` of R148. -/
def amoMaxF : AmoFn := fun w old b _ => if signed old w < signed b w then b else old
/-- `cas` of R148: xd holds the compare value. -/
def amoCasF : AmoFn := fun _ old b d => if old = d then b else old

/-- `amo.swap` (R148 to R150). -/
def execAmoSwap (t : Tok) (xd xa xb : BitVec 5) (scope : BitVec 2) (wide : BitVec 1) (s : State) :
    Host.Outcome State Fault Refusal :=
  .next (issueAmo (.amoSwap t xd xa xb scope wide) t xd xa xb scope wide amoSwapF s)

/-- `amo.add` (R148 to R150). -/
def execAmoAdd (t : Tok) (xd xa xb : BitVec 5) (scope : BitVec 2) (wide : BitVec 1) (s : State) :
    Host.Outcome State Fault Refusal :=
  .next (issueAmo (.amoAdd t xd xa xb scope wide) t xd xa xb scope wide amoAddF s)

/-- `amo.and` (R148 to R150). -/
def execAmoAnd (t : Tok) (xd xa xb : BitVec 5) (scope : BitVec 2) (wide : BitVec 1) (s : State) :
    Host.Outcome State Fault Refusal :=
  .next (issueAmo (.amoAnd t xd xa xb scope wide) t xd xa xb scope wide amoAndF s)

/-- `amo.or` (R148 to R150). -/
def execAmoOr (t : Tok) (xd xa xb : BitVec 5) (scope : BitVec 2) (wide : BitVec 1) (s : State) :
    Host.Outcome State Fault Refusal :=
  .next (issueAmo (.amoOr t xd xa xb scope wide) t xd xa xb scope wide amoOrF s)

/-- `amo.xor` (R148 to R150). -/
def execAmoXor (t : Tok) (xd xa xb : BitVec 5) (scope : BitVec 2) (wide : BitVec 1) (s : State) :
    Host.Outcome State Fault Refusal :=
  .next (issueAmo (.amoXor t xd xa xb scope wide) t xd xa xb scope wide amoXorF s)

/-- `amo.min` (R148 to R150). -/
def execAmoMin (t : Tok) (xd xa xb : BitVec 5) (scope : BitVec 2) (wide : BitVec 1) (s : State) :
    Host.Outcome State Fault Refusal :=
  .next (issueAmo (.amoMin t xd xa xb scope wide) t xd xa xb scope wide amoMinF s)

/-- `amo.max` (R148 to R150). -/
def execAmoMax (t : Tok) (xd xa xb : BitVec 5) (scope : BitVec 2) (wide : BitVec 1) (s : State) :
    Host.Outcome State Fault Refusal :=
  .next (issueAmo (.amoMax t xd xa xb scope wide) t xd xa xb scope wide amoMaxF s)

/-- `amo.cas` (R148 to R150). -/
def execAmoCas (t : Tok) (xd xa xb : BitVec 5) (scope : BitVec 2) (wide : BitVec 1) (s : State) :
    Host.Outcome State Fault Refusal :=
  .next (issueAmo (.amoCas t xd xa xb scope wide) t xd xa xb scope wide amoCasF s)

end Sys2Proof.Machine
end

