-- ==== Sys2Proof/Machine/Walker.lean ====
section
/-! DEFINITION. The resident-first walker: descriptors and their checks, residency, the order of hand-out
(R156, R157, R342 to R349). -/

namespace Sys2Proof.Machine

/-- Does one entry of partition p hold n bytes from lo on with what is needed (R345, R397)? -/
def State.oneRange (s : State) (p : Nat) (need : Need) (dram : Bool) (lo : Int) (n : Nat) : Bool :=
  decide (0 ≤ lo) &&
    match s.entryOf p lo.toNat with
    | some e => need.ok e && (!dram || e.dram) && e.maps (lo.toNat + n - 1)
    | none => false

/-- Bytes at a place as the total order gives them, without staged bytes (R156, R290). -/
def State.orderBytes (s : State) (q : Place) (n : Nat) : List Byte :=
  match q with
  | .scratch off => s.me.window.readBytes off n
  | .window d off => (List.range n).map (fun i => (s.coreAt d).windowByte (off + i))
  | .dram pa | .host pa | .pool pa | .peer pa => s.mem.readBytes pa n

/-- Poison at a place, staged bytes aside: the offset of the first poisoned byte. -/
def State.orderPoison (s : State) (q : Place) (n : Nat) : Option Nat :=
  (List.range n).find? (fun i => match q with
    | .scratch off => s.me.winPoison.contains ((off + i) / 16)
    | .window d off => (s.coreAt d).winPoison.contains ((off + i) / 16)
    | .dram pa | .host pa | .pool pa | .peer pa => s.poison.contains ((pa + i) / 16))

/-- Bytes of committed memory at a virtual address of partition p, through one entry (R290). -/
def State.virtBytes (s : State) (p a n : Nat) : List Byte :=
  (List.range n).map (fun i => match s.entryOf p (a + i) with
    | some e => match s.placeOf p e (a + i) with
      | .window d off => (s.coreAt d).windowByte off
      | .dram pa | .host pa | .pool pa | .peer pa => s.mem.read pa
      | .scratch _ => 0
    | none => 0)

/-- Must a read of core c of n bytes at a virtual address of partition p wait: for a page under migration, or a port whose
width changes (R383, R426)? -/
def State.virtHeld (s : State) (c p a n : Nat) : Bool :=
  (linesOf a n).any (fun l => match s.entryOf p (128 * l) with
    | some e => s.gate c (s.placeOf p e (128 * l)) != .clear
    | none => false)

/-- The host-held lines behind n bytes at a virtual address of partition p are recalled (R420). -/
def State.recallVirt (s : State) (p a n : Nat) : State :=
  if s.hostDir = [] then s
  else (linesOf a n).foldl (fun b l => match b.entryOf p (128 * l) with
    | some e => b.recallPlace 128 (b.placeOf p e (128 * l))
    | none => b) s

/-- A walker, an allocator or a solve controller reads n bytes at a virtual address of partition p: host-held lines of device
memory are recalled, and lines of host and pooled memory are asked for (R415, R417, R420). -/
def State.askVirt (s : State) (p a n : Nat) : State :=
  (linesOf a n).foldl (fun b l => match b.entryOf p (128 * l) with
    | some e => match b.placeOf p e (128 * l) with
      | .dram pa => b.recallBytes pa 128
      | .host pa | .pool pa => b.askHome pa 128
      | .scratch _ | .window _ _ | .peer _ => b
    | none => b) s

/-- Fields of a walk descriptor (R343). -/
def wNpts (d : List Byte) : Nat := leAt d 0 4
/-- NTILES. -/
def wNtiles (d : List Byte) : Nat := leAt d 4 1
/-- D. -/
def wBound (d : List Byte) : Nat := leAt d 5 1
/-- THRESH. -/
def wThresh (d : List Byte) : Nat := leAt d 6 1
/-- T. -/
def wTime (d : List Byte) : Nat := leAt d 8 8
/-- BITMAP. -/
def wBitmap (d : List Byte) : Nat := leAt d 0x10 8
/-- FIRST. -/
def wFirst (d : List Byte) : Nat := leAt d 0x18 4
/-- The absolute index after the last point. -/
def wEnd (d : List Byte) : Nat := wFirst d + wNpts d

/-- A tile descriptor (R344): BASE, STRIDE, LEN, KIND. -/
structure TileDesc where
  base   : Nat
  stride : Int
  len    : Nat
  kind   : Nat
  deriving DecidableEq, Repr

/-- Tile descriptor i of a walk descriptor. -/
def wTile (d : List Byte) (i : Nat) : TileDesc :=
  let o := 0x20 + 0x20 * i
  { base := leAt d o 8, stride := signed (leAt d (o + 8) 8) 64, len := leAt d (o + 0x10) 4, kind := leAt d (o + 0x14) 1 }

/-- The first bad field of tile descriptor i by value (R344, R345). -/
def tileFieldBad (d : List Byte) (i : Nat) : Option Nat :=
  let o := 0x20 + 0x20 * i
  let t := wTile d i
  if wNtiles d ≤ i then (if zeroAt d o 32 then none else some o)
  else if t.kind = 1 ∧ t.base % 16 ≠ 0 then some o
  else if (t.kind = 0 ∧ t.stride = 0) ∨ (t.kind = 1 ∧ t.stride ≠ 0) then some (o + 8)
  else if (t.kind = 0 ∧ (t.len = 0 ∨ 8192 < t.len)) ∨ (t.kind = 1 ∧ t.len ≠ 0) then some (o + 0x10)
  else if 1 < t.kind then some (o + 0x14)
  else if zeroAt d (o + 0x15) 11 then none
  else some (o + 0x15)

/-- The first of some options that holds. -/
def firstSome : List (Option Nat) → Option Nat
  | [] => none
  | some x :: _ => some x
  | none :: t => firstSome t

/-- The first field of a walk descriptor outside its range (R343, R345). -/
def walkFieldBad (d : List Byte) : Option Nat :=
  if wNpts d = 0 ∨ 2 ^ 24 < wNpts d then some 0
  else if wNtiles d = 0 ∨ 3 < wNtiles d then some 4
  else if wBound d = 0 then some 5
  else if 8 < wThresh d then some 6
  else if !zeroAt d 7 1 then some 7
  else if wBitmap d % 128 ≠ 0 then some 0x10
  else if 2 ^ 24 < wEnd d then some 0x18
  else if !zeroAt d 0x1C 4 then some 0x1C
  else firstSome [tileFieldBad d 0, tileFieldBad d 1, tileFieldBad d 2]

/-- Bytes of the bitmap that a walk covers, from BITMAP on (R345). -/
def bitmapLen (d : List Byte) : Nat := ceilDiv (wEnd d) 8

/-- Range checks of a tile of kind direct or table (R345, third and fourth points): one range holds both the first and the
last tile, or both the first and the last entry (DEDUCED, log 67). -/
def State.tileRangeBad (s : State) (p : Nat) (d : List Byte) (kind i : Nat) : Option Nat :=
  let t := wTile d i
  let a : Int := wFirst d
  let b : Int := wEnd d - 1
  if wNtiles d ≤ i ∨ t.kind ≠ kind then none
  else if t.kind = 0 then
    let x := t.base + a * t.stride
    let y := t.base + b * t.stride
    if s.oneRange p { r := true, w := false } true (min x y) ((max x y - min x y).toNat + t.len) then none
    else some (0x20 + 0x20 * i)
  else
    let lo := t.base + 16 * wFirst d
    if s.oneRange p { r := true, w := false } false lo (16 * wNpts d) then none else some (0x20 + 0x20 * i)

/-- The first bad field of a walk descriptor (R345). -/
def State.walkBad (s : State) (p : Nat) (d : List Byte) : Option Nat :=
  firstSome [walkFieldBad d,
    if s.oneRange p { r := false, w := true } true (wBitmap d) (bitmapLen d) then none else some 0x10,
    s.tileRangeBad p d 0 0, s.tileRangeBad p d 0 1, s.tileRangeBad p d 0 2,
    s.tileRangeBad p d 1 0, s.tileRangeBad p d 1 1, s.tileRangeBad p d 1 2]

/-- The key of a walk context by handle (R156, R342). -/
def walkKey (h : Nat) : Nat := h / 256 * 4 + h % 256

/-- Does a word have the form of a handle: context 0 to 3 of a stack? -/
def handleForm (h : Nat) : Bool := decide (h / 256 < 16) && decide (h % 256 < 4)

/-- Walk context by key. -/
def State.walk (s : State) (key : Nat) : Walk := s.walks.get key Walk.reset

/-- Walk context replaced. -/
def State.setWalk (s : State) (key : Nat) (w : Walk) : State := { s with walks := s.walks.set key w }

/-- The lines of a tile of n bytes at a virtual address, when one device-home range with R holds it (R344, R345). -/
def State.tileLines (s : State) (p : Nat) (lo : Int) (n : Nat) : Option (List Nat) :=
  if 0 < n ∧ n ≤ 8192 ∧ s.oneRange p { r := true, w := false } true lo n then
    (s.entryOf p lo.toNat).map (fun e =>
      (linesOf lo.toNat n).map (fun l => s.redirect (s.physAt p e (128 * l - e.base)) / 128))
  else none

/-- The lines of tile i of point n, or nothing for a bad table entry (R344, R345). -/
def State.pointTile (s : State) (p : Nat) (d : List Byte) (n i : Nat) : Option (List Nat) :=
  let t := wTile d i
  if t.kind = 0 then s.tileLines p (t.base + n * t.stride) t.len
  else
    let e := s.virtBytes p (t.base + 16 * n) 16
    s.tileLines p (leAt e 0 8) (leAt e 8 4)

/-- The lines of a point over all its tiles, and whether a table entry of it is bad (R345, R346): a tile that fails makes
the point one of no lines. -/
def State.pointLines (s : State) (p : Nat) (d : List Byte) (n : Nat) : List Nat × Bool :=
  let l := (List.range (wNtiles d)).map (fun i => (s.pointTile p d n i, (wTile d i).kind))
  (if l.all (fun x => x.1.isSome) then l.flatMap (fun x => x.1.getD []) else [], l.any (fun x => x.1.isNone && x.2 == 1))

/-- The table entries of a point are about to be read: they are asked for (R415, R417, R420). -/
def State.recallEntries (s : State) (p : Nat) (d : List Byte) (n : Nat) : State :=
  (List.range (wNtiles d)).foldl (fun a i =>
    if (wTile d i).kind = 1 then a.askVirt p ((wTile d i).base + 16 * n) 16 else a) s

/-- Is a point resident (R346)? The lines are device memory's, whose slice no core chooses. -/
def State.resident (s : State) (d : List Byte) (lines : List Nat) : Bool :=
  decide (wThresh d * lines.length ≤ 8 * (lines.filter (s.inL2 0)).length)

/-- A point issued to core c's node under a handle (R157, R348). -/
def State.issuePoint (s : State) (h c pt : Nat) : State :=
  let w := s.walk (walkKey h)
  let w1 := { w with points := w.points.set pt (.issued c), revisit := setErase w.revisit pt, forced := setErase w.forced pt }
  (s.setWalk (walkKey h) w1).updCore c (fun k =>
    { k with node := { k.node with points := k.node.points ++ [{ handle := h, point := pt, done := false }] } })

/-- Deferred points of a context: point, k, t0. -/
def Walk.deferrals (w : Walk) : List (Nat × Nat × Nat) :=
  w.points.filterMap (fun e => match e.2 with
    | .deferred k t0 _ => some (e.1, k, t0)
    | _ => none)

/-- Number of ISSUED points. -/
def Walk.issuedCount (w : Walk) : Nat :=
  (w.points.filter (fun e => match e.2 with
    | .issued _ => true
    | _ => false)).length

/-- A point enters FORCED at the tail (R348). -/
def Walk.force (w : Walk) (pt : Nat) : Walk :=
  { w with points := w.points.set pt .forced, revisit := setErase w.revisit pt, forced := w.forced ++ [pt] }

/-- Timed-out deferrals become FORCED, in order of t0 (R348). -/
def Walk.timeOut (w : Walk) (gtc : Nat) : Walk :=
  let tt := wTime w.desc
  let late := (w.deferrals.filter (fun e => tt != 0 && decide (e.2.2 + tt ≤ gtc))).insertionSort (fun a b => a.2.2 ≤ b.2.2)
  late.foldl (fun a e => a.force e.1) w

/-- A point deferred once more, and its absent lines asked for on behalf of core c's node (R347, R348). -/
def State.deferPoint (s : State) (key c pt : Nat) (lines : List Nat) : State :=
  let w := s.walk key
  let (k, t0) := match w.points.find pt with
    | some (.deferred k t0 _) => (k, t0)
    | _ => (0, s.gtc)
  let w1 := if k + 1 < wBound w.desc then
      { w with points := w.points.set pt (.deferred (k + 1) t0 true), revisit := setErase w.revisit pt }
    else w.force pt
  let absent := lines.filter (fun l => !s.inL2 0 l)
  let f : Prefetch :=
    { key := key, point := pt, core := some c, lines := absent.filterMap (fun l => (sliceOf 0 l).map (fun q => (q, l))),
      stale := false }
  let s1 := absent.foldl (fun a l => a.askFill 0 l) s
  State.setWalk { s1 with prefetches := s1.prefetches ++ [f] } key w1

/-- The next candidate of a context: the revisit queue, then the next NEW point (R349). -/
def Walk.candidate (w : Walk) : Option (Nat × Bool) :=
  match w.revisit with
  | pt :: _ => some (pt, false)
  | [] =>
    if 1024 ≤ w.deferrals.length then none
    else ((List.range' w.cursor (wEnd w.desc - w.cursor)).find? (fun n => (w.points.find n).isNone)).map (fun n => (n, true))

/-- The candidates of one request, at most as many as fuel (R349): the point issued, if one is resident. -/
def State.tryPoints (h c : Nat) : Nat → State → State × Option Nat
  | 0, s => (s, none)
  | fuel + 1, s =>
    let key := walkKey h
    let w := s.walk key
    match w.candidate with
    | none => (s, none)
    | some (pt, new) =>
      let s0 := s.recallEntries w.part w.desc pt
      let (lines, bad) := s0.pointLines w.part w.desc pt
      let s1 := if bad then s0.count w.part 0x000D else s0
      let s2 := if new then s1.setWalk key { w with cursor := pt + 1 } else s1
      if s2.resident w.desc lines then (s2.issuePoint h c pt, some pt)
      else State.tryPoints h c fuel (s2.deferPoint key c pt lines)

/-- The deferred point that the last branch of R349 issues: the largest k, then the earliest t0, then the lowest
index. -/
def Walk.lastResort (w : Walk) : Option Nat :=
  ((w.deferrals.insertionSort (fun a b =>
    a.2.1 > b.2.1 ∨ (a.2.1 = b.2.1 ∧ (a.2.2 < b.2.2 ∨ (a.2.2 = b.2.2 ∧ a.1 ≤ b.1))))).head?).map (·.1)

/-- The value of `wnext` when no point can be issued now. -/
def noPointNow : Nat := 0xFFFFFFFFFFFFFFFE
/-- The value of `wnext` when every point is visited. -/
def allVisited : Nat := 0xFFFFFFFFFFFFFFFF

/-- A `wnext` served for core c (R349): the state and the value returned. -/
def State.serveNext (s : State) (h c : Nat) : State × Nat :=
  let key := walkKey h
  if (s.walk key).state = .closed then (s, allVisited)
  else
    let s0 := s.setWalk key ((s.walk key).timeOut s.gtc)
    let w := s0.walk key
    if 4096 ≤ w.issuedCount then (s0, noPointNow)
    else match w.forced with
      | pt :: _ => (s0.issuePoint h c pt, pt)
      | [] =>
        match State.tryPoints h c 16 s0 with
        | (s1, some pt) => (s1, pt)
        | (s1, none) =>
          let w1 := s1.walk key
          match w1.forced with
          | pt :: _ => (s1.issuePoint h c pt, pt)
          | [] =>
            match w1.lastResort with
            | some pt => (s1.issuePoint h c pt, pt)
            | none => (s1, if w1.issuedCount ≠ 0 then noPointNow else allVisited)

/-- Is every point of an open walk visited (R342)? -/
def Walk.allDone (w : Walk) : Bool :=
  decide ((w.points.filter (fun e => e.2 == .visited)).length = wNpts w.desc)

/-- The points whose bits the bitmap holds set (R342, R351). -/
def State.bitmapPoints (s : State) (p : Nat) (d : List Byte) : List Nat :=
  let bytes := s.virtBytes p (wBitmap d) (bitmapLen d)
  (List.range' (wFirst d) (wNpts d)).filter (fun n => bitOf (bytes.getD (n / 8) 0).toNat (n % 8))

/-- The context that `wopen` takes on a stack: the lowest that is FREE or CLOSED (R156). -/
def State.freeContext (s : State) (stack : Nat) : Option Nat :=
  (List.range 4).find? (fun i => (s.walk (4 * stack + i)).state != .opened)

/-- A walk opened for core c's node (R156, R342): the handle, or all ones when the four contexts are OPEN. Prefetches of the
walk that the context held go on without it. -/
def State.openWalk (s0 : State) (c : Nat) (d : List Byte) : State × Nat :=
  let stack := c / 40
  let nd := (s0.coreAt c).node
  match s0.freeContext stack with
  | none => (s0, 0xFFFFFFFFFFFFFFFF)
  | some i =>
    let s : State := { s0 with prefetches := s0.prefetches.map (fun f => if f.key = 4 * stack + i then { f with stale := true } else f) }
    let vis := s.bitmapPoints nd.part d
    let w : Walk :=
      { state := .opened, part := nd.part, launch := nd.launch, desc := d, cursor := wFirst d,
        points := vis.map (fun n => (n, .visited)), revisit := [], forced := [] }
    (s.setWalk (4 * stack + i) (if w.allDone then { w with state := .closed } else w), stack * 256 + i)

/-- Where the bitmap of a walk is first poisoned: its virtual byte address (R156). The walker reads from BITMAP on, the bytes
before the first point's among them (DESIGN CHOICE, log 110). -/
def State.bitmapPoison (s : State) (p : Nat) (d : List Byte) : Option Nat :=
  ((List.range (bitmapLen d)).find? (fun i => match s.entryOf p (wBitmap d + i) with
    | some e => match s.placeOf p e (wBitmap d + i) with
      | .dram pa => s.poison.contains (pa / 16)
      | _ => false
    | none => false)).map (wBitmap d + ·)

end Sys2Proof.Machine
end

