-- ==== Sys2Proof/Machine/Easel.lean ====
section
/-! DEFINITION. Canvases and the easel: records and their checks, stroke words, entries, exception policies
(R123 to R125, R234 to R236, R242, R309 to R316, R319). -/

namespace Sys2Proof.Machine

/-- Row point list (R234). -/
def cvRows (r : List Byte) : Nat := leAt r 0 8
/-- Column point list. -/
def cvCols (r : List Byte) : Nat := leAt r 8 8
/-- Main stroke program. -/
def cvMain (r : List Byte) : Nat := leAt r 0x10 8
/-- NROWS. -/
def cvNrows (r : List Byte) : Nat := leAt r 0x18 4
/-- NCOLS. -/
def cvNcols (r : List Byte) : Nat := leAt r 0x1C 4
/-- DIM. -/
def cvDim (r : List Byte) : Nat := leAt r 0x20 1
/-- Stroke length. -/
def cvLen (r : List Byte) : Nat := leAt r 0x21 1
/-- SYM. -/
def cvSym (r : List Byte) : Bool := bitOf (leAt r 0x22 1) 0
/-- Diagonal policy: 0 EVAL, 1 CONST, 2 ALT. -/
def cvDiag (r : List Byte) : Nat := field (leAt r 0x22 1) 1 2
/-- Exception policy: 0 PROPAGATE, 1 SUBST, 2 TRAP. -/
def cvExc (r : List Byte) : Nat := field (leAt r 0x22 1) 3 2
/-- Alternate stroke length. -/
def cvAltLen (r : List Byte) : Nat := leAt r 0x23 1
/-- Alternate stroke program. -/
def cvAlt (r : List Byte) : Nat := leAt r 0x28 8
/-- Diagonal constant. -/
def cvDconst (r : List Byte) : Nat := leAt r 0x30 4
/-- Substitute. -/
def cvSubst (r : List Byte) : Nat := leAt r 0x34 4

/-- The first field of a canvas record that fails its test, in ascending offset (R235 step 3). -/
def canvasBad (r : List Byte) : Option Nat :=
  let alt := cvDiag r = 2
  let fl := leAt r 0x22 1
  if cvRows r % 4 ≠ 0 then some 0
  else if cvCols r % 4 ≠ 0 ∨ (cvSym r ∧ cvCols r ≠ cvRows r) then some 8
  else if cvMain r % 4 ≠ 0 then some 0x10
  else if cvNrows r = 0 ∨ 2 ^ 24 < cvNrows r then some 0x18
  else if cvNcols r = 0 ∨ 2 ^ 24 < cvNcols r ∨ (cvSym r ∧ cvNcols r ≠ cvNrows r) then some 0x1C
  else if cvDim r = 0 ∨ 8 < cvDim r then some 0x20
  else if cvLen r = 0 ∨ 32 < cvLen r then some 0x21
  else if cvDiag r = 3 ∨ cvExc r = 3 ∨ fl / 32 ≠ 0 then some 0x22
  else if (alt ∧ (cvAltLen r = 0 ∨ 32 < cvAltLen r)) ∨ (¬alt ∧ cvAltLen r ≠ 0) then some 0x23
  else if !zeroAt r 0x24 4 then some 0x24
  else if (alt ∧ cvAlt r % 4 ≠ 0) ∨ (¬alt ∧ cvAlt r ≠ 0) then some 0x28
  else if cvDiag r = 1 ∧ !(Fmt.f32.decode (cvDconst r)).isFin then some 0x30
  else if cvExc r = 1 ∧ !(Fmt.f32.decode (cvSubst r)).isFin then some 0x34
  else if !zeroAt r 0x38 8 then some 0x38
  else if !zeroAt r 0x60 32 then some 0x60
  else none

/-- Is a stroke source code assigned for a canvas of dimension dim (R123)? -/
def strokeSrcOk (dim c : Nat) : Bool :=
  decide (c < 0x18) || (decide (0x18 ≤ c) && decide (c < 0x18 + dim)) || (decide (0x20 ≤ c) && decide (c < 0x20 + dim))
    || c == 0x28 || c == 0x29

/-- Is a stroke word legal for a canvas of dimension dim (R123, R124)? -/
def strokeOk (dim w : Nat) : Bool :=
  let op := field w 27 5
  let a := field w 17 6
  let b := field w 11 6
  let c := field w 5 6
  let m := field w 0 5
  let sa := strokeSrcOk dim a
  let sb := strokeSrcOk dim b
  if op = 1 ∨ op = 2 ∨ op = 3 ∨ op = 5 ∨ op = 6 then sa && sb && c == 0 && m == 0
  else if op = 4 then sa && sb && strokeSrcOk dim c && m == 0
  else if 7 ≤ op ∧ op ≤ 0xD then sa && b == 0 && c == 0 && m == 0
  else if op = 0xE then sa && sb && strokeSrcOk dim c && m % 4 == 0 && decide (m / 4 ≤ 3)
  else if op = 0xF then a == 0x18 && b == 0x20 && c == 0 && m % 8 == 0 && decide (m / 8 ≤ 1)
  else if op = 0x10 then field w 16 7 == 0
  else false

/-- What the words of one entry read (R242): constants, both points, both indices. -/
structure EntryCtx where
  consts : List Nat
  p : List Nat
  q : List Nat
  i : Nat
  j : Nat
  deriving DecidableEq, Repr

/-- FP32 bits of an index below 2^24. -/
def f32OfNat (n : Nat) : Nat := Fmt.f32.round .rne (FVal.ofInt n)

/-- The FP32 bits that a source code reads (R123, R242). -/
def strokeSrc (x : EntryCtx) (e : List Nat) (c : Nat) : Nat :=
  if c < 0x10 then e.getD c 0
  else if c < 0x18 then x.consts.getD (c - 0x10) 0
  else if c < 0x20 then x.p.getD (c - 0x18) 0
  else if c < 0x28 then x.q.getD (c - 0x20) 0
  else if c = 0x28 then f32OfNat x.i
  else f32OfNat x.j

/-- RNE_F32 of a value. -/
def rf32 (v : FVal) : Nat := Fmt.f32.round .rne v

/-- FP32 bits as a value. -/
def vf32 (b : Nat) : FVal := Fmt.f32.decode b

/-- `dot` over the coordinates from +0 (R242). -/
def strokeDot (dsq : Bool) : List Nat → List Nat → Nat → Nat
  | a :: p, b :: q, d =>
    let d1 := if dsq then
        let u := rf32 ((vf32 a).sub (vf32 b))
        rf32 (((vf32 u).mul (vf32 u)).add (vf32 d))
      else rf32 (((vf32 a).mul (vf32 b)).add (vf32 d))
    strokeDot dsq p q d1
  | _, _, d => d

/-- One stroke word run on the registers e0 to e15 (R242). -/
def strokeRun (x : EntryCtx) (e : List Nat) (w : Nat) : List Nat :=
  let op := field w 27 5
  let ed := field w 23 4
  let a := strokeSrc x e (field w 17 6)
  let b := strokeSrc x e (field w 11 6)
  let c := strokeSrc x e (field w 5 6)
  let va := vf32 a
  let vb := vf32 b
  match op with
  | 1 => e.set ed (rf32 (va.add vb))
  | 2 => e.set ed (rf32 (va.sub vb))
  | 3 => e.set ed (rf32 (va.mul vb))
  | 4 => e.set ed (rf32 ((va.mul vb).add (vf32 c)))
  | 5 => e.set ed (rf32 (va.min vb))
  | 6 => e.set ed (rf32 (va.max vb))
  | 7 => e.set ed (rf32 va.abs)
  | 8 => e.set ed (rf32 va.neg)
  | 9 => e.set ed (rf32 ((FVal.fin false 1 0).div va))
  | 10 => e.set ed (rf32 va.rsqrt)
  | 11 => e.set ed (rf32 va.sqrt)
  | 12 => e.set ed (va.exp2 Fmt.f32)
  | 13 => e.set ed (va.log2 Fmt.f32)
  | 14 =>
    let cc := field w 2 3
    let holds := if cc = 0 then va.eqv vb else if cc = 1 then va.lt vb else if cc = 2 then va.le vb else !va.eqv vb
    if holds then e.set ed c else e
  | 15 => e.set ed (strokeDot (field w 3 2 == 1) x.p x.q 0)
  | 16 => e.set ed (w % 2 ^ 16 * 2 ^ 16)
  | _ => e

/-- Does an entry lie on the diagonal (R236, R312)? -/
def onDiag (r : List Byte) (x : EntryCtx) : Bool :=
  if cvSym r then x.i == x.j
  else (List.range (cvDim r)).all (fun c => (vf32 (x.p.getD c 0)).eqv (vf32 (x.q.getD c 0)))

/-- ENTRY(h, i, j) of R236: the FP32 bits, and whether the entry was evaluated. -/
def entryOf (h : Handle) (x : EntryCtx) : Nat × Bool :=
  let d := onDiag h.record x
  if d ∧ cvDiag h.record = 1 then (cvDconst h.record, false)
  else
    let prog := if d ∧ cvDiag h.record = 2 then h.alt else h.main
    ((prog.foldl (fun e w => strokeRun x e w.toNat) (List.replicate 16 0)).getD 0 0, true)

/-- The exception class of an entry as its TVAL bit, if any (R314); the plane format under `mimm` part 0. -/
def entryClass (v : Nat) (evaluated : Bool) (plane : Option Fmt) : Option Nat :=
  let ovf := match plane, vf32 v with
    | some f, .fin _ m e => decide (f.maxBits < f.roundMag .rne m e)
    | _, _ => false
  match evaluated, vf32 v with
  | true, .nan => some 61
  | true, .inf _ => some 62
  | _, _ => if ovf then some 63 else none

/-- The value that the exception policy hands on (R236, R313 stage 3). -/
def entryPolicy (r : List Byte) (v : Nat) (cls : Option Nat) : Nat :=
  if cls.isNone then v else if cvExc r = 1 then cvSubst r else if cvExc r = 2 then 0 else v

/-- Constants c0 to c7 of a record. -/
def cvConsts (r : List Byte) : List Nat := (List.range 8).map (fun i => leAt r (0x40 + 4 * i) 4)

/-- Words that one run of a program executes, `dot` counting DIM, at least one (R317). -/
def progLen (dim : Nat) (l : List Lane) : Nat :=
  max 1 ((l.map (fun w => if field w.toNat 27 5 = 15 then dim else 1)).sum)

/-- The issue-time count of easel slots per entry (R317, R447). -/
def Handle.lmax (h : Handle) : Nat :=
  let m := progLen (cvDim h.record) h.main
  if cvDiag h.record = 2 then max m (progLen (cvDim h.record) h.alt) else m

/-- What goes on record for the post-completion trap (R239): class bits, count, first row and column. -/
structure ExcLog where
  bits  : List Nat
  count : Nat
  first : Option (Nat × Nat)
  deriving DecidableEq, Repr

/-- Nothing recorded. -/
def ExcLog.empty : ExcLog := { bits := [], count := 0, first := none }

/-- One entry noted, in row-major order. -/
def ExcLog.note (l : ExcLog) (cls : Option Nat) (i j : Nat) : ExcLog :=
  match cls with
  | none => l
  | some b => { bits := setInsert l.bits b, count := l.count + 1, first := some (l.first.getD (i, j)) }

/-- TVAL of R239. -/
def ExcLog.tval (l : ExcLog) : Word :=
  let f := l.first.getD (0, 0)
  BitVec.ofNat 64 ((l.bits.map (2 ^ ·)).sum + min l.count 8191 * 2 ^ 48 + f.1 % 2 ^ 24 * 2 ^ 24 + f.2 % 2 ^ 24)

/-- A word of memory or of the scratchpad as core c's node sees it. -/
def State.nodeWord (s : State) (c a : Nat) : Nat :=
  match s.resolve (s.coreAt c).node.part { r := true, w := false } a with
  | .ok l => leNat (s.placeBytes c l.place 4)
  | .error _ => 0

/-- The cause of a failed read of a word at a virtual address, if any. -/
def State.nodeWordBad (s : State) (c a : Nat) : Option (BitVec 8) :=
  match s.resolve (s.coreAt c).node.part { r := true, w := false } a with
  | .ok _ => none
  | .error e => some e

/-- Poison in a word that core c's node reads: space and address of PSNA (R237). -/
def State.nodeWordPoison (s : State) (c a : Nat) : Option (BitVec 2 × Nat) :=
  match s.resolve (s.coreAt c).node.part { r := true, w := false } a with
  | .ok l =>
    match s.placeFirstPoison c l.place 4 with
    | some i => match l.place with
      | .scratch off => some (1, off + i)
      | _ => some (0, a + i)
    | none => none
  | .error _ => none

/-- Addresses of the words of a point. -/
def pointAddrs (base dim n : Nat) : List Nat := (List.range dim).map (fun c => base + 4 * dim * n + 4 * c)

/-- The coordinates of a point, read by core c's node (R236, R309). -/
def State.pointWords (s : State) (c base dim n : Nat) : List Nat := (pointAddrs base dim n).map (s.nodeWord c)

/-- Rows of an origin that lie in a canvas of n rows: offsets (R218, R237). -/
def originIn (org cnt n : Nat) : List Nat := (List.range cnt).filter (fun i => decide (org + i < n))

/-- ORG of an origin word (R218). -/
def orgOf (w : Lane) : Nat := field w.toNat 0 24
/-- Count of an origin word (R218). -/
def cntOf (w : Lane) : Nat := field w.toNat 24 6 + 1

/-- Addresses of every point word that the rows and columns in range need (R237). -/
def Handle.pointList (h : Handle) (rows cols : Lane) : List Nat :=
  let r := h.record
  (originIn (orgOf rows) (cntOf rows) (cvNrows r)).flatMap (fun i => pointAddrs (cvRows r) (cvDim r) (orgOf rows + i))
    ++ (originIn (orgOf cols) (cntOf cols) (cvNcols r)).flatMap (fun j => pointAddrs (cvCols r) (cvDim r) (orgOf cols + j))

/-- The translation and permission checks of some words: all translations, then all permissions (R237, R244). -/
def State.wordCheck (s : State) (c : Nat) (l : List Nat) : Check :=
  match l.find? (fun a => s.nodeWordBad c a == some 0x06) with
  | some a => .trap 0x06 (BitVec.ofNat 64 a)
  | none =>
    match l.find? (fun a => (s.nodeWordBad c a).isSome) with
    | some a => .trap 0x07 (BitVec.ofNat 64 a)
    | none => .pass

/-- Those of the point bytes that the rows and columns in range need (R237). -/
def State.pointCheck (s : State) (c : Nat) (h : Handle) (rows cols : Lane) : Check := s.wordCheck c (h.pointList rows cols)

/-- Is entry (i, j) of a canvas found without its points: a diagonal entry of a SYM canvas under CONST (R236)? -/
def entryFixed (r : List Byte) (i j : Nat) : Bool := cvSym r && cvDiag r == 1 && i == j

/-- Addresses of the point words that the entries over columns at the offsets ks read: each row point, then each column
point, that some entry needs (R236). -/
def Handle.pointsRead (h : Handle) (rows cols : Lane) (ks : List Nat) : List Nat :=
  let r := h.record
  let ri := originIn (orgOf rows) (cntOf rows) (cvNrows r)
  let ck := (originIn (orgOf cols) (cntOf cols) (cvNcols r)).filter (fun k => ks.contains k)
  let needs (i k : Nat) : Bool := !entryFixed r (orgOf rows + i) (orgOf cols + k)
  (ri.filter (fun i => ck.any (needs i))).flatMap (fun i => pointAddrs (cvRows r) (cvDim r) (orgOf rows + i))
    ++ (ck.filter (fun k => ri.any (fun i => needs i k))).flatMap (fun k => pointAddrs (cvCols r) (cvDim r) (orgOf cols + k))

/-- The first poisoned one of some words. -/
def State.firstWordPoison (s : State) (c : Nat) (l : List Nat) : Option (BitVec 2 × Nat) :=
  (l.filterMap (s.nodeWordPoison c)).head?

/-- Where core c's node finds a word. -/
def State.wordPlace (s : State) (c a : Nat) : Option Place :=
  match s.resolve (s.coreAt c).node.part { r := true, w := false } a with
  | .ok l => some l.place
  | .error _ => none

/-- Must the reads of some words wait: at a page under migration, or for a port whose width changes (R383, R426)? -/
def State.wordsWait (s : State) (c : Nat) (l : List Nat) : Bool :=
  l.any (fun a => match s.wordPlace c a with
    | some q => s.gate c q != .clear
    | none => false)

/-- The first of some words that no link reaches any more (R422, R427). -/
def State.wordsLost (s : State) (c : Nat) (l : List Nat) : Option Nat :=
  l.find? (fun a => match s.wordPlace c a with
    | some q => s.hostGone q
    | none => true)

/-- Some words are asked for, each line once (R415, R417, R420). -/
def State.recallWords (s : State) (c : Nat) (l : List Nat) : State := s.askPlaces c (l.filterMap (s.wordPlace c))

/-- The coordinates that an instruction needs, read once each (R310): the canvas with its row and column points,
by offset from the two origins. -/
structure Points where
  row : List (List Nat)
  col : List (List Nat)
  deriving DecidableEq, Repr

/-- The points of an instruction's rows and columns; those outside the canvas are empty and are not used. -/
def State.readPoints (s : State) (c : Nat) (h : Handle) (rows cols : Lane) : Points :=
  let r := h.record
  { row := (List.range (cntOf rows)).map (fun i => if orgOf rows + i < cvNrows r then s.pointWords c (cvRows r) (cvDim r) (orgOf rows + i) else []),
    col := (List.range (cntOf cols)).map (fun j => if orgOf cols + j < cvNcols r then s.pointWords c (cvCols r) (cvDim r) (orgOf cols + j) else []) }

/-- What entry (i, j), by offset, reads. -/
def Points.ctx (pt : Points) (h : Handle) (rows cols : Lane) (i j : Nat) : EntryCtx :=
  { consts := cvConsts h.record, p := pt.row.getD i [], q := pt.col.getD j [], i := orgOf rows + i, j := orgOf cols + j }

/-- Stroke words at a virtual address, as core c's node reads them. -/
def State.strokeWords (s : State) (c a n : Nat) : List Lane :=
  (List.range n).map (fun i => BitVec.ofNat 32 (s.nodeWord c (a + 4 * i)))

/-- Addresses of a record's stroke words: the main program, then the alternate (R235). -/
def strokeAddrs (r : List Byte) : List Nat :=
  (List.range (cvLen r)).map (fun i => cvMain r + 4 * i)
    ++ (if cvDiag r = 2 then (List.range (cvAltLen r)).map (fun i => cvAlt r + 4 * i) else [])

/-- Position of the first illegal stroke word of a record: the index, 32 more in the alternate (R125). -/
def firstIllegal (dim : Nat) (main alt : List Lane) : Option Nat :=
  match main.findIdx? (fun w => !strokeOk dim w.toNat) with
  | some i => some i
  | none => (alt.findIdx? (fun w => !strokeOk dim w.toNat)).map (32 + ·)

/-- The handle that a record binds, with its strokes as core c's node reads them (R235, R309). -/
def State.bindRecord (s : State) (c : Nat) (r : List Byte) : Handle :=
  { bound := true, record := r, main := s.strokeWords c (cvMain r) (cvLen r),
    alt := if cvDiag r = 2 then s.strokeWords c (cvAlt r) (cvAltLen r) else [] }

/-- Steps 4 and 5 of R235 on a record, every translation before any permission (R244), with the poison of its stroke
words before decoding (R311, R435). -/
def State.strokeCheck (s : State) (c : Nat) (r : List Byte) : Check :=
  Check.all [s.wordCheck c (strokeAddrs r),
    match s.firstWordPoison c (strokeAddrs r) with
    | some (sp, a) => .poison sp a
    | none =>
      let h := s.bindRecord c r
      match firstIllegal (cvDim r) h.main h.alt with
      | some n => .trap 0x01 (BitVec.ofNat 64 n)
      | none => .pass]

/-- Steps 3 to 5 of R235 on a record. -/
def State.bindCheck (s : State) (c : Nat) (r : List Byte) : Check :=
  match canvasBad r with
  | some o => .trap 0x0C (BitVec.ofNat 64 o)
  | none => s.strokeCheck c r

end Sys2Proof.Machine
end

