-- ==== Sys2Proof/Machine/Flags.lean ====
section
/-! DEFINITION. Control registers: what `crd` reads, which accesses are allowed in each mode, and what `cwr`
writes (R38, R54 to R70), with the writable fields of each register. -/

namespace Sys2Proof.Machine

/-- Is a control register readable in the current mode (R54)? -/
def crReadable (sup : Bool) (n : Nat) : Bool :=
  sup || !((decide (0x011 ≤ n) && decide (n ≤ 0x014)) || (decide (0x060 ≤ n) && decide (n ≤ 0x064)))

/-- Has a control register a writable field in the current mode (R54, R55)? -/
def crWritable (sup : Bool) (n : Nat) : Bool :=
  n == 0x020 || (decide (0x030 ≤ n) && decide (n ≤ 0x034)) || (decide (0x050 ≤ n) && decide (n ≤ 0x05F))
    || (sup && ((decide (0x010 ≤ n) && decide (n ≤ 0x014)) || (decide (0x060 ≤ n) && decide (n ≤ 0x064))))

/-- The value of a control register on the issuing core (R54). -/
def State.crValue (s : State) (n : Nat) : Word :=
  let k := s.me
  if 0x050 ≤ n ∧ n ≤ 0x05F then vget k.lslt (n - 0x050) 0
  else if 0x060 ≤ n ∧ n ≤ 0x063 then vget k.brka (n - 0x060) 0
  else match n with
    | 0x000 => s.ucap
    | 0x001 => s.coreid
    | 0x002 => BitVec.ofNat 64 s.gtc
    | 0x003 => k.nodeReg
    | 0x010 => k.tvec
    | 0x011 => k.tcause
    | 0x012 => k.tepc
    | 0x013 => k.tval
    | 0x014 => k.tstat
    | 0x020 => k.twin
    | 0x021 => k.tkcnt
    | 0x030 => BitVec.ofNat 64 k.bands.toNat
    | 0x031 => k.lsc
    | 0x032 => k.srseed
    | 0x033 => k.vstat
    | 0x034 => k.psna
    | 0x040 => k.pcls
    | 0x064 => k.brkc
    | _ => 0

/-- An exponent of LSC clamped to −126..127 (R38). -/
def lscClamp (v : Nat) : Nat := ((clampInt (-126) 127 (signed v 8) + 256) % 256).toNat

/-- The value that LSC takes from a written word (R38): reserved bits 0, exponents clamped. -/
def lscWrite (w : Word) : Word :=
  let n := w.toNat
  BitVec.ofNat 64 (field n 60 4 * 2 ^ 60 + field n 24 32 * 2 ^ 24 + lscClamp (field n 16 8) * 2 ^ 16
    + lscClamp (field n 8 8) * 2 ^ 8 + lscClamp (field n 0 8))

/-- EN of a landing slot (R69). -/
def slotEn (w : Word) : Bool := bitOf w.toNat 63
/-- PERMIT. -/
def slotPermit (w : Word) : Nat := field w.toNat 35 16
/-- SIZE in sectors. -/
def slotSize (w : Word) : Nat := field w.toNat 19 16
/-- BASE in sectors. -/
def slotBase (w : Word) : Nat := field w.toNat 4 15

/-- Is a write that leaves EN = 1 in LSLTs refused (R70)? -/
def Core.slotRefused (k : Core) (i : Nat) (w : Word) : Bool :=
  slotEn w && (slotSize w == 0 || decide (32768 < slotBase w + slotSize w)
    || (List.range 16).any (fun j =>
      let o := vget k.lslt j 0
      j != i && slotEn o && decide (slotBase w < slotBase o + slotSize o) && decide (slotBase o < slotBase w + slotSize w)))

/-- The value that LSLTs takes from a written word (R69, R70): PERMIT is kept while enabled, and cleared by EN = 0. -/
def slotWrite (old w : Word) : Word :=
  let n := w.toNat
  BitVec.ofNat 64 (field n 63 1 * 2 ^ 63 + (if slotEn w then slotPermit old else 0) * 2 ^ 35 + field n 4 31 * 2 ^ 4)

/-- A control register written on the issuing core, the access being allowed (R55 to R69). -/
def Core.crWrite (k : Core) (n : Nat) (w : Word) : Core :=
  if 0x050 ≤ n ∧ n ≤ 0x05F then
    { k with lslt := vset k.lslt (n - 0x050) (slotWrite (vget k.lslt (n - 0x050) 0) w) }
  else if 0x060 ≤ n ∧ n ≤ 0x063 then { k with brka := vset k.brka (n - 0x060) w }
  else match n with
    | 0x010 => { k with tvec := putField w 0 2 0 }
    | 0x011 => { k with tcause := BitVec.ofNat 64 (w.toNat % 2 ^ 12) }
    | 0x012 => { k with tepc := w }
    | 0x013 => { k with tval := w }
    | 0x014 => { k with psup := bitOf w.toNat 1 }
    | 0x020 => { k with twin := BitVec.ofNat 64 (w.toNat % 2 ^ 48) }
    | 0x030 => { k with bands := w.setWidth 4 }
    | 0x031 => { k with lsc := lscWrite w }
    | 0x032 => { k with srseed := w }
    | 0x033 =>
      { k with psns := BitVec.ofNat 2 (field w.toNat 4 2), psnv := bitOf w.toNat 3, ovf := bitOf w.toNat 0 }
    | 0x034 => { k with psna := w }
    | 0x064 => { k with brkc := BitVec.ofNat 64 (w.toNat % 2 ^ 16) }
    | _ => k

/-- The cycle of a core ends: the register that `cwr` wrote changes, over any update that another strand made in the same
cycle (R55, R62, R176), and the counts of the FIFOs are those at the start of the next cycle (R67). -/
def Core.endCycle (k : Core) : Core :=
  { (match k.now.write with
      | some (n, w) => k.crWrite n.toNat w
      | none => k) with now := Now.none }

/-- The cycle ends on every core (R55, R67), and n cycles pass; within a cycle, none does. -/
def State.pass (s : State) (n : Nat) : State :=
  if n = 0 then s
  else
    let s1 := s.tick n
    { s1 with cores := s1.cores.mapVals (fun _ k => k.endCycle), slot := .fresh }

/-- LSC after `vlsc` for an overflow result, or nothing where it traps with cause 0x0D (R39). -/
def lscStep (lsc : Word) (ovf : Bool) : Option Word :=
  let n := lsc.toNat
  let smin := signed (field n 8 8) 8
  let smax := signed (field n 16 8) 8
  let sexp := clampInt smin (max smin smax) (signed (field n 0 8) 8)
  let flcnt := field n 60 3
  let intv := field n 40 16
  let clean := field n 24 16
  let pack (fl : Nat) (cnt cl : Nat) (e : Int) : Word :=
    BitVec.ofNat 64 (fl * 2 ^ 63 + cnt * 2 ^ 60 + intv * 2 ^ 40 + cl * 2 ^ 24 + field n 8 16 * 2 ^ 8 + ((e + 256) % 256).toNat)
  if ovf then
    if smin < sexp then some (pack (field n 63 1) 0 0 (sexp - 1))
    else if flcnt < 7 then some (pack 1 (flcnt + 1) 0 sexp)
    else none
  else if intv = 0 ∨ clean + 1 < intv then some (pack (field n 63 1) 0 (min (clean + 1) 65535) sexp)
  else some (pack (field n 63 1) 0 0 (min (sexp + 1) (max smin smax)))

end Sys2Proof.Machine
end

