-- ==== Sys2Proof/Machine/Power.lean ====
section
/-! DEFINITION. Power classes, allotments and limits (R162, R445, R446, R451, R454, R470). -/

namespace Sys2Proof.Machine

/-- Present cores of stack k. -/
def State.stackCores (s : State) (k : Nat) : List Nat :=
  (List.range 640).filter (fun c => c / 40 == k && s.present c)

/-- The stack manager's state. -/
def State.stackPower (s : State) (k : Nat) : StackPower := s.power.get k StackPower.reset

/-- The sum in pJ of the budgets of a stack's grants, with one core counted at another class (R446). -/
def State.grantSum (s : State) (k : Nat) (asIf : Option (Nat × Nat)) : Nat :=
  ((s.stackCores k).map (fun c => match asIf with
    | some (d, cls) => if d = c then budget cls else budget (s.coreAt c).grant.toNat
    | none => budget (s.coreAt c).grant.toNat)).sum

/-- The limit L of a core of stack k (R448, R453, R454, R470 step 5). -/
def State.limitOf (s : State) (k : Nat) (sum : Nat) (v : Core) : Nat :=
  let b := budget v.grant.toNat
  let m := s.stackPower k
  let a := m.allot * 1000
  if s.hot ∨ s.belowFloor then 0
  else (if sum ≤ a then b else b * a / sum) * (10 - min m.steps 10) / 10

/-- The limits of a stack's cores brought up to date (R470 step 5). -/
def State.setLimits (s : State) (k : Nat) : State :=
  let sum := s.grantSum k none
  { s with cores := s.cores.mapVals (fun c v => if c / 40 = k then { v with limit := s.limitOf k sum v } else v) }

/-- The limits of every stack's cores. -/
def State.setAllLimits (s : State) : State := (List.range 16).foldl (fun a k => a.setLimits k) s

/-- A core's class becomes c (R162). -/
def State.setClass (s : State) (core : Nat) (c : BitVec 3) : State :=
  (s.updCore core (fun k => { k with grant := c, req := c, pend := false })).setLimits (core / 40)

/-- Partition p's floor in W (R452, R456). -/
def State.floorOf (s : State) (p : Nat) : Nat :=
  match s.config.parts.find? (fun e => e.1 == p) with
  | some e => e.2.floor
  | none => 0

/-- CAPW (R449). -/
def State.capw (s : State) : Nat := field s.pkcap.toNat 0 16

/-- The allotment of stack k in nJ (R470 steps 1 to 4). -/
def State.allotmentOf (s : State) (k : Nat) : Nat :=
  let cap := s.capw
  let ps := s.config.parts.map (·.1)
  let n : Nat := (ps.map (fun p => (s.coresOf p).length)).sum
  let scaled (p : Nat) : Rat := (s.floorOf p : Rat) * s.fscale / 100
  let total : Rat := (ps.map scaled).sum
  if cap = 0 then 0
  else
    let share (p : Nat) : Rat :=
      let np := (s.coresOf p).length
      let nps := ((s.coresOf p).filter (fun c => c / 40 == k)).length
      if np = 0 then 0
      else ((cap - 190 : Nat) : Rat) * (scaled p + ((cap : Rat) - total) * np / n) / cap * nps / np
    (((ps.map share).sum * 1000).floor).toNat

end Sys2Proof.Machine
end

