-- ==== Sys2Proof/Machine/Solve.lean ====
section
/-! DEFINITION. Starting a solve: the record, its header checks and acceptance (R161, R395 to R397, R319). -/

namespace Sys2Proof.Machine

/-- METHOD: 0 CG, 1 BiCGSTAB (R396). -/
def svMethod (h : List Byte) : Nat := leAt h 1 1
/-- PREC: 0 none, 1 Jacobi, 2 block-Jacobi. -/
def svPrec (h : List Byte) : Nat := leAt h 2 1
/-- FORM: 0 block-sparse, 1 canvas plus shift. -/
def svForm (h : List Byte) : Nat := leAt h 3 1
/-- VERIFY. -/
def svVerify (h : List Byte) : Bool := bitOf (leAt h 4 1) 0
/-- X0ZERO. -/
def svX0Zero (h : List Byte) : Bool := bitOf (leAt h 4 1) 1
/-- STACKS. -/
def svStacks (h : List Byte) : Nat := leAt h 6 2
/-- N. -/
def svN (h : List Byte) : Nat := leAt h 8 4
/-- MAXIT. -/
def svMaxit (h : List Byte) : Nat := leAt h 0x0C 4
/-- DEADLINE. -/
def svDeadline (h : List Byte) : Nat := leAt h 0x10 8
/-- TOL, FP64 bits. -/
def svTol (h : List Byte) : Nat := leAt h 0x18 8
/-- MATRIX. -/
def svMatrix (h : List Byte) : Nat := leAt h 0x20 8
/-- SHIFT, FP32 bits. -/
def svShift (h : List Byte) : Nat := leAt h 0x28 4
/-- CTR. -/
def svCtr (h : List Byte) : Nat := leAt h 0x2C 2
/-- BVEC. -/
def svB (h : List Byte) : Nat := leAt h 0x30 8
/-- XVEC. -/
def svX (h : List Byte) : Nat := leAt h 0x38 8
/-- WORK. -/
def svWork (h : List Byte) : Nat := leAt h 0x40 8
/-- WORKLEN. -/
def svWorkLen (h : List Byte) : Nat := leAt h 0x48 8

/-- Stacks named by a record. -/
def svStackList (h : List Byte) : List Nat := (List.range 16).filter (fun s => bitOf (svStacks h) s)

/-- Vectors that a method keeps in the work area (R397). -/
def svVecs (h : List Byte) : Nat := if svMethod h = 0 then 6 else 10

/-- Bytes of the preconditioner (R397). -/
def svPrecBytes (h : List Byte) : Nat := if svPrec h = 0 then 0 else if svPrec h = 1 then 4 * svN h else 132 * svN h

/-- NB of a block-sparse descriptor (R396). -/
def bsNb (d : List Byte) : Nat := leAt d 0 4
/-- NNZB. -/
def bsNnzb (d : List Byte) : Nat := leAt d 4 4
/-- ROWPTR. -/
def bsRowptr (d : List Byte) : Nat := leAt d 8 8
/-- COLIDX. -/
def bsColidx (d : List Byte) : Nat := leAt d 0x10 8
/-- VALS. -/
def bsVals (d : List Byte) : Nat := leAt d 0x18 8

/-- Does one DIRECT device-home range with R and W hold n bytes (R397)? -/
def State.directRange (s : State) (p lo n : Nat) : Bool :=
  s.oneRange p { r := true, w := true } true lo n &&
    match s.entryOf p lo with
    | some e => e.direct
    | none => false

/-- Do two extents overlap? -/
def overlaps (a n b m : Nat) : Bool := decide (max a b < min (a + n) (b + m))

/-- Stroke words of a record at committed memory (R319). -/
def State.virtWords (s : State) (p a n : Nat) : List Lane :=
  let b := s.virtBytes p a (4 * n)
  (List.range n).map (fun i => BitVec.ofNat 32 (leAt b (4 * i) 4))

/-- The handle that a canvas solve holds (R319). -/
def State.solveCanvas (s : State) (p : Nat) (r : List Byte) : Handle :=
  { bound := true, record := r, main := s.virtWords p (cvMain r) (cvLen r),
    alt := if cvDiag r = 2 then s.virtWords p (cvAlt r) (cvAltLen r) else [] }

/-- Does every address of a list pass translation and the R permission as a word that is read does (R235, R417, R419)? The
controller has no scratchpad. -/
def State.readable (s : State) (p : Nat) (l : List Nat) : Bool :=
  l.all (fun a => decide (a < aliasBase) && match s.resolve p { r := true, w := false } a with
    | .ok _ => true
    | .error _ => false)

/-- Is the matrix of a record acceptable (R319, R397)? -/
def State.matrixOk (s : State) (p : Nat) (h : List Byte) : Bool :=
  let m := svMatrix h
  if svForm h = 0 then
    m % 64 == 0 && s.oneRange p { r := true, w := false } false m 64 && s.readable p [m] &&
      let d := s.virtBytes p m 64
      bsNb d == svN h / 64 && decide (0 < bsNnzb d) && decide (bsNnzb d ≤ 2 ^ 24) && bsVals d % 16 == 0
        && zeroAt d 0x20 32
        && s.oneRange p { r := true, w := false } true (bsRowptr d) (4 * (bsNb d + 1))
        && s.oneRange p { r := true, w := false } true (bsColidx d) (4 * bsNnzb d)
        && s.oneRange p { r := true, w := false } true (bsVals d) (16384 * bsNnzb d)
  else
    m % 128 == 0 && s.oneRange p { r := true, w := false } false m 128 && s.readable p [m] &&
      let r := s.virtBytes p m 128
      (canvasBad r).isNone && s.readable p (strokeAddrs r)
        && (firstIllegal (cvDim r) (s.solveCanvas p r).main (s.solveCanvas p r).alt).isNone
        && cvNrows r == cvNcols r && cvNrows r == svN h && cvExc r != 2 && (svMethod h != 0 || cvSym r)

/-- Is the completion counter acceptable (R397)? -/
def State.solveCtrOk (s : State) (p addr : Nat) (h : List Byte) : Bool :=
  let c := svCtr h
  let k := s.counter c
  k.armed && s.inShare p c && k.vbase == addr + 0x80 && k.vlen == 128

/-- The first field of a solve record that fails, in offset order (R397). A record outside a DIRECT device-home
range is charged to offset 0, and an overlap to the later field of the pair (DEDUCED, log 14). -/
def State.solveBad (s : State) (p stack addr : Nat) (h : List Byte) : Option Nat :=
  let n := svN h
  let tol := Fmt.f64.decode (svTol h)
  if leAt h 0 1 ≠ 1 ∨ !s.directRange p addr 256 then some 0
  else if 1 < svMethod h then some 1
  else if 2 < svPrec h then some 2
  else if 1 < svForm h then some 3
  else if leAt h 4 1 / 4 ≠ 0 then some 4
  else if leAt h 5 1 ≠ 0 then some 5
  else if !bitOf (svStacks h) stack ∨ (svStackList h).any (fun k => (s.coresOf p).all (fun c => c / 40 != k)) then some 6
  else if n = 0 ∨ 2 ^ 24 < n ∨ (svForm h = 0 ∧ n % 64 ≠ 0) ∨ (svPrec h = 2 ∧ n % 16 ≠ 0) then some 8
  else if svMaxit h = 0 then some 0x0C
  else if !tol.isFin ∨ (tol.isNeg ∧ !tol.isZero) then some 0x18
  else if !s.matrixOk p h then some 0x20
  else if !(Fmt.f32.decode (svShift h)).isFin ∨ (svForm h = 0 ∧ svShift h ≠ 0) then some 0x28
  else if !s.solveCtrOk p addr h then some 0x2C
  else if leAt h 0x2E 2 ≠ 0 then some 0x2E
  else if svB h % 16 ≠ 0 ∨ !s.oneRange p { r := true, w := false } true (svB h) (4 * n) ∨ overlaps addr 256 (svB h) (4 * n) then
    some 0x30
  else if svX h % 16 ≠ 0 ∨ !s.directRange p (svX h) (4 * n) ∨ overlaps addr 256 (svX h) (4 * n)
      ∨ overlaps (svB h) (4 * n) (svX h) (4 * n) then some 0x38
  else if svWork h % 256 ≠ 0 ∨ !s.directRange p (svWork h) (max 1 (svWorkLen h)) ∨ overlaps addr 256 (svWork h) (svWorkLen h)
      ∨ overlaps (svB h) (4 * n) (svWork h) (svWorkLen h) ∨ overlaps (svX h) (4 * n) (svWork h) (svWorkLen h) then some 0x40
  else if svWorkLen h < 4 * n * svVecs h + svPrecBytes h then some 0x48
  else if !zeroAt h 0x50 48 then some 0x50
  else none

/-- The checks of `solve` on its address, after the decode checks (R161). -/
def State.solveAddr (s : State) (a : Word) : Check :=
  if a.toNat % 256 ≠ 0 then .trap 0x08 a
  else if aliasBase ≤ a.toNat then .trap 0x06 a
  else match s.resolve s.me.node.part { r := true, w := true } a.toNat with
    | .error c => .trap c a
    | .ok _ => .pass

/-- The checks of `solve` on the record that the controller reads (R161, R319, R397). -/
def State.solveRead (s : State) (a : Word) : Check :=
  let p := s.me.node.part
  match s.resolve p { r := true, w := true } a.toNat with
  | .error c => .trap c a
  | .ok l =>
    match s.solveBad p (s.core / 40) a.toNat (s.orderBytes l.place 128) with
    | some o => .trap 0x11 (BitVec.ofNat 64 o)
    | none => .pass

/-- The issue checks of `solve` after the decode checks, in order (R161). -/
def State.solveCheck (s : State) (a : Word) : Check :=
  match s.solveAddr a with
  | .pass => s.solveRead a
  | c => c

/-- A controller's state. -/
def State.solver (s : State) (k : Nat) : Solver := s.solvers.get k Solver.reset

/-- Where a read of committed bytes at a virtual address of partition p first meets poison (R435). -/
def State.virtPoison (s : State) (p a n : Nat) : Option Nat :=
  ((List.range n).find? (fun i => match s.entryOf p (a + i) with
    | some e => match s.placeOf p e (a + i) with
      | .window d off => (s.coreAt d).winPoison.contains (off / 16)
      | .dram pa | .host pa | .pool pa | .peer pa => s.poison.contains (pa / 16)
      | .scratch _ => false
    | none => false)).map (a + ·)

/-- What the controller reads at acceptance: the record's head, the matrix's record or descriptor, the stroke words, and the
bytes of x_0, with which START begins (R309, R395, R402, R409; DEDUCED, log 57). -/
def State.solveReads (s : State) (p a : Nat) : List (Nat × Nat) :=
  let h := s.virtBytes p a 128
  let r := s.virtBytes p (svMatrix h) 128
  [(a, 128), (svMatrix h, if svForm h = 0 then 64 else 128)]
    ++ (if svForm h = 1 then [(cvMain r, 4 * cvLen r)] ++ (if cvDiag r = 2 then [(cvAlt r, 4 * cvAltLen r)] else []) else [])
    ++ (if svX0Zero h then [] else [(svX h, 4 * svN h)])

/-- Lines of those bytes that the host holds are recalled, each before what lies behind it is read (R420). -/
def State.solveRecall (s : State) (p a : Nat) : State :=
  if s.hostDir = [] then s
  else
    let s1 := s.recallVirt p a 128
    let s2 := s1.recallVirt p (svMatrix (s1.virtBytes p a 128)) 128
    (s2.solveReads p a).foldl (fun b e => b.recallVirt p e.1 e.2) s2

/-- A solve accepted or refused for the issuing core (R395): the new state and xd. A read that meets poison at
acceptance ends the solve as a fault of R410 (DEDUCED, log 14). -/
def State.startSolve (s : State) (a : Nat) : State × Word :=
  let c := s.core
  let k := c / 40
  let nd := s.me.node
  let h := s.virtBytes nd.part a 128
  let ks := setInsert (svStackList h) k
  if ks.all (fun j => (s.solver j).phase == .idle) then
    let form := svForm h
    let v : Solver :=
      { Solver.reset with
        phase := .start, addr := a, head := h, core := c, part := nd.part, launch := nd.launch, gtcAcc := s.gtc,
        x0 := if svX0Zero h then [] else s.virtBytes nd.part (svX h) (4 * svN h),
        canvas := if form = 1 then s.solveCanvas nd.part (s.virtBytes nd.part (svMatrix h) 128) else Handle.unbound,
        desc := if form = 0 then s.virtBytes nd.part (svMatrix h) 64 else [] }
    let bad := (s.solveReads nd.part a).findSome? (fun e => s.virtPoison nd.part e.1 e.2)
    let v := if bad.isSome then { v with phase := .finishing, status := 8 } else v
    let s1 := ks.foldl (fun b j => { b with solvers := b.solvers.set j (if j = k then v else { Solver.reset with phase := .reserved k }) }) s
    let r : ErrRec :=
      { kind := 8, cause := 0x20, launch := nd.launch, stage := nd.stage, core := c, addr := BitVec.ofNat 64 (bad.getD a), arg := a }
    let s2 := if bad.isSome then s1.report nd.part r else s1
    (s2.updMe (fun x => { x with node := { x.node with solving := some k } }), 0)
  else (s, 1)

end Sys2Proof.Machine
end

