-- ==== Sys2Proof/Machine/ScalarSync.lean ====
section
/-! DEFINITION. Scalar instructions on counters, walks, queues, solves, power, time, control registers and traps
(R152 to R168). -/

namespace Sys2Proof.Machine

/-- The checks of R152 on a counter operand; TVAL is the operand. -/
def State.ctrChk (s : State) (c : Word) : Check :=
  match s.counterCheckArmed s.me.node.part c.toNat with
  | some e => .trap e c
  | none => .pass

/-- The S strand waits for a phase of a counter (R153): the wait's first test is kept. -/
def State.waitCounter (s : State) (c p : Nat) : State :=
  s.updMe (fun k => k.updStrand .S (fun t =>
    let first := match t.cond with
      | .counter c' p' n => if c' = c ∧ p' = p then n else s.cycle
      | _ => s.cycle
    { t with cond := .counter c p first, woken := false, since := first }))

/-- `acwait` (R153): it retires with the phase observed once that phase is reached. Its test of xb[63:32] comes last (DESIGN
CHOICE, log 79). -/
def execAcwait (t : Tok) (xd xa xb : BitVec 5) (s : State) : Host.Outcome State Fault Refusal :=
  .next (issue .S (.acwait t xd xa xb) t noCheck
    (fun b => Check.all [b.ctrChk (b.me.getX xa), Check.openIf (field (b.me.getX xb).toNat 32 32 != 0) 0x0F])
    (fun b =>
      let c := (b.me.getX xa).toNat
      let p := field (b.me.getX xb).toNat 0 32
      let now := (b.counter c).phase
      if reached now p then (b.updMe (fun k => k.setX xd (BitVec.ofNat 64 now))).retireNext .S t
      else b.waitCounter c p) s)

/-- `acread` (R154): phase and count of a counter in one step. -/
def execAcread (t : Tok) (xd xa : BitVec 5) (s : State) : Host.Outcome State Fault Refusal :=
  .next (issue .S (.acread t xd xa) t noCheck (fun b => b.ctrChk (b.me.getX xa))
    (fun b =>
      let k := b.counter (b.me.getX xa).toNat
      (b.updMe (fun m => m.setX xd (BitVec.ofNat 64 (k.phase * 2 ^ 32 + min k.count 0xFFFFFFFF)))).retireNext .S t) s)

/-- Does the S strand wait for a phase of a counter already, its arrival made (R155)? -/
def Core.waitsFor (k : Core) (c p : Nat) : Bool :=
  match (k.strand .S).cond with
  | .counter d q _ => d == c && q == p
  | _ => false

/-- The checks of `bar` in order (R155). Its arrival made, it waits exactly as `acwait` does: the region is not asked
again. -/
def State.barCheck (s : State) (xa xb : Word) : Check :=
  let c := field xb.toNat 0 16
  let k := s.counter c
  let inside := decide (k.vbase ≤ xa.toNat) && decide (xa.toNat < k.vbase + k.vlen)
  Check.all [s.accessCheck needW xa 16, s.ctrChk (BitVec.ofNat 64 c),
    Check.openIf (field xb.toNat 16 16 != 0 || !(inside || s.me.waitsFor c (field xb.toNat 32 32))) 0x0F]

/-- The arrival of `bar` at the home of its sector, in one step (R155): counted once for a phase. A poisoned sector is compared
as it stands (DESIGN CHOICE, log 99). -/
def State.barArrive (s : State) (a c p : Nat) : State :=
  match s.locate needW a with
  | .ok { place := .dram pa, .. } | .ok { place := .pool pa, .. } | .ok { place := .host pa, .. }
  | .ok { place := .peer pa, .. } =>
    let r := if pa < 0x10000000000 then s.recallBytes pa 16 else s
    if reached (r.counter c).phase p ∨ r.mem.readNat pa 4 = p then r
    else r.visibleWrite s.me.node.part pa ((leBytes 4 p ++ leBytes 4 s.core ++ leBytes 8 s.gtc).map some)
  | _ => s

/-- The effect of `bar` (R155): the arrival, then the wait of `acwait`. -/
def State.barEffect (s : State) (t : Tok) (xa xb : BitVec 5) : State :=
  let a := (s.me.getX xa).toNat
  let c := field (s.me.getX xb).toNat 0 16
  let p := field (s.me.getX xb).toNat 32 32
  let s1 := if s.me.waitsFor c p then s else s.barArrive a c p
  if reached (s1.counter c).phase p then (s1.retireNext .S t).armDataBrk a 16 else s1.waitCounter c p

/-- `bar` (R155). -/
def execBar (t : Tok) (xa xb : BitVec 5) (s : State) : Host.Outcome State Fault Refusal :=
  .next (issue .S (.bar t xa xb) t noCheck (fun b => b.barCheck (b.me.getX xa) (b.me.getX xb))
    (fun b => b.access .S (.bar t xa xb) needW (b.me.getX xa).toNat (fun c => c.barEffect t xa xb)) s)

/-- The checks of `wopen` on its address (R156). -/
def State.wopenAddr (s : State) (a : Word) : Check :=
  if a.toNat % 128 ≠ 0 then .trap 0x08 a
  else if aliasBase ≤ a.toNat then .trap 0x06 a
  else match s.locate needR a.toNat with
    | .error c => .trap c a
    | .ok _ => .pass

/-- The checks of `wopen` on what the walker reads (R156, R345): poison of the descriptor comes before its fields are judged,
and poison of the bitmap before it is read. -/
def State.wopenRead (s : State) (a : Word) : Check :=
  let p := s.me.node.part
  match s.locate needR a.toNat with
  | .error c => .trap c a
  | .ok l =>
    match s.orderPoison l.place 128 with
    | some i => .poison 0 (a.toNat + i)
    | none =>
      let d := s.orderBytes l.place 128
      match s.walkBad p d with
      | some o => .trap 0x10 (BitVec.ofNat 64 o)
      | none =>
        match (if (s.freeContext (s.core / 40)).isSome then s.bitmapPoison p d else none) with
        | some x => .poison 0 x
        | none => .pass

/-- The checks of `wopen` in order (R156, R345). -/
def State.wopenCheck (s : State) (a : Word) : Check :=
  match s.wopenAddr a with
  | .pass => s.wopenRead a
  | c => c

/-- Must what a walker or a solve controller reads for a request wait, at a page under migration or behind a port (R383,
R426)? Where it reads lies in a descriptor or record as the host has given it back (R420). -/
def State.unitHeld (s : State) (i : Instr) : Bool :=
  let p := s.me.node.part
  let held (e : Nat × Nat) : Bool := s.virtHeld s.core p e.1 e.2
  match i with
  | .wopen _ _ xa =>
    let a := (s.me.getX xa).toNat
    let d := (s.recallVirt p a 128).virtBytes p a 128
    held (a, 128) || held (wBitmap d, bitmapLen d)
  | .wnext _ _ xa =>
    let d := (s.walk (walkKey (s.me.getX xa).toNat)).desc
    (List.range (wNtiles d)).any (fun n =>
      (wTile d n).kind == 1 && held ((wTile d n).base + 16 * wFirst d, 16 * wNpts d))
  | .solve _ _ xa => ((s.solveRecall p (s.me.getX xa).toNat).solveReads p (s.me.getX xa).toNat).any held
  | _ => false

/-- A request to a walker or a solve controller: answered at once, or by MEMORY_ACCESS_COMPLETE when its turn says so
or when what it reads is held back (R157, R161, R349, R462). -/
def State.request (s : State) (i : Instr) (eff : State → State) : State :=
  if s.late || s.unitHeld i then s.stall .S (.memory i) else eff s

/-- The effect of `wopen` (R156, R342). -/
def State.wopenEffect (s : State) (t : Tok) (xd : BitVec 5) (a : Nat) : State :=
  let (b, h) := s.openWalk s.core (s.virtBytes s.me.node.part a 128)
  (b.updMe (fun k => k.setX xd (BitVec.ofNat 64 h))).retireNext .S t

/-- The host's copies of the bitmap's lines are recalled, once a descriptor that can be opened names them (R156, R420). -/
def State.wopenRecall (s : State) (a : Word) : State :=
  let p := s.me.node.part
  match s.locate needR a.toNat with
  | .error _ => s
  | .ok l =>
    let d := s.orderBytes l.place 128
    if (s.orderPoison l.place 128).isNone ∧ (s.walkBad p d).isNone ∧ (s.freeContext (s.core / 40)).isSome then
      s.recallVirt p (wBitmap d) (bitmapLen d)
    else s

/-- The walker's answer to `wopen` (R156, R345): it reads the descriptor once and what it names, judges what it has read, and
opens the walk; what the host holds of either comes back first (R420). -/
def State.wopenAnswer (s : State) (t : Tok) (xd : BitVec 5) (a : Word) : State :=
  State.checked ((s.askVirt s.me.node.part a.toNat 128).wopenRecall a) .S (fun b => b.wopenRead a)
    (fun b => b.wopenEffect t xd a.toNat)

/-- `wopen` (R156). A request that waits reads nothing before its answer. -/
def execWopen (t : Tok) (xd xa : BitVec 5) (s : State) : Host.Outcome State Fault Refusal :=
  .next (issue .S (.wopen t xd xa) t noCheck (fun b => b.wopenAddr (b.me.getX xa))
    (fun b => b.request (.wopen t xd xa) (fun c => c.wopenAnswer t xd (b.me.getX xa))) s)

/-- The checks of `wnext` (R157): a free or foreign handle, then a 65th point on an open walk. -/
def State.wnextCheck (s : State) (h : Word) : Check :=
  let w := s.walk (walkKey h.toNat)
  let nd := s.me.node
  if !handleForm h.toNat ∨ w.state = .free ∨ w.part ≠ nd.part ∨ w.launch ≠ nd.launch then .trap 0x10 h
  else if w.state = .opened ∧ 64 ≤ nd.points.length then .trap 0x10 h
  else .pass

/-- The effect of `wnext` (R157, R349); a handle that has become foreign while the request was under way traps. -/
def State.wnextEffect (s : State) (t : Tok) (xd : BitVec 5) (h : Word) : State :=
  match s.wnextCheck h with
  | .pass =>
    let (b, v) := s.serveNext h.toNat s.core
    (b.updMe (fun k => k.setX xd (BitVec.ofNat 64 v))).retireNext .S t
  | _ => s.trapHere .S 0x10 h

/-- `wnext` (R157, R349). -/
def execWnext (t : Tok) (xd xa : BitVec 5) (s : State) : Host.Outcome State Fault Refusal :=
  .next (issue .S (.wnext t xd xa) t noCheck (fun b => b.wnextCheck (b.me.getX xa))
    (fun b => b.request (.wnext t xd xa) (fun c => c.wnextEffect t xd (b.me.getX xa))) s)

/-- Does a node hold a point issued under a handle and not yet marked (R158)? -/
def Node.holds (nd : Node) (h pt : Nat) : Bool :=
  nd.points.any (fun e => e.handle == h && e.point == pt && !e.done)

/-- `wdone` (R158): the mark is the node's until it commits. -/
def execWdone (t : Tok) (xa xb : BitVec 5) (s : State) : Host.Outcome State Fault Refusal :=
  .next (issue .S (.wdone t xa xb) t noCheck
    (fun b => Check.trapIf (!b.me.node.holds (b.me.getX xa).toNat (b.me.getX xb).toNat) 0x10 (b.me.getX xb))
    (fun b =>
      let h := (b.me.getX xa).toNat
      let pt := (b.me.getX xb).toNat
      (b.updMe (fun k => { k with node := { k.node with points := k.node.points.map (fun e =>
          if e.handle = h ∧ e.point = pt then { e with done := true } else e) } })).retireNext .S t) s)

/-- Output queues of the running node's stage with their `per=` counts (R159). -/
def State.outs (s : State) : List (Nat × Nat) :=
  let nd := s.me.node
  match s.stageOf nd.part nd.launch nd.stage with
  | some g => g.outs
  | none => []

/-- Item size of output x of the running node's stage. -/
def State.outSize (s : State) (x : Nat) : Nat :=
  match (s.outs[x]?).bind (fun o => s.queue? s.me.node.part o.1) with
  | some q => q.size
  | none => 0

/-- The checks of `ipub` in order (R159); the manual states no TVAL for them. -/
def State.ipubCheck (s : State) (xa xb : Word) : Check :=
  if xa.toNat % 16 ≠ 0 then .trapOpen 0x08
  else match s.outs[xb.toNat]? with
    | none => .trapOpen 0x07
    | some o =>
      if 0x80000 < xa.toNat + s.outSize xb.toNat then .trapOpen 0x06
      else Check.openIf (decide (o.2 ≤ (s.me.node.items.filter (fun e => e.out == xb.toNat)).length)) 0x0E

/-- `ipub` (R159): the item's bytes are copied before it retires, a poisoned sector's as they stand (DESIGN CHOICE, log 99). -/
def execIpub (t : Tok) (xa xb : BitVec 5) (s : State) : Host.Outcome State Fault Refusal :=
  .next (issue .S (.ipub t xa xb) t noCheck (fun b => b.ipubCheck (b.me.getX xa) (b.me.getX xb))
    (fun b =>
      let x := (b.me.getX xb).toNat
      let bytes := b.me.window.readBytes (b.me.getX xa).toNat (b.outSize x)
      (b.updMe (fun k => { k with node := { k.node with items := k.node.items ++ [{ out := x, bytes := bytes }] } })).retireNext
        .S t) s)

/-- The effect of `solve` (R161, R395). -/
def State.solveEffect (s : State) (t : Tok) (xd : BitVec 5) (a : Nat) : State :=
  let (b, v) := s.startSolve a
  (b.updMe (fun k => k.setX xd v)).retireNext .S t

/-- The controller's answer to `solve` (R161, R319, R395): it reads the record once, judges what it has read, and accepts or
refuses. -/
def State.solveAnswer (s : State) (t : Tok) (xd : BitVec 5) (a : Word) : State :=
  let p := s.me.node.part
  let r := s.solveRecall p a.toNat
  ((r.solveReads p a.toNat).foldl (fun b e => b.askVirt p e.1 e.2) r).checked .S (fun b => b.solveRead a)
    (fun b => b.solveEffect t xd a.toNat)

/-- `solve` (R161, R395): xd is 0 when the controller accepts and 1 when it refuses. A request that waits reads nothing before
its answer. -/
def execSolve (t : Tok) (xd xa : BitVec 5) (s : State) : Host.Outcome State Fault Refusal :=
  .next (issue .S (.solve t xd xa) t (fun b => Check.openIf (Config.solverCount b.config.variant == 0) 0x02)
    (fun b => b.solveAddr (b.me.getX xa))
    (fun b => b.request (.solve t xd xa) (fun c => c.solveAnswer t xd (b.me.getX xa))) s)

/-- `pacq` (R162, R446): a class at or below the grant at once; else the request joins its stack's queue. -/
def execPacq (t : Tok) (xa : BitVec 5) (s : State) : Host.Outcome State Fault Refusal :=
  .next (issue .S (.pacq t xa) t noCheck
    (fun b => Check.trapIf (decide (7 < (b.me.getX xa).toNat)) 0x0A (b.me.getX xa))
    (fun b =>
      let c := (b.me.getX xa).toNat
      if c ≤ b.me.grant.toNat then (b.setClass b.core (BitVec.ofNat 3 c)).retireNext .S t
      else
        let m := b.stackPower (b.core / 40)
        let r : PacqReq := { core := b.core, cls := c, order := m.arrivals, counted := false }
        (({ b with power := b.power.set (b.core / 40) { m with queue := m.queue ++ [r], arrivals := m.arrivals + 1 } }).updMe (fun k =>
          { k with req := BitVec.ofNat 3 c, pend := true })).stall .S .pacq) s)

/-- `prel` (R162). -/
def execPrel (t : Tok) (s : State) : Host.Outcome State Fault Refusal :=
  .next (issue .S (.prel t) t noCheck noCheck (fun b => (b.setClass b.core 0).retireNext .S t) s)

/-- `gtc` (R163). -/
def execGtc (t : Tok) (xd : BitVec 5) (s : State) : Host.Outcome State Fault Refusal :=
  .next (issue .S (.gtc t xd) t noCheck noCheck
    (fun b => (b.updMe (fun k => k.setX xd (BitVec.ofNat 64 b.gtc))).retireNext .S t) s)

/-- `snap` (R164, R464): source 0, with the core that issued it. -/
def execSnap (t : Tok) (s : State) : Host.Outcome State Fault Refusal :=
  .next (issue .S (.snap t) t noCheck noCheck (fun b => (b.snapTrigger b.me.node.part 0 b.core).retireNext .S t) s)

/-- `hfence` (R165): every earlier access of the strand has been performed when an instruction issues here, so it
only retires. -/
def execHfence (t : Tok) (s : State) : Host.Outcome State Fault Refusal :=
  .next (issue .S (.hfence t) t noCheck noCheck (fun b => b.retireNext .S t) s)

/-- `eret` (R168): cause 0x03 in user mode, the return from the trap in supervisor mode. -/
def execEret (t : Tok) (s : State) : Host.Outcome State Fault Refusal :=
  .next (issue .S (.eret t) t (fun b => Check.openIf (!b.me.sup) 0x03) noCheck
    (fun b => (b.count b.me.node.part 2).returnFromTrap) s)

/-- A strand ends after its `nend` has retired (R160); a held push keeps the end until it is released. -/
def Core.endStrand (k : Core) (st : Strand) : Core :=
  k.updStrand st (fun t => { t with cond := match t.cond with
    | .pushHold n pc _ => .pushHold n pc true
    | _ => .ended })

/-- `nend` on the S strand (R160). -/
def execNendS (t : Tok) (s : State) : Host.Outcome State Fault Refusal :=
  .next (issue .S (.nendS t) t noCheck noCheck (fun b => (b.retireNext .S t).updMe (fun k => k.endStrand .S)) s)

/-- The decode checks of a control-register access (R55, R102). -/
def State.crDecode (s : State) (i : Instr) (write : Bool) (n : Nat) : Check :=
  if !WellFormed.crListed n then .trap 0x01 ((encode i).setWidth 64)
  else Check.openIf (!(if write then crWritable s.me.sup n else crReadable s.me.sup n)) 0x03

/-- `crd` (R54, R55, R166). Of TKCNT it reads the counts at the start of the cycle, without its own pop (R67, R128;
DEDUCED, log 76). -/
def execCrd (t : Tok) (xd : BitVec 5) (cr : BitVec 12) (s : State) : Host.Outcome State Fault Refusal :=
  .next (issue .S (.crd t xd cr) t (fun b => b.crDecode (.crd t xd cr) false cr.toNat) noCheck
    (fun b => (b.updMe (fun k => k.setX xd (b.crValue cr.toNat))).retireNext .S t) s)

/-- A control register written for the instructions of the following cycle (R55). -/
def Core.writeNext (k : Core) (cr : BitVec 12) (w : Word) : Core := { k with now := { k.now with write := some (cr, w) } }

/-- `cwr` (R55, R166): a refused LSLT write traps with cause 0x07; the write takes effect as the cycle ends, so
that the push which a write of TWIN carries still meets the old window (DEDUCED, log 77). -/
def execCwr (t : Tok) (xa : BitVec 5) (cr : BitVec 12) (s : State) : Host.Outcome State Fault Refusal :=
  .next (issue .S (.cwr t xa cr) t (fun b => b.crDecode (.cwr t xa cr) true cr.toNat)
    (fun b => Check.openIf (decide (0x050 ≤ cr.toNat) && decide (cr.toNat ≤ 0x05F)
      && b.me.slotRefused (cr.toNat - 0x050) (b.me.getX xa)) 0x07)
    (fun b => (b.updMe (fun k => k.writeNext cr (k.getX xa))).retireNext .S t) s)

/-- `trap` (R167): it retires, and trap entry follows with TEPC the next PC, at once even where its push is held at its window
(DESIGN CHOICE, log 78); it stays pending where the M strand's own trap is entered first (R316). -/
def execTrap (t : Tok) (code : BitVec 12) (s : State) : Host.Outcome State Fault Refusal :=
  .next (issue .S (.trap t code) t noCheck noCheck
    (fun b =>
      let b1 := b.retireNext .S t
      let i : TrapInfo := { cause := 0x13, tval := code.setWidth 64, tepc := (b1.me.strand .S).pc }
      (b1.updMe (fun k => k.updStrand .S (fun x => { x with pending := some i }))).takeTrap .S i) s)

end Sys2Proof.Machine
end

