-- ==== Sys2Proof/Machine/VectorOps.lean ====
section
/-! DEFINITION. What the V instructions share: issue (R173), latches and write-back (R44), loops (R116, R210),
register banks (R45), charges (R447), element arithmetic (R177 to R184), reductions and scans (R35, R191, R192) and
conversions (R193 to R196). -/

namespace Sys2Proof.Machine

/-- The vector register number n places after r in a register group (R208), numbers past 31 going on from 0: the tag checks of
a group that the group check then refuses meet such a register (DESIGN CHOICE, log 105). -/
def groupReg (r : BitVec 5) (n : Nat) : BitVec 5 := r + BitVec.ofNat 5 n

/-- An invalid latch. -/
def Latch.cleared : Latch := { val := VReg.zero, valid := false }

/-- A vector result enters `lat0` and, unless it is suppressed, its register (R44). -/
def Core.yieldV (k : Core) (vd : BitVec 5) (ws : BitVec 1) (r : VReg) : Core :=
  let k1 := { k with lat := tab 4 (fun i => if i = 0 then { val := r, valid := true } else vget k.lat (i - 1) Latch.cleared) }
  if ws = 1 then k1 else k1.setV vd r

/-- The end of one pass of a body (R116): where the strand goes when a loop whose last word is at pc has passes
left, and the loops still active; innermost first. A loop that is not the innermost goes back only where the one inside it
is done at the same word: an outer body whose last word is a `vloop`, or that ends within the inner body, is not repeated and
stays active (DESIGN CHOICE, log 98). -/
def loopBack (pc : Word) : List Loop → Option Word × List Loop
  | [] => (none, [])
  | l :: t =>
    if l.last = pc then
      if 1 < l.left then (some l.first, { l with left := l.left - 1 } :: t) else loopBack pc t
    else (none, l :: t)

/-- Retirement of a V instruction: to the next word, or back to a body's first word, which clears the latches
(R116). -/
def State.retireV (s : State) (t : Tok) : State :=
  let r := loopBack (s.me.strand .V).pc s.me.loops
  match r.1 with
  | some first => (s.updMe (fun k => { k.dropLatches with loops := r.2 })).retire .V t first
  | none => (s.updMe (fun k => { k with loops := r.2 })).retireNext .V t

/-- Reads of registers from the busiest bank (R45). -/
def bankReads (l : List (BitVec 5)) : Nat :=
  (List.range 4).foldl (fun m b => max m (l.filter (fun r => r.toNat % 4 == b)).length) 0

/-- A register read that is no latch read. -/
def regRead (sel : Bool) (r : BitVec 5) : List (BitVec 5) := if sel then [] else [r]

/-- An instruction that reads a bank three times loses a cycle, counted VBANK (R45, R175). -/
def State.bank (s : State) (l : List (BitVec 5)) : State :=
  if 3 ≤ bankReads l then s.count s.me.node.part 0x0006 else s

/-- TVAL of an illegal encoding (R101): the word. -/
def wordOf (i : Instr) : Word := (encode i).setWidth 64

/-- A V instruction's steps (R173): the chain check of R118 comes first among the issue checks. -/
def issueV (i : Instr) (t : Tok) (chk : State → Check) (eff : State → State) (s : State) : State :=
  issue .V i t noCheck (fun b => if b.me.chainBroken i t then .trap 0x01 (wordOf i) else chk b)
    (fun b => eff (b.updMe (fun k => k.recordV i t (k.strand .V).pc))) s

/-- What an instruction that yields a vector result needs: its sources with their accepted tags, its charge and its
other checks, all from the core as it stands. -/
structure VForm where
  srcs : Core → List (Src × List Nat)
  cost : Core → Nat
  group : Core → Check
  reads : List (BitVec 5)

/-- The checks of R173 from the sources to the power check. -/
def VForm.check (f : VForm) (s : State) : Check :=
  match srcChecks (f.srcs s.me) with
  | .pass => match f.group s.me with
    | .pass => s.powerCheck (f.cost s.me)
    | c => c
  | c => c

/-- The charge and the bank count of an issued instruction. -/
def VForm.pay (f : VForm) (s : State) : State := (s.bank f.reads).charge (f.cost s.me)

/-- A V instruction that yields a result computed from the core alone. -/
def issueYield (i : Instr) (t : Tok) (vd : BitVec 5) (ws : BitVec 1) (f : VForm) (res : Core → VReg) (s : State) : State :=
  issueV i t f.check (fun b => ((f.pay b).updMe (fun k => k.yieldV vd ws (res k))).retireV t) s

/-- No check of groups or parts. -/
def noGroup (_ : Core) : Check := .pass

/-- Source va under LS. -/
def Core.va (k : Core) (va : BitVec 5) (ls : BitVec 2) : Src := k.src (ls.getLsbD 0) va 1
/-- Source vb under LS. -/
def Core.vb (k : Core) (vb : BitVec 5) (ls : BitVec 2) : Src := k.src (ls.getLsbD 1) vb 2
/-- Source va of a form whose vb is no source. -/
def Core.va1 (k : Core) (va : BitVec 5) (ls : BitVec 1) : Src := k.src (ls.getLsbD 0) va 1

/-- The tag of a source as a number. -/
def Src.tag (x : Src) : Nat := x.val.tag.toNat

/-- The registers that a two-source form reads. -/
def reads2 (va vb : BitVec 5) (ls : BitVec 2) : List (BitVec 5) :=
  regRead (ls.getLsbD 0) va ++ regRead (ls.getLsbD 1) vb

/-- A form of two sources of one tag (R172 "same"). -/
def formSame (va vb : BitVec 5) (ls : BitVec 2) (tags : List Nat) (cost : Nat → Nat) : VForm :=
  { srcs := fun k => [(k.va va ls, tags), (k.vb vb ls, [(k.va va ls).tag])],
    cost := fun k => cost (k.va va ls).tag, group := noGroup, reads := reads2 va vb ls }

/-- A form of two sources with their own tags. -/
def formTwo (va vb : BitVec 5) (ls : BitVec 2) (ta tb : List Nat) (cost : Nat) : VForm :=
  { srcs := fun k => [(k.va va ls, ta), (k.vb vb ls, tb)], cost := fun _ => cost, group := noGroup,
    reads := reads2 va vb ls }

/-- A form of one source. -/
def formOne (va : BitVec 5) (ls : BitVec 1) (tags : List Nat) (cost : Nat → Nat) : VForm :=
  { srcs := fun k => [(k.va1 va ls, tags)], cost := fun k => cost (k.va1 va ls).tag, group := noGroup,
    reads := regRead (ls.getLsbD 0) va }

/-- A form that also reads vd, all of one tag (R171 form 3D). -/
def formDest (vd va vb : BitVec 5) (ls : BitVec 2) (tags tb td : Nat → List Nat) (cost : Nat → Nat) : VForm :=
  { srcs := fun k =>
      let a := k.va va ls
      [(a, tags a.tag), (k.vb vb ls, tb a.tag), (k.srcReg vd 0, td a.tag)],
    cost := fun k => cost (k.va va ls).tag, group := noGroup, reads := vd :: reads2 va vb ls }

/-- A form without sources. -/
def formNone : VForm := { srcs := fun _ => [], cost := fun _ => 20, group := noGroup, reads := [] }

/-- The charge of an integer or bit operation, a move or a mask operation (R447). -/
def costInt (_ : Nat) : Nat := 20

/-- The charge of an element operation by its tag (R447). -/
def costArith (tag : Nat) : Nat :=
  if tag = 6 then 120 else if (tagFmt tag).isSome then 60 else 20

/-- The charge of a function, a division or a training helper (R447). -/
def costFn (_ : Nat) : Nat := 150

/-- The charge of a scratchpad access of n bytes (R447). -/
def costSp (n : Nat) : Nat := 30 * max 1 (ceilDiv n 256)

/-- The integer that an element of an integer tag holds (R21). -/
def tagInt (tag b : Nat) : Int := if tag = 2 ∨ tag = 5 then b else signed b (tagWidth tag)

/-- The low w bits of an integer. -/
def wrapInt (w : Nat) (i : Int) : Nat := (i % (2 ^ w : Int)).toNat

/-- An element operation (R177): exact and rounded once on floats, modulo 2^w on integers. -/
def elemOp (fop : FVal → FVal → FVal) (iop : Int → Int → Int) (tag a b : Nat) : Nat :=
  match tagFmt tag with
  | some f => f.op2 .rne fop a b
  | none => wrapInt (tagWidth tag) (iop (tagInt tag a) (tagInt tag b))

/-- An integer clamped to the range of its tag. -/
def clampTag (tag : Nat) (i : Int) : Int :=
  match tagRange tag with
  | some r => clampInt r.1 r.2 i
  | none => i

/-- A one-source element operation; integers clamp (R177 `vabs`, `vneg`). -/
def elemOp1 (fop : FVal → FVal) (iop : Int → Int) (tag a : Nat) : Nat :=
  match tagFmt tag with
  | some f => f.round .rne (fop (f.decode a))
  | none => wrapInt (tagWidth tag) (clampTag tag (iop (tagInt tag a)))

/-- Saturating integer operation (R179). -/
def elemSat (iop : Int → Int → Int) (tag a b : Nat) : Nat :=
  wrapInt (tagWidth tag) (clampTag tag (iop (tagInt tag a) (tagInt tag b)))

/-- A two-source element-wise result (R177). -/
def elemRes (mask : Word) (a b : VReg) (op : Nat → Nat → Nat → Nat) : VReg :=
  let t := a.tag.toNat
  ofElems t mask (fun _ => 0) (fun e => op t (a.elem e) (b.elem e))

/-- A one-source element-wise result. -/
def elemRes1 (mask : Word) (a : VReg) (op : Nat → Nat → Nat) : VReg :=
  let t := a.tag.toNat
  ofElems t mask (fun _ => 0) (fun e => op t (a.elem e))

/-- `vfma` on one element (R178). -/
def elemFma (tag a b c : Nat) : Nat :=
  match tagFmt tag with
  | some f => f.fma .rne a b c
  | none => wrapInt (tagWidth tag) (tagInt tag a * tagInt tag b + tagInt tag c)

/-- `vfma`'s result: disabled lanes keep their bits (R171, R178). -/
def fmaRes (mask : Word) (a b d : VReg) : VReg :=
  let t := a.tag.toNat
  ofElems t mask (fun e => d.elem e) (fun e => elemFma t (a.elem e) (b.elem e) (d.elem e))

/-- An F32 function of one source (R180). -/
def fnRes (mask : Word) (a : VReg) (f : Nat → Nat) : VReg :=
  ofElems 7 mask (fun _ => 0) (fun e => f (a.elem e))

/-- `rcp` of R32. -/
def rcp32 (a : Nat) : Nat := Fmt.f32.round .rne ((FVal.fin false 1 0).div (Fmt.f32.decode a))
/-- `rsq` of R32. -/
def rsq32 (a : Nat) : Nat := Fmt.f32.round .rne (Fmt.f32.decode a).rsqrt
/-- `sqrt` of R32. -/
def sqrt32 (a : Nat) : Nat := Fmt.f32.round .rne (Fmt.f32.decode a).sqrt
/-- `exp2` of R32. -/
def exp32 (a : Nat) : Nat := FVal.exp2 Fmt.f32 (Fmt.f32.decode a)
/-- `log2` of R32. -/
def log32 (a : Nat) : Nat := FVal.log2 Fmt.f32 (Fmt.f32.decode a)

/-- A lane-wise result under va's tag (R181, R190). -/
def laneRes (mask : Word) (a : VReg) (f : Nat → Lane) : VReg := ofLanes a.tag mask f

/-- Shift of an element of width w (R182). -/
inductive ShiftKind where
  | left | right | arith
  deriving DecidableEq, Repr

/-- A shift by c: a count at or above w gives 0, or copies of the top bit (R182). -/
def shiftElem : ShiftKind → Nat → Nat → Nat → Nat
  | .left, w, a, c => a * 2 ^ c % 2 ^ w
  | .right, _, a, c => a / 2 ^ c
  | .arith, w, a, c => wrapInt w (signed a w / (2 ^ c : Int))

/-- A shift of every element of va by a count per lane (R182). -/
def shiftRes (kind : ShiftKind) (mask : Word) (a : VReg) (count : Nat → Nat) : VReg :=
  let w := tagWidth a.tag.toNat
  ofElems a.tag.toNat mask (fun _ => 0) (fun e => shiftElem kind w (a.elem e) (count (e / (32 / w))))

/-- The field that `vbfx` extracts (R183): position and length from the count word. -/
def bfField (a c : Lane) : Nat × Nat :=
  let p := field c.toNat 5 5
  let len := field c.toNat 0 5 + 1
  (field a.toNat p len, len)

/-- `vbfx` on a lane. -/
def bfxLane (a c : Lane) : Lane :=
  let r := bfField a c
  BitVec.ofInt 32 (signed r.1 r.2)

/-- `vbfx.u` on a lane. -/
def bfxuLane (a c : Lane) : Lane := BitVec.ofNat 32 (bfField a c).1

/-- `vfsh` on a lane: a the high word, d the low (R184). -/
def fshLane (a c d : Lane) : Lane := BitVec.ofNat 32 ((a.toNat * 2 ^ 32 + d.toNat) / 2 ^ (c.toNat % 32))

/-- A 3D lane-wise result: disabled lanes keep their bits. -/
def keepLanes (mask : Word) (d : VReg) (f : Nat → Lane) : VReg :=
  { d with lanes := tab 64 (fun i => if laneOn mask i then f i else d.lane i) }

/-- The relation of a compare (R186): floats by value, integers by sign of the tag. -/
inductive Rel where
  | eq | ne | lt | le
  deriving DecidableEq, Repr

/-- A relation on two elements. -/
def Rel.holds (r : Rel) (tag a b : Nat) : Bool :=
  match tagFmt tag with
  | some f =>
    let x := f.decode a
    let y := f.decode b
    match r with
    | .eq => x.eqv y
    | .ne => !x.eqv y
    | .lt => x.lt y
    | .le => x.le y
  | none =>
    let x := tagInt tag a
    let y := tagInt tag b
    match r with
    | .eq => x == y
    | .ne => x != y
    | .lt => decide (x < y)
    | .le => decide (x ≤ y)

/-- A mask from a test on lane numbers. -/
def maskOf (f : Nat → Bool) : Word := BitVec.ofNat 64 ((List.range 64).foldl (fun a i => a + b2n (f i) * 2 ^ i) 0)

/-- The mask of a compare (R186): an F64 element writes both its lanes' bits. -/
def cmpMask (r : Rel) (mask : Word) (a b : VReg) : Word :=
  let t := a.tag.toNat
  maskOf (fun i =>
    let e := if t = 6 then i / 2 else i
    elemOn mask t e && r.holds t (a.elem e) (b.elem e))

/-- Fixed pairwise tree over a list (R35). -/
def treePass {α : Type} (op : α → α → α) : List α → List α
  | a :: b :: t => op a b :: treePass op t
  | l => l

/-- The tree of R35 for lg levels. -/
def tree {α : Type} (op : α → α → α) : Nat → List α → List α
  | 0, l => l
  | n + 1, l => tree op n (treePass op l)

/-- A reduction (R35, R191): floats at every node in the element format, integers exact and clamped at the root. -/
def reduce (mask : Word) (a : VReg) (fop : FVal → FVal → FVal) (fid : FVal) (iop : Int → Int → Int) (iid : Int × Int → Int) :
    Nat :=
  let t := a.tag.toNat
  let n := tagCount t
  let lg := if t = 6 then 5 else 6
  match tagFmt t with
  | some f =>
    let fidBits := f.round .rne fid
    let l := (List.range n).map (fun e => if elemOn mask t e then a.elem e else fidBits)
    (tree (fun x y => f.op2 .rne fop x y) lg l).headD fidBits
  | none =>
    let idv := iid ((tagRange t).getD (0, 0))
    let l := (List.range n).map (fun e => if elemOn mask t e then tagInt t (a.elem e) else idv)
    wrapInt (tagWidth t) (clampTag t ((tree iop lg l).headD idv))

/-- A reduction's destination: the result in element 0, zero elsewhere (R191). -/
def redRes (a : VReg) (v : Nat) : VReg :=
  ofElems a.tag.toNat (BitVec.allOnes 64) (fun _ => 0) (fun e => if e = 0 then v else 0)

/-- `vred.add`. -/
def redAdd (mask : Word) (a : VReg) : VReg :=
  redRes a (reduce mask a FVal.add (.fin true 0 0) (· + ·) (fun _ => 0))
/-- `vred.min`. -/
def redMin (mask : Word) (a : VReg) : VReg :=
  redRes a (reduce mask a FVal.min (.inf false) (fun x y => min x y) (fun r => r.2))
/-- `vred.max`. -/
def redMax (mask : Word) (a : VReg) : VReg :=
  redRes a (reduce mask a FVal.max (.inf true) (fun x y => max x y) (fun r => r.1))

/-- Prefix sums over elements, in order (R192): enabled elements join the sum, others give zero. -/
def scanAux (add : Int ⊕ Nat → Nat → Int ⊕ Nat) (out : Int ⊕ Nat → Nat) (on : Nat → Bool) (el : Nat → Nat) :
    List Nat → Int ⊕ Nat → List Nat
  | [], _ => []
  | e :: t, s =>
    if on e then
      let s1 := add s (el e)
      out s1 :: scanAux add out on el t s1
    else 0 :: scanAux add out on el t s

/-- `vscan.add` (R192). -/
def scanRes (mask : Word) (a : VReg) : VReg :=
  let t := a.tag.toNat
  let es := List.range (tagCount t)
  let l := match tagFmt t with
    | some f =>
      scanAux (fun s x => match s with
        | .inr b => .inr (f.op2 .rne FVal.add b x)
        | .inl _ => s) (fun s => match s with
        | .inr b => b
        | .inl _ => 0) (elemOn mask t) a.elem es (.inr f.signBit)
    | none =>
      scanAux (fun s x => match s with
        | .inl i => .inl (i + tagInt t x)
        | .inr _ => s) (fun s => match s with
        | .inl i => wrapInt (tagWidth t) (clampTag t i)
        | .inr _ => 0) (elemOn mask t) a.elem es (.inl 0)
  ofElems t (BitVec.allOnes 64) (fun _ => 0) (fun e => l.getD e 0)

/-- The value of a T2 code that is not reserved (R22). -/
def t2Value (b : Nat) : FVal := if b = 0 then FVal.zero else if b = 1 then .fin false 1 0 else .fin true 1 0

/-- The T2 code of −1, 0 or 1. -/
def t2Code (i : Int) : Nat := if i = 0 then 0 else if i = 1 then 1 else 3

/-- Does `vcvt` accept the pair of tags, with a source that is neither RAW nor POISON (R194)? -/
def cvtPair (src dst : Nat) : Bool :=
  if src = 12 then [4, 5, 10, 11, 12].contains dst
  else if dst = 12 then [4, 5, 10, 11].contains src
  else decide (1 ≤ src ∧ src ≤ 11) && decide (1 ≤ dst ∧ dst ≤ 11)

/-- The ratio g of element counts (R193). -/
def cvtRatio (src dst : Nat) : Nat := max (tagCount src) (tagCount dst) / min (tagCount src) (tagCount dst)

/-- CONV of R194 on the bits of one element. -/
def conv (src dst : Nat) (mode : Rnd) (b : Nat) : Nat :=
  if src = 12 ∧ dst = 12 then b
  else
    let v := if src = 12 then t2Value b else tagValue src b
    match tagFmt dst with
    | some f => f.round mode v
    | none =>
      if dst = 12 then t2Code (v.toRange mode (-1) 1)
      else match tagRange dst with
        | some r => wrapInt (tagWidth dst) (v.toRange mode r.1 r.2)
        | none => b

/-- The source element that destination element e of a conversion takes, if any (R193). -/
def cvtFrom (src dst part e : Nat) : Option Nat :=
  let ns := tagCount src
  let nt := tagCount dst
  if ns ≤ nt then (if part * ns ≤ e ∧ e < part * ns + ns then some (e - part * ns) else none)
  else some (part * nt + e)

/-- The index e of R193 that rounds destination element d stochastically (R195). -/
def cvtIndex (src dst part d : Nat) : Nat :=
  if tagCount src ≤ tagCount dst then d - part * tagCount src else d

/-- The result of a conversion (R193): a RAW source is copied lane for lane. -/
def cvtRes (mask : Word) (a : VReg) (dst part : Nat) (mode : Nat → Rnd) : VReg :=
  let src := a.tag.toNat
  if src = 0 then ofElems dst mask (fun _ => 0) (fun e => ({ a with tag := BitVec.ofNat 4 dst } : VReg).elem e)
  else ofElems dst mask (fun _ => 0) (fun d =>
    match cvtFrom src dst part d with
    | some e => conv src dst (mode (cvtIndex src dst part d)) (a.elem e)
    | none => 0)

/-- Does an element whose lane is enabled hold the reserved T2 code (R194)? -/
def cvtReserved (mask : Word) (a : VReg) (dst part : Nat) : Bool :=
  a.tag == 12 && (List.range (tagCount dst)).any (fun d =>
    elemOn mask dst d && match cvtFrom 12 dst part d with
      | some e => a.elem e == 2
      | none => false)

/-- The pair and part checks of a conversion (R193, R194), with the TVAL that R193 gives, not the 0 of R174 (DESIGN CHOICE,
log 101). -/
def cvtGroup (x : Src) (dst part : Nat) : Check :=
  let bad := if x.tag = 0 then part != 0
    else !cvtPair x.tag dst || decide (4 < cvtRatio x.tag dst) || decide (cvtRatio x.tag dst ≤ part)
  Check.trapIf bad 0x04 (tagTval x.code x.val.tag)

/-- The charge of a conversion: F64 on either side, a float on either side, else integer (R447; log 15). -/
def cvtCost (src dst : Nat) : Nat := max (costArith src) (costArith dst)

/-- A register tagged POISON: its lanes are free values (R27; log 6). -/
def State.poisonReg (s : State) : VReg :=
  { lanes := tab 64 (fun i => (Config.freeValue (s.free + i)).setWidth 32), tag := 0xF }

/-- A result that poison may replace, with the address it records, if any (R27). -/
def State.yieldOr (s : State) (vd : BitVec 5) (ws : BitVec 1) (poisoned : Bool) (r : VReg) : State :=
  if poisoned then { s.updMe (fun k => k.yieldV vd ws s.poisonReg) with free := s.free + 64 }
  else s.updMe (fun k => k.yieldV vd ws r)

/-- `vsplit3`: part k of each enabled F32 element in the first 64 BF16 elements (R196). -/
def splitRes (mask : Word) (a : VReg) (part : Nat) : VReg :=
  ofElems 8 (BitVec.allOnes 64) (fun _ => 0) (fun e =>
    if e < 64 ∧ laneOn mask e then
      let r := split3 (Fmt.f32.decode (a.elem e))
      if part = 1 then r.1 else if part = 2 then r.2.1 else r.2.2
    else 0)

end Sys2Proof.Machine
end

