-- ==== Sys2Proof/Machine/Vector.lean ====
section
/-! DEFINITION. V instructions that touch no memory: arithmetic (R177 to R180), bit operations (R181 to R185), masks
and selection (R186 to R188), lane movement (R189, R190), reductions and scans (R191, R192), conversions (R193 to
R196), the counter generator (R197), the loss-scale helpers (R205, R206), loops and the end (R210, R211). -/

namespace Sys2Proof.Machine

/-- A V instruction that writes a mask and leaves the latches as they are (R186, R187). -/
def issueMask (i : Instr) (t : Tok) (kd : BitVec 3) (f : VForm) (res : Core → Word) (s : State) : State :=
  issueV i t f.check (fun b => ((f.pay b).updMe (fun k => k.setK kd (res k))).retireV t) s

/-- A conversion (R193 to R195): its rounding under SRSEED, and the elements by which SRSEED.CTR advances. -/
def issueCvt (i : Instr) (t : Tok) (vd va : BitVec 5) (ws : BitVec 1) (mask : BitVec 3) (ls : BitVec 1) (dst part : Nat)
    (mode : Word → Nat → Rnd) (adv : Nat → Nat) (s : State) : State :=
  let f : VForm := { formOne va ls anyTag (fun src => cvtCost src dst) with
                     group := fun k => cvtGroup (k.va1 va ls) dst part }
  issueV i t f.check (fun b =>
    let k := b.me
    let a := (k.va1 va ls).val
    let m := k.getK mask
    let r := cvtRes m a dst part (mode k.srseed)
    let ctr := (field k.srseed.toNat 0 32 + adv a.tag.toNat) % 2 ^ 32
    let b1 := (f.pay b).updMe (fun c => { c with srseed := putField c.srseed 0 32 ctr })
    (b1.yieldOr vd ws (cvtReserved m a dst part) r).retireV t) s

/-- `vadd` (R177). -/
def execVadd (t : Tok) (vd va vb : BitVec 5) (ws : BitVec 1) (mask : BitVec 3) (ls : BitVec 2) (s : State) :
    Host.Outcome State Fault Refusal :=
  .next (issueYield (.vadd t vd va vb ws mask ls) t vd ws (formSame va vb ls arithTags costArith)
    (fun k => elemRes (k.getK mask) (k.va va ls).val (k.vb vb ls).val (elemOp FVal.add (· + ·))) s)

/-- `vsub` (R177). -/
def execVsub (t : Tok) (vd va vb : BitVec 5) (ws : BitVec 1) (mask : BitVec 3) (ls : BitVec 2) (s : State) :
    Host.Outcome State Fault Refusal :=
  .next (issueYield (.vsub t vd va vb ws mask ls) t vd ws (formSame va vb ls arithTags costArith)
    (fun k => elemRes (k.getK mask) (k.va va ls).val (k.vb vb ls).val (elemOp FVal.sub (· - ·))) s)

/-- `vmul` (R177). -/
def execVmul (t : Tok) (vd va vb : BitVec 5) (ws : BitVec 1) (mask : BitVec 3) (ls : BitVec 2) (s : State) :
    Host.Outcome State Fault Refusal :=
  .next (issueYield (.vmul t vd va vb ws mask ls) t vd ws (formSame va vb ls arithTags costArith)
    (fun k => elemRes (k.getK mask) (k.va va ls).val (k.vb vb ls).val (elemOp FVal.mul (· * ·))) s)

/-- `vfma` (R178). -/
def execVfma (t : Tok) (vd va vb : BitVec 5) (mask : BitVec 3) (ls : BitVec 2) (s : State) :
    Host.Outcome State Fault Refusal :=
  .next (issueYield (.vfma t vd va vb mask ls) t vd 0 (formDest vd va vb ls (fun _ => arithTags) (fun a => [a]) (fun a => [a]) costArith)
    (fun k => fmaRes (k.getK mask) (k.va va ls).val (k.vb vb ls).val (k.getV vd)) s)

/-- `vmin` (R177). -/
def execVmin (t : Tok) (vd va vb : BitVec 5) (ws : BitVec 1) (mask : BitVec 3) (ls : BitVec 2) (s : State) :
    Host.Outcome State Fault Refusal :=
  .next (issueYield (.vmin t vd va vb ws mask ls) t vd ws (formSame va vb ls arithTags costArith)
    (fun k => elemRes (k.getK mask) (k.va va ls).val (k.vb vb ls).val (elemOp FVal.min (fun x y => min x y))) s)

/-- `vmax` (R177). -/
def execVmax (t : Tok) (vd va vb : BitVec 5) (ws : BitVec 1) (mask : BitVec 3) (ls : BitVec 2) (s : State) :
    Host.Outcome State Fault Refusal :=
  .next (issueYield (.vmax t vd va vb ws mask ls) t vd ws (formSame va vb ls arithTags costArith)
    (fun k => elemRes (k.getK mask) (k.va va ls).val (k.vb vb ls).val (elemOp FVal.max (fun x y => max x y))) s)

/-- `vabs` (R177). -/
def execVabs (t : Tok) (vd va : BitVec 5) (ws : BitVec 1) (mask : BitVec 3) (ls : BitVec 1) (s : State) :
    Host.Outcome State Fault Refusal :=
  .next (issueYield (.vabs t vd va ws mask ls) t vd ws (formOne va ls arithTags costArith)
    (fun k => elemRes1 (k.getK mask) (k.va1 va ls).val (elemOp1 FVal.abs (fun x => (x.natAbs : Int)))) s)

/-- `vneg` (R177). -/
def execVneg (t : Tok) (vd va : BitVec 5) (ws : BitVec 1) (mask : BitVec 3) (ls : BitVec 1) (s : State) :
    Host.Outcome State Fault Refusal :=
  .next (issueYield (.vneg t vd va ws mask ls) t vd ws (formOne va ls arithTags costArith)
    (fun k => elemRes1 (k.getK mask) (k.va1 va ls).val (elemOp1 FVal.neg (fun x => -x))) s)

/-- `vdiv` (R177). -/
def execVdiv (t : Tok) (vd va vb : BitVec 5) (ws : BitVec 1) (mask : BitVec 3) (ls : BitVec 2) (s : State) :
    Host.Outcome State Fault Refusal :=
  .next (issueYield (.vdiv t vd va vb ws mask ls) t vd ws (formSame va vb ls divTags costFn)
    (fun k => elemRes (k.getK mask) (k.va va ls).val (k.vb vb ls).val (elemOp FVal.div (fun _ _ => 0))) s)

/-- `vrcp` (R32, R180). -/
def execVrcp (t : Tok) (vd va : BitVec 5) (ws : BitVec 1) (mask : BitVec 3) (ls : BitVec 1) (s : State) :
    Host.Outcome State Fault Refusal :=
  .next (issueYield (.vrcp t vd va ws mask ls) t vd ws (formOne va ls [7] costFn)
    (fun k => fnRes (k.getK mask) (k.va1 va ls).val rcp32) s)

/-- `vrsq` (R32, R180). -/
def execVrsq (t : Tok) (vd va : BitVec 5) (ws : BitVec 1) (mask : BitVec 3) (ls : BitVec 1) (s : State) :
    Host.Outcome State Fault Refusal :=
  .next (issueYield (.vrsq t vd va ws mask ls) t vd ws (formOne va ls [7] costFn)
    (fun k => fnRes (k.getK mask) (k.va1 va ls).val rsq32) s)

/-- `vsqrt` (R32, R180). -/
def execVsqrt (t : Tok) (vd va : BitVec 5) (ws : BitVec 1) (mask : BitVec 3) (ls : BitVec 1) (s : State) :
    Host.Outcome State Fault Refusal :=
  .next (issueYield (.vsqrt t vd va ws mask ls) t vd ws (formOne va ls [7] costFn)
    (fun k => fnRes (k.getK mask) (k.va1 va ls).val sqrt32) s)

/-- `vexp2` (R32, R180). -/
def execVexp2 (t : Tok) (vd va : BitVec 5) (ws : BitVec 1) (mask : BitVec 3) (ls : BitVec 1) (s : State) :
    Host.Outcome State Fault Refusal :=
  .next (issueYield (.vexp2 t vd va ws mask ls) t vd ws (formOne va ls [7] costFn)
    (fun k => fnRes (k.getK mask) (k.va1 va ls).val exp32) s)

/-- `vlog2` (R32, R180). -/
def execVlog2 (t : Tok) (vd va : BitVec 5) (ws : BitVec 1) (mask : BitVec 3) (ls : BitVec 1) (s : State) :
    Host.Outcome State Fault Refusal :=
  .next (issueYield (.vlog2 t vd va ws mask ls) t vd ws (formOne va ls [7] costFn)
    (fun k => fnRes (k.getK mask) (k.va1 va ls).val log32) s)

/-- `vadds` (R179). -/
def execVadds (t : Tok) (vd va vb : BitVec 5) (ws : BitVec 1) (mask : BitVec 3) (ls : BitVec 2) (s : State) :
    Host.Outcome State Fault Refusal :=
  .next (issueYield (.vadds t vd va vb ws mask ls) t vd ws (formSame va vb ls intTags costInt)
    (fun k => elemRes (k.getK mask) (k.va va ls).val (k.vb vb ls).val (elemSat (· + ·))) s)

/-- `vsubs` (R179). -/
def execVsubs (t : Tok) (vd va vb : BitVec 5) (ws : BitVec 1) (mask : BitVec 3) (ls : BitVec 2) (s : State) :
    Host.Outcome State Fault Refusal :=
  .next (issueYield (.vsubs t vd va vb ws mask ls) t vd ws (formSame va vb ls intTags costInt)
    (fun k => elemRes (k.getK mask) (k.va va ls).val (k.vb vb ls).val (elemSat (· - ·))) s)

/-- `vand` (R181). -/
def execVand (t : Tok) (vd va vb : BitVec 5) (ws : BitVec 1) (mask : BitVec 3) (ls : BitVec 2) (s : State) :
    Host.Outcome State Fault Refusal :=
  .next (issueYield (.vand t vd va vb ws mask ls) t vd ws (formTwo va vb ls anyTag anyTag 20)
    (fun k => laneRes (k.getK mask) (k.va va ls).val (fun i => (k.va va ls).val.lane i &&& (k.vb vb ls).val.lane i)) s)

/-- `vor` (R181). -/
def execVor (t : Tok) (vd va vb : BitVec 5) (ws : BitVec 1) (mask : BitVec 3) (ls : BitVec 2) (s : State) :
    Host.Outcome State Fault Refusal :=
  .next (issueYield (.vor t vd va vb ws mask ls) t vd ws (formTwo va vb ls anyTag anyTag 20)
    (fun k => laneRes (k.getK mask) (k.va va ls).val (fun i => (k.va va ls).val.lane i ||| (k.vb vb ls).val.lane i)) s)

/-- `vxor` (R181). -/
def execVxor (t : Tok) (vd va vb : BitVec 5) (ws : BitVec 1) (mask : BitVec 3) (ls : BitVec 2) (s : State) :
    Host.Outcome State Fault Refusal :=
  .next (issueYield (.vxor t vd va vb ws mask ls) t vd ws (formTwo va vb ls anyTag anyTag 20)
    (fun k => laneRes (k.getK mask) (k.va va ls).val (fun i => (k.va va ls).val.lane i ^^^ (k.vb vb ls).val.lane i)) s)

/-- `vsll` (R182). -/
def execVsll (t : Tok) (vd va vb : BitVec 5) (ws : BitVec 1) (mask : BitVec 3) (ls : BitVec 2) (s : State) :
    Host.Outcome State Fault Refusal :=
  .next (issueYield (.vsll t vd va vb ws mask ls) t vd ws (formTwo va vb ls shiftTags addrTags 20)
    (fun k => shiftRes .left (k.getK mask) (k.va va ls).val (fun i => ((k.vb vb ls).val.lane i).toNat % 32)) s)

/-- `vsrl` (R182). -/
def execVsrl (t : Tok) (vd va vb : BitVec 5) (ws : BitVec 1) (mask : BitVec 3) (ls : BitVec 2) (s : State) :
    Host.Outcome State Fault Refusal :=
  .next (issueYield (.vsrl t vd va vb ws mask ls) t vd ws (formTwo va vb ls shiftTags addrTags 20)
    (fun k => shiftRes .right (k.getK mask) (k.va va ls).val (fun i => ((k.vb vb ls).val.lane i).toNat % 32)) s)

/-- `vsra` (R182). -/
def execVsra (t : Tok) (vd va vb : BitVec 5) (ws : BitVec 1) (mask : BitVec 3) (ls : BitVec 2) (s : State) :
    Host.Outcome State Fault Refusal :=
  .next (issueYield (.vsra t vd va vb ws mask ls) t vd ws (formTwo va vb ls shiftTags addrTags 20)
    (fun k => shiftRes .arith (k.getK mask) (k.va va ls).val (fun i => ((k.vb vb ls).val.lane i).toNat % 32)) s)

/-- `vsll.i` (R182). -/
def execVsllI (t : Tok) (vd va imm : BitVec 5) (ws : BitVec 1) (mask : BitVec 3) (ls : BitVec 1) (s : State) :
    Host.Outcome State Fault Refusal :=
  .next (issueYield (.vsllI t vd va imm ws mask ls) t vd ws (formOne va ls shiftTags costInt)
    (fun k => shiftRes .left (k.getK mask) (k.va1 va ls).val (fun _ => imm.toNat)) s)

/-- `vsrl.i` (R182). -/
def execVsrlI (t : Tok) (vd va imm : BitVec 5) (ws : BitVec 1) (mask : BitVec 3) (ls : BitVec 1) (s : State) :
    Host.Outcome State Fault Refusal :=
  .next (issueYield (.vsrlI t vd va imm ws mask ls) t vd ws (formOne va ls shiftTags costInt)
    (fun k => shiftRes .right (k.getK mask) (k.va1 va ls).val (fun _ => imm.toNat)) s)

/-- `vsra.i` (R182). -/
def execVsraI (t : Tok) (vd va imm : BitVec 5) (ws : BitVec 1) (mask : BitVec 3) (ls : BitVec 1) (s : State) :
    Host.Outcome State Fault Refusal :=
  .next (issueYield (.vsraI t vd va imm ws mask ls) t vd ws (formOne va ls shiftTags costInt)
    (fun k => shiftRes .arith (k.getK mask) (k.va1 va ls).val (fun _ => imm.toNat)) s)

/-- `vbfx` (R183). -/
def execVbfx (t : Tok) (vd va vb : BitVec 5) (ws : BitVec 1) (mask : BitVec 3) (ls : BitVec 2) (s : State) :
    Host.Outcome State Fault Refusal :=
  .next (issueYield (.vbfx t vd va vb ws mask ls) t vd ws (formTwo va vb ls addrTags addrTags 20)
    (fun k => ofLanes 1 (k.getK mask) (fun i => bfxLane ((k.va va ls).val.lane i) ((k.vb vb ls).val.lane i))) s)

/-- `vbfx.u` (R183). -/
def execVbfxU (t : Tok) (vd va vb : BitVec 5) (ws : BitVec 1) (mask : BitVec 3) (ls : BitVec 2) (s : State) :
    Host.Outcome State Fault Refusal :=
  .next (issueYield (.vbfxU t vd va vb ws mask ls) t vd ws (formTwo va vb ls addrTags addrTags 20)
    (fun k => ofLanes 2 (k.getK mask) (fun i => bfxuLane ((k.va va ls).val.lane i) ((k.vb vb ls).val.lane i))) s)

/-- `vfsh` (R184). -/
def execVfsh (t : Tok) (vd va vb : BitVec 5) (mask : BitVec 3) (ls : BitVec 2) (s : State) :
    Host.Outcome State Fault Refusal :=
  .next (issueYield (.vfsh t vd va vb mask ls) t vd 0 (formDest vd va vb ls (fun _ => addrTags) (fun _ => addrTags) (fun _ => addrTags) costInt)
    (fun k => keepLanes (k.getK mask) (k.getV vd)
      (fun i => fshLane ((k.va va ls).val.lane i) ((k.vb vb ls).val.lane i) ((k.getV vd).lane i))) s)

/-- `vpopc` (R185). -/
def execVpopc (t : Tok) (vd va : BitVec 5) (ws : BitVec 1) (mask : BitVec 3) (ls : BitVec 1) (s : State) :
    Host.Outcome State Fault Refusal :=
  .next (issueYield (.vpopc t vd va ws mask ls) t vd ws (formOne va ls shiftTags costInt)
    (fun k => ofLanes 1 (k.getK mask) (fun i => BitVec.ofNat 32 (popcount ((k.va1 va ls).val.lane i).toNat 32))) s)

/-- `vclz` (R185). -/
def execVclz (t : Tok) (vd va : BitVec 5) (ws : BitVec 1) (mask : BitVec 3) (ls : BitVec 1) (s : State) :
    Host.Outcome State Fault Refusal :=
  .next (issueYield (.vclz t vd va ws mask ls) t vd ws (formOne va ls shiftTags costInt)
    (fun k => ofLanes 1 (k.getK mask) (fun i => BitVec.ofNat 32 (clzNat ((k.va1 va ls).val.lane i).toNat 32))) s)

/-- `vcmp.eq` (R186). -/
def execVcmpEq (t : Tok) (kd : BitVec 3) (va vb : BitVec 5) (mask : BitVec 3) (ls : BitVec 2) (s : State) :
    Host.Outcome State Fault Refusal :=
  .next (issueMask (.vcmpEq t kd va vb mask ls) t kd (formSame va vb ls cmpTags costArith)
    (fun k => cmpMask .eq (k.getK mask) (k.va va ls).val (k.vb vb ls).val) s)

/-- `vcmp.ne` (R186). -/
def execVcmpNe (t : Tok) (kd : BitVec 3) (va vb : BitVec 5) (mask : BitVec 3) (ls : BitVec 2) (s : State) :
    Host.Outcome State Fault Refusal :=
  .next (issueMask (.vcmpNe t kd va vb mask ls) t kd (formSame va vb ls cmpTags costArith)
    (fun k => cmpMask .ne (k.getK mask) (k.va va ls).val (k.vb vb ls).val) s)

/-- `vcmp.lt` (R186). -/
def execVcmpLt (t : Tok) (kd : BitVec 3) (va vb : BitVec 5) (mask : BitVec 3) (ls : BitVec 2) (s : State) :
    Host.Outcome State Fault Refusal :=
  .next (issueMask (.vcmpLt t kd va vb mask ls) t kd (formSame va vb ls cmpTags costArith)
    (fun k => cmpMask .lt (k.getK mask) (k.va va ls).val (k.vb vb ls).val) s)

/-- `vcmp.le` (R186). -/
def execVcmpLe (t : Tok) (kd : BitVec 3) (va vb : BitVec 5) (mask : BitVec 3) (ls : BitVec 2) (s : State) :
    Host.Outcome State Fault Refusal :=
  .next (issueMask (.vcmpLe t kd va vb mask ls) t kd (formSame va vb ls cmpTags costArith)
    (fun k => cmpMask .le (k.getK mask) (k.va va ls).val (k.vb vb ls).val) s)

/-- `kand` (R187). -/
def execKand (t : Tok) (kd : BitVec 5) (ka kb : BitVec 3) (s : State) :
    Host.Outcome State Fault Refusal :=
  .next (issueMask (.kand t kd ka kb) t (kd.setWidth 3) formNone (fun k => k.getK ka &&& k.getK kb) s)

/-- `kor` (R187). -/
def execKor (t : Tok) (kd : BitVec 5) (ka kb : BitVec 3) (s : State) :
    Host.Outcome State Fault Refusal :=
  .next (issueMask (.kor t kd ka kb) t (kd.setWidth 3) formNone (fun k => k.getK ka ||| k.getK kb) s)

/-- `kxor` (R187). -/
def execKxor (t : Tok) (kd : BitVec 5) (ka kb : BitVec 3) (s : State) :
    Host.Outcome State Fault Refusal :=
  .next (issueMask (.kxor t kd ka kb) t (kd.setWidth 3) formNone (fun k => k.getK ka ^^^ k.getK kb) s)

/-- `knot` (R187). -/
def execKnot (t : Tok) (kd : BitVec 5) (ka : BitVec 3) (s : State) :
    Host.Outcome State Fault Refusal :=
  .next (issueMask (.knot t kd ka) t (kd.setWidth 3) formNone (fun k => ~~~(k.getK ka)) s)

/-- `vsel` (R188). -/
def execVsel (t : Tok) (vd va vb : BitVec 5) (ws : BitVec 1) (mask : BitVec 3) (ls : BitVec 2) (s : State) :
    Host.Outcome State Fault Refusal :=
  .next (issueYield (.vsel t vd va vb ws mask ls) t vd ws (formSame va vb ls anyTag costInt)
    (fun k => laneRes (BitVec.allOnes 64) (k.va va ls).val
      (fun i => if laneOn (k.getK mask) i then (k.va va ls).val.lane i else (k.vb vb ls).val.lane i)) s)

/-- `vmov` (R189). -/
def execVmov (t : Tok) (vd va : BitVec 5) (ws : BitVec 1) (mask : BitVec 3) (ls : BitVec 1) (s : State) :
    Host.Outcome State Fault Refusal :=
  .next (issueYield (.vmov t vd va ws mask ls) t vd ws (formOne va ls anyTag costInt)
    (fun k => laneRes (k.getK mask) (k.va1 va ls).val (fun i => (k.va1 va ls).val.lane i)) s)

/-- `vbcast` (R190). -/
def execVbcast (t : Tok) (vd va vb : BitVec 5) (ws : BitVec 1) (mask : BitVec 3) (ls : BitVec 2) (s : State) :
    Host.Outcome State Fault Refusal :=
  .next (issueYield (.vbcast t vd va vb ws mask ls) t vd ws (formTwo va vb ls anyTag addrTags 20)
    (fun k => laneRes (k.getK mask) (k.va va ls).val (fun _ => (k.va va ls).val.lane (((k.vb vb ls).val.lane 0).toNat % 64))) s)

/-- `vperm` (R190). -/
def execVperm (t : Tok) (vd va vb : BitVec 5) (ws : BitVec 1) (mask : BitVec 3) (ls : BitVec 2) (s : State) :
    Host.Outcome State Fault Refusal :=
  .next (issueYield (.vperm t vd va vb ws mask ls) t vd ws (formTwo va vb ls anyTag addrTags 20)
    (fun k => laneRes (k.getK mask) (k.va va ls).val (fun i => (k.va va ls).val.lane (((k.vb vb ls).val.lane i).toNat % 64))) s)

/-- `vrot` (R190). -/
def execVrot (t : Tok) (vd va vb : BitVec 5) (ws : BitVec 1) (mask : BitVec 3) (ls : BitVec 2) (s : State) :
    Host.Outcome State Fault Refusal :=
  .next (issueYield (.vrot t vd va vb ws mask ls) t vd ws (formTwo va vb ls anyTag addrTags 20)
    (fun k => laneRes (k.getK mask) (k.va va ls).val (fun i => (k.va va ls).val.lane ((i + ((k.vb vb ls).val.lane 0).toNat) % 64))) s)

/-- `vli` (R189). -/
def execVli (t : Tok) (vd : BitVec 5) (imm : BitVec 10) (ws : BitVec 1) (mask : BitVec 3) (s : State) :
    Host.Outcome State Fault Refusal :=
  .next (issueYield (.vli t vd imm ws mask) t vd ws formNone
    (fun k => ofLanes 1 (k.getK mask) (fun _ => imm.signExtend 32)) s)

/-- `vidx` (R189). -/
def execVidx (t : Tok) (vd : BitVec 5) (ws : BitVec 1) (mask : BitVec 3) (s : State) :
    Host.Outcome State Fault Refusal :=
  .next (issueYield (.vidx t vd ws mask) t vd ws formNone
    (fun k => ofLanes 1 (k.getK mask) (fun i => BitVec.ofNat 32 i)) s)

/-- `vred.add` (R191). -/
def execVredAdd (t : Tok) (vd va : BitVec 5) (ws : BitVec 1) (mask : BitVec 3) (ls : BitVec 1) (s : State) :
    Host.Outcome State Fault Refusal :=
  .next (issueYield (.vredAdd t vd va ws mask ls) t vd ws (formOne va ls cmpTags costArith)
    (fun k => redAdd (k.getK mask) (k.va1 va ls).val) s)

/-- `vred.min` (R191). -/
def execVredMin (t : Tok) (vd va : BitVec 5) (ws : BitVec 1) (mask : BitVec 3) (ls : BitVec 1) (s : State) :
    Host.Outcome State Fault Refusal :=
  .next (issueYield (.vredMin t vd va ws mask ls) t vd ws (formOne va ls cmpTags costArith)
    (fun k => redMin (k.getK mask) (k.va1 va ls).val) s)

/-- `vred.max` (R191). -/
def execVredMax (t : Tok) (vd va : BitVec 5) (ws : BitVec 1) (mask : BitVec 3) (ls : BitVec 1) (s : State) :
    Host.Outcome State Fault Refusal :=
  .next (issueYield (.vredMax t vd va ws mask ls) t vd ws (formOne va ls cmpTags costArith)
    (fun k => redMax (k.getK mask) (k.va1 va ls).val) s)

/-- `vscan.add` (R192). -/
def execVscanAdd (t : Tok) (vd va : BitVec 5) (ws : BitVec 1) (mask : BitVec 3) (ls : BitVec 1) (s : State) :
    Host.Outcome State Fault Refusal :=
  .next (issueYield (.vscanAdd t vd va ws mask ls) t vd ws (formOne va ls cmpTags costArith)
    (fun k => scanRes (k.getK mask) (k.va1 va ls).val) s)

/-- `vcvt` (R193, R194). -/
def execVcvt (t : Tok) (part : BitVec 2) (vd va : BitVec 5) (tag : BitVec 4) (ws : BitVec 1) (mask : BitVec 3) (ls : BitVec 1) (s : State) :
    Host.Outcome State Fault Refusal :=
  .next (issueCvt (.vcvt t part vd va tag ws mask ls) t vd va ws mask ls tag.toNat part.toNat (fun _ _ => .rne) (fun _ => 0) s)

/-- `vcvt.rz` (R193, R194). -/
def execVcvtRz (t : Tok) (part : BitVec 2) (vd va : BitVec 5) (tag : BitVec 4) (ws : BitVec 1) (mask : BitVec 3) (ls : BitVec 1) (s : State) :
    Host.Outcome State Fault Refusal :=
  .next (issueCvt (.vcvtRz t part vd va tag ws mask ls) t vd va ws mask ls tag.toNat part.toNat (fun _ _ => .rtz) (fun _ => 0) s)

/-- `vcvt.sr` (R193 to R195). -/
def execVcvtSr (t : Tok) (part : BitVec 2) (vd va : BitVec 5) (tag : BitVec 4) (ws : BitVec 1) (mask : BitVec 3) (ls : BitVec 1) (s : State) :
    Host.Outcome State Fault Refusal :=
  .next (issueCvt (.vcvtSr t part vd va tag ws mask ls) t vd va ws mask ls tag.toNat part.toNat (fun seed e => .sr (srBits seed e))
    (fun src => if src = 0 then 0 else min (tagCount src) (tagCount tag.toNat)) s)

/-- `vsplit3` (R196). -/
def execVsplit3 (t : Tok) (vd va part : BitVec 5) (ws : BitVec 1) (mask : BitVec 3) (ls : BitVec 1) (s : State) :
    Host.Outcome State Fault Refusal :=
  .next (issueYield (.vsplit3 t vd va part ws mask ls) t vd ws (formOne va ls [7] costArith)
    (fun k => splitRes (k.getK mask) (k.va1 va ls).val part.toNat) s)

/-- `vcgen` (R197). -/
def execVcgen (t : Tok) (vd va vb : BitVec 5) (ws : BitVec 1) (mask : BitVec 3) (ls : BitVec 2) (s : State) :
    Host.Outcome State Fault Refusal :=
  .next (issueYield (.vcgen t vd va vb ws mask ls) t vd ws (formTwo va vb ls addrTags addrTags 20)
    (fun k => ofLanes 2 (k.getK mask) (fun i => BitVec.ofNat 32 (cgen ((k.va va ls).val.lane i).toNat ((k.vb vb ls).val.lane i).toNat))) s)

/-- Is a value infinite or NaN (R205)? -/
def FVal.special (v : FVal) : Bool := !v.isFin

/-- `vovf` (R205). -/
def execVovf (t : Tok) (va : BitVec 5) (mask : BitVec 3) (ls : BitVec 1) (s : State) : Host.Outcome State Fault Refusal :=
  let f := formOne va ls [6, 7, 8, 9, 10, 11] costArith
  .next (issueV (.vovf t va mask ls) t f.check (fun b =>
    let a := (b.me.va1 va ls).val
    let g := a.tag.toNat
    let hit := (List.range (tagCount g)).any (fun e => elemOn (b.me.getK mask) g e && (tagValue g (a.elem e)).special)
    ((f.pay b).updMe (fun k => { k with ovf := k.ovf || hit })).retireV t) s)

/-- `vlsc` (R39, R206): the eighth skip at the floor traps with cause 0x0D, whose TVAL no rule states (log 6). -/
def execVlsc (t : Tok) (s : State) : Host.Outcome State Fault Refusal :=
  .next (issueV (.vlsc t) t
    (fun b => match lscStep b.me.lsc b.me.ovf with
      | none => .trapOpen 0x0D
      | some _ => b.powerCheck 20)
    (fun b => ((b.charge 20).updMe (fun k => { k with lsc := (lscStep k.lsc k.ovf).getD k.lsc })).retireV t) s)

/-- `vloop` (R116, R210): a third loop, or a body past the section's end, traps with cause 0x01; else the loop
becomes active and the latches are cleared. -/
def execVloop (t : Tok) (count1 : BitVec 10) (len1 : BitVec 11) (s : State) : Host.Outcome State Fault Refusal :=
  let i : Instr := .vloop t count1 len1
  .next (issueV i t
    (fun b =>
      let x := b.me.strand .V
      Check.trapIf (decide (2 ≤ b.me.loops.length) || decide (x.secBase + x.secLen < x.pc.toNat + 4 * (len1.toNat + 2)))
        0x01 (wordOf i))
    (fun b => (b.updMe (fun k =>
      let pc := (k.strand .V).pc
      { k.dropLatches with
        loops := { first := pc + 4, last := pc + 4 * (len1.setWidth 64 + 1), left := count1.toNat + 1 } :: k.loops })).retireNext
      .V t) s)

/-- `nend` of the V strand (R211). A loop inside whose body it stands is active no longer (DESIGN CHOICE, log 98). -/
def execNendV (t : Tok) (s : State) : Host.Outcome State Fault Refusal :=
  .next (issueV (.nendV t) t noCheck (fun b => (b.retireNext .V t).updMe (fun k => { k.endStrand .V with loops := [] })) s)

end Sys2Proof.Machine
end

