-- ==== Sys2Proof/Machine/VectorMem.lean ====
section
/-! DEFINITION. Vector memory access, storage formats and the training helpers that use palettes (R17 to R24, R198 to
R209). -/

namespace Sys2Proof.Machine

/-- One past the last offset of the scratchpad (R9). -/
def spEnd : Nat := 0x80000

/-- The enabled lanes of a mask, ascending. -/
def lanesOn (m : Word) : List Nat := (List.range 64).filter (laneOn m)

/-- A misaligned offset (R198). -/
def misaligned (a n : Nat) : Check := Check.trapIf (a % n != 0) 0x08 (BitVec.ofNat 64 a)

/-- The first of several spans of scratchpad bytes (start, length) that passes the end (R198). -/
def spRange (l : List (Nat × Nat)) : Check :=
  match l.find? (fun e => decide (spEnd < e.1 + e.2)) with
  | some e => .trap 0x06 (BitVec.ofNat 64 e.1)
  | none => .pass

/-- A V memory instruction's checks: sources and power as a form, then its addresses (R173). -/
def VForm.checkAddr (f : VForm) (addr : State → Check) (s : State) : Check :=
  match f.check s with
  | .pass => addr s
  | c => c

/-- Four bytes of the scratchpad with their poison. -/
def Core.spLane (k : Core) (off : Nat) : List (Byte × Bool) :=
  (List.range 4).map (fun j => (k.window.read (off + j), k.winPoison.contains ((off + j) / 16)))

/-- Does a byte hold a reserved T2 code (R22)? -/
def t2Reserved (b : Byte) : Bool := (List.range 4).any (fun n => field b.toNat (2 * n) 2 == 2)

/-- The first byte of a lane that poisons a load under a tag: a poisoned sector, or a reserved T2 code (R27, R199). -/
def laneBad (tag : BitVec 4) (l : List (Byte × Bool)) : Option Nat :=
  (List.range 4).find? (fun j => match l[j]? with
    | some e => e.2 || (tag == 12 && t2Reserved e.1)
    | none => false)

/-- The word of a lane's bytes. -/
def laneWord (l : List (Byte × Bool)) : Lane := BitVec.ofNat 32 (leNat (l.map (·.1)))

/-- The end of a vector load (R27, R199 to R201): enabled lanes, or POISON with the byte's address in PSNA: of several faulting
bytes the first in the order of the lanes, and for a poisoned sector the first byte of it that the load reads (DESIGN CHOICE,
log 96). -/
def State.vloadEnd (s : State) (t : Tok) (vd : BitVec 5) (ws : BitVec 1) (tag : BitVec 4) (m : Word) (space : BitVec 2)
    (addr : Nat → Nat) (rd : Nat → List (Byte × Bool)) : State :=
  let bad := (lanesOn m).findSome? (fun i => (laneBad tag (rd i)).map (fun j => addr i + j))
  let s1 := match bad with
    | some a => s.updMe (fun k => k.notePoison .V space a)
    | none => s
  (s1.yieldOr vd ws bad.isSome (ofLanes tag m (fun i => laneWord (rd i)))).retireV t

/-- The form of a load: its address register and its charge. -/
def formLoad (va : BitVec 5) (ls : BitVec 1) (cost : Nat) : VForm := formOne va ls addrTags (fun _ => cost)

/-- The form of a store: address register and data. -/
def formStore (va vb : BitVec 5) (ls : BitVec 2) (cost : Nat) : VForm := formTwo va vb ls addrTags anyTag cost

/-- A lane of a source as an offset. -/
def Src.off (x : Src) (i : Nat) : Nat := (x.val.lane i).toNat

/-- `vld` (R199). -/
def execVld (t : Tok) (vd va : BitVec 5) (tag : BitVec 4) (ws : BitVec 1) (mask : BitVec 3) (ls : BitVec 1) (s : State) :
    Host.Outcome State Fault Refusal :=
  let f := formLoad va ls (costSp 256)
  let at_ (k : Core) (i : Nat) : Nat := (k.va1 va ls).off 0 + 4 * i
  .next (issueV (.vld t vd va tag ws mask ls) t
    (f.checkAddr (fun b => Check.all [misaligned (at_ b.me 0) 16,
      spRange ((lanesOn (b.me.getK mask)).map (fun i => (at_ b.me i, 4)))]))
    (fun b => (f.pay b).vloadEnd t vd ws tag (b.me.getK mask) 1 (at_ b.me) (fun i => b.me.spLane (at_ b.me i))) s)

/-- `vgath` (R201). -/
def execVgath (t : Tok) (vd va : BitVec 5) (tag : BitVec 4) (ws : BitVec 1) (mask : BitVec 3) (ls : BitVec 1)
    (s : State) : Host.Outcome State Fault Refusal :=
  let f := formLoad va ls (costSp 256)
  let at_ (k : Core) (i : Nat) : Nat := (k.va1 va ls).off i
  .next (issueV (.vgath t vd va tag ws mask ls) t
    (f.checkAddr (fun b => Check.all ((lanesOn (b.me.getK mask)).map (fun i => misaligned (at_ b.me i) 4)
      ++ [spRange ((lanesOn (b.me.getK mask)).map (fun i => (at_ b.me i, 4)))])))
    (fun b => (f.pay b).vloadEnd t vd ws tag (b.me.getK mask) 1 (at_ b.me) (fun i => b.me.spLane (at_ b.me i))) s)

/-- The bytes of a register under a mask, disabled lanes absent (R171). -/
def storeBytes (v : VReg) (m : Word) : List (Option Byte) :=
  (List.range 64).flatMap (fun i =>
    (leBytes 4 (v.lane i).toNat).map (fun b => if laneOn m i then some b else none))

/-- Bytes written to the scratchpad sector by sector (R204). -/
def Core.writeSp (k : Core) (off : Nat) (bytes : List (Option Byte)) : Core :=
  (sectorSplit off bytes).foldl (fun a e => a.writeWindow e.1 e.2) k

/-- `vst` (R199). -/
def execVst (t : Tok) (va vb : BitVec 5) (mask : BitVec 3) (ls : BitVec 2) (s : State) :
    Host.Outcome State Fault Refusal :=
  let f := formStore va vb ls (costSp 256)
  let at_ (k : Core) (i : Nat) : Nat := (k.va va ls).off 0 + 4 * i
  .next (issueV (.vst t va vb mask ls) t
    (f.checkAddr (fun b => Check.all [misaligned (at_ b.me 0) 16,
      spRange ((lanesOn (b.me.getK mask)).map (fun i => (at_ b.me i, 4)))]))
    (fun b => ((f.pay b).updMe (fun k => k.writeSp (at_ k 0) (storeBytes (k.vb vb ls).val (k.getK mask)))).retireV t) s)

/-- `vscat` (R201): ascending lanes, so that the higher lane's value remains. -/
def execVscat (t : Tok) (va vb : BitVec 5) (mask : BitVec 3) (ls : BitVec 2) (s : State) :
    Host.Outcome State Fault Refusal :=
  let f := formStore va vb ls (costSp 256)
  let at_ (k : Core) (i : Nat) : Nat := (k.va va ls).off i
  .next (issueV (.vscat t va vb mask ls) t
    (f.checkAddr (fun b => Check.all ((lanesOn (b.me.getK mask)).map (fun i => misaligned (at_ b.me i) 4)
      ++ [spRange ((lanesOn (b.me.getK mask)).map (fun i => (at_ b.me i, 4)))])))
    (fun b => ((f.pay b).updMe (fun k =>
      (lanesOn (k.getK mask)).foldl (fun a i =>
        a.writeWindow (at_ k i) ((leBytes 4 ((k.vb vb ls).val.lane i).toNat).map some)) k)).retireV t) s)

/-- The virtual address of `vldm` and `vstm` (R198). -/
def Src.virt (x : Src) : Word := BitVec.ofNat 64 (x.off 1 * 2 ^ 32 + x.off 0)

/-- The virtual address of lane i. -/
def laneVirt (a : Word) (i : Nat) : Nat := (a + BitVec.ofNat 64 (4 * i)).toNat

/-- A lane's resolution failed with this cause. -/
def State.laneError (s : State) (need : Need) (a : Word) (i : Nat) : Option (BitVec 8) :=
  match s.locate need (laneVirt a i) with
  | .error c => some c
  | .ok _ => none

/-- The first enabled lane whose new sector would pass the node's staging limit (R143, R200). -/
def State.stageScan (s : State) (a : Word) : List Nat → List Nat → Option Nat
  | [], _ => none
  | i :: t, held =>
    match s.locate needW (laneVirt a i) with
    | .ok { place := q, direct := false } =>
      match q.pa? with
      | some pa =>
        if held.contains (pa / 16) then s.stageScan a t held
        else if 131072 ≤ held.length then some i
        else s.stageScan a t (setInsert held (pa / 16))
      | none => s.stageScan a t held
    | _ => s.stageScan a t held

/-- The address checks of `vldm` and `vstm` (R198, R200): misalignment, translation, permission, staging. -/
def State.vmemCheck (s : State) (need : Need) (a m : Word) : Check :=
  let on := lanesOn m
  let tv (i : Nat) : Word := BitVec.ofNat 64 (laneVirt a i)
  if a.toNat % 16 ≠ 0 then .trap 0x08 a
  else match on.find? (fun i => s.laneError need a i == some 0x06) with
    | some i => .trap 0x06 (tv i)
    | none => match on.findSome? (fun i => (s.laneError need a i).map (fun c => (c, i))) with
      | some e => .trap e.1 (tv e.2)
      | none =>
        if need.w then match s.stageScan a on s.me.node.stagedSectors with
          | some i => .trap 0x0E (tv i)
          | none => .pass
        else .pass

/-- The place of a lane, when it resolves. -/
def State.lanePlace (s : State) (need : Need) (a : Word) (i : Nat) : Option Place :=
  match s.locate need (laneVirt a i) with
  | .ok l => some l.place
  | .error _ => none

/-- A vector access at its lanes: held at the first place that makes it wait, lost with a link, or its effect. -/
def State.vaccess (s : State) (i : Instr) (need : Need) (a m : Word) (eff : State → State) : State :=
  match (lanesOn m).findSome? (fun n => (s.lanePlace need a n).filter s.accessWaits) with
  | some q => s.holdAccess .V i q
  | none => eff s

/-- The effect of `vldm` (R200), what it asks for having come (R415, R417, R420). -/
def State.vldmEffect (s : State) (t : Tok) (vd va : BitVec 5) (tag : BitVec 4) (ws : BitVec 1) (mask : BitVec 3)
    (ls : BitVec 1) : State :=
  let a := (s.me.va1 va ls).virt
  let m := s.me.getK mask
  match (lanesOn m).find? (fun i => (s.laneError needR a i).isSome) with
  | some i => s.trapHere .V ((s.laneError needR a i).getD 0x06) (BitVec.ofNat 64 (laneVirt a i))
  | none =>
    match (lanesOn m).find? (fun i => ((s.lanePlace needR a i).map s.hostGone).getD false) with
    | some i => s.hostLost .V (laneVirt a i)
    | none =>
      let s1 := s.askPlaces s.core ((lanesOn m).filterMap (s.lanePlace needR a))
      let rd (i : Nat) : List (Byte × Bool) := match s1.lanePlace needR a i with
        | some q => (List.range 4).map (fun j => (s1.placeByte s1.core q j, s1.placePoison s1.core q j))
        | none => []
      s1.vloadEnd t vd ws tag m 0 (laneVirt a) rd

/-- `vldm` (R200). -/
def execVldm (t : Tok) (vd va : BitVec 5) (tag : BitVec 4) (ws : BitVec 1) (mask : BitVec 3) (ls : BitVec 1)
    (s : State) : Host.Outcome State Fault Refusal :=
  let f := formLoad va ls 90
  let i : Instr := .vldm t vd va tag ws mask ls
  .next (issueV i t (f.checkAddr (fun b => b.vmemCheck needR (b.me.va1 va ls).virt (b.me.getK mask)))
    (fun b => (f.pay b).vaccess i needR (b.me.va1 va ls).virt (b.me.getK mask)
      (fun c => c.vldmEffect t vd va tag ws mask ls)) s)

/-- The effect of `vstm` (R200): sector by sector, disabled lanes unwritten. -/
def State.vstmEffect (s : State) (t : Tok) (va vb : BitVec 5) (mask : BitVec 3) (ls : BitVec 2) : State :=
  let a := (s.me.va va ls).virt
  let m := s.me.getK mask
  let bytes := storeBytes (s.me.vb vb ls).val m
  match (lanesOn m).find? (fun i => (s.laneError needW a i).isSome) with
  | some i => s.trapHere .V ((s.laneError needW a i).getD 0x06) (BitVec.ofNat 64 (laneVirt a i))
  | none =>
    match (lanesOn m).find? (fun i => ((s.lanePlace needW a i).map s.hostGone).getD false) with
    | some i => s.hostLost .V (laneVirt a i)
    | none =>
      ((List.range 16).foldl (fun b j =>
        let chunk := (bytes.drop (16 * j)).take 16
        if chunk.any Option.isSome then
          match b.locate needW (laneVirt a (4 * j)) with
          | .ok l => b.nodeWrite b.core b.me.node.part l chunk
          | .error _ => b
        else b) s).retireV t

/-- `vstm` (R200). -/
def execVstm (t : Tok) (va vb : BitVec 5) (mask : BitVec 3) (ls : BitVec 2) (s : State) :
    Host.Outcome State Fault Refusal :=
  let f := formStore va vb ls 90
  let i : Instr := .vstm t va vb mask ls
  .next (issueV i t (f.checkAddr (fun b => b.vmemCheck needW (b.me.va va ls).virt (b.me.getK mask)))
    (fun b => (f.pay b).vaccess i needW (b.me.va va ls).virt (b.me.getK mask)
      (fun c => c.vstmEffect t va vb mask ls)) s)

/-- The element format of an MX code, MXINT8 having none (R115). -/
def mxFmt : Nat → Option Fmt
  | 0 => some Fmt.e4m3
  | 1 => some Fmt.e5m2
  | 2 => some Fmt.e3m2
  | 3 => some Fmt.e2m3
  | 4 => some Fmt.e2m1
  | _ => none

/-- emax of an MX code (R20). -/
def mxEmax : Nat → Int
  | 0 => 8
  | 1 => 15
  | 2 => 4
  | 3 => 2
  | 4 => 2
  | _ => 0

/-- First byte and length in bytes of element e in an element array (R18). -/
def mxSpan (code e : Nat) : Nat × Nat :=
  if code = 2 ∨ code = 3 then
    let lo := 6 * (e % 4) / 8
    (32 * (e / 32) + 3 * (e % 32 / 4) + lo, (6 * (e % 4) + 5) / 8 - lo + 1)
  else if code = 4 then (e / 2, 1)
  else (e, 1)

/-- The raw bits of element e, bytes given by their offset in the array (R18). -/
def mxRaw (code e : Nat) (byte : Nat → Byte) : Nat :=
  if code = 2 ∨ code = 3 then
    let o := 32 * (e / 32) + 3 * (e % 32 / 4)
    field (leNat [byte o, byte (o + 1), byte (o + 2)]) (6 * (e % 4)) 6
  else if code = 4 then field (byte (e / 2)).toNat (4 * (e % 2)) 4
  else (byte e).toNat

/-- The value of a raw MX element (R17). -/
def mxValue (code raw : Nat) : FVal :=
  match mxFmt code with
  | some f => f.decode raw
  | none => (FVal.ofInt (signed raw 8)).mul (.fin false 1 (-6))

/-- Decoding an MX element with its scale, rounded once (R19). -/
def mxDecode (f : Fmt) (code raw scale : Nat) : Nat := f.round .rne ((e8m0 scale).mul (mxValue code raw))

/-- Offsets of the padding bytes of block b (R18). -/
def mxPadding (code b : Nat) : List Nat :=
  if code = 2 ∨ code = 3 then (List.range 8).map (fun j => 32 * b + 24 + j) else []

/-- The largest magnitude of a list of finite values. -/
def amax (l : List FVal) : FVal := l.foldl (fun a v => if a.lt v.abs then v.abs else a) FVal.zero

/-- The scale byte and the raw elements of one block of values (R20). -/
def mxEncode (code : Nat) (mode : Nat → Rnd) (l : List FVal) : Nat × List Nat :=
  if l.any (fun v => !v.isFin) then (0xFF, l.map (fun _ => 0))
  else match amax l with
    | .fin _ 0 _ => (0x7F, l.map (fun _ => 0))
    | .fin _ m e =>
      let x := clampInt (-127) 127 (FVal.log2Floor m e - mxEmax code)
      let scaled (v : FVal) : FVal := v.mul (.fin false 1 (-x))
      ((x + 127).toNat, l.zipIdx.map (fun v => match mxFmt code with
        | some f => f.round (mode v.2) (scaled v.1)
        | none => wrapInt 8 (((scaled v.1).mul (.fin false 1 6)).toRange (mode v.2) (-127) 127)))
    | _ => (0xFF, l.map (fun _ => 0))

/-- The bytes of one encoded block (R18). -/
def mxPack (code : Nat) (raw : List Nat) : List Byte :=
  if code = 2 ∨ code = 3 then
    (List.range 8).flatMap (fun g => leBytes 3 ((List.range 4).foldl (fun a n => a + raw.getD (4 * g + n) 0 * 2 ^ (6 * n)) 0))
      ++ List.replicate 8 0
  else if code = 4 then (List.range 16).map (fun k => BitVec.ofNat 8 (raw.getD (2 * k) 0 + 16 * raw.getD (2 * k + 1) 0))
  else raw.map (BitVec.ofNat 8)

/-- Elements per lane of a decoded or encoded register: 1 for F32, 2 for BF16. -/
def mxPer (bf : Bool) : Nat := if bf then 2 else 1

/-- The elements that enabled lanes draw on, ascending. -/
def mxElems (bf : Bool) (m : Word) : List Nat :=
  (lanesOn m).flatMap (fun i => (List.range (mxPer bf)).map (fun n => i * mxPer bf + n))

/-- The blocks of a list of elements, ascending. -/
def mxBlocks (l : List Nat) : List Nat := l.foldl (fun a e => setInsert a (e / 32)) []

/-- The byte spans that a decode or encode touches, in the order of its range checks: elements by lane, padding,
scale bytes (R198, R202; DEDUCED, log 16). A padding byte is named by its own offset, and `vstf`, whose mask shuts nothing out,
names the lowest lane that fails, enabled or not (DESIGN CHOICE, log 103). -/
def mxSpans (code : Nat) (bf : Bool) (m : Word) (o sc : Nat) : List (Nat × Nat) :=
  let es := mxElems bf m
  let perLane := (lanesOn m).map (fun i =>
    let a := mxSpan code (i * mxPer bf)
    let z := mxSpan code (i * mxPer bf + mxPer bf - 1)
    (o + a.1, z.1 + z.2 - a.1))
  perLane ++ (mxBlocks es).flatMap (fun b => (mxPadding code b).map (fun p => (o + p, 1)))
    ++ (mxBlocks es).map (fun b => (sc + b, 1))

/-- Is a maximum invalid: negative, infinite or NaN (R23)? A maximum of −0 is taken as a zero, not as negative (DESIGN
CHOICE, log 68). -/
def badMax (m : Nat) : Bool :=
  let v := Fmt.f32.decode m
  !v.isFin || v.lt FVal.zero

/-- The value of a Q8 code (R23). -/
def q8Decode (p : Palette) (m c : Nat) : Nat := Fmt.f32.op2 .rne FVal.mul (vget p.entries c 0).toNat m

/-- A palette whose check runs makes its use wait (R207). -/
def palWait (k : Core) (n : Nat) : Check := if (k.getPal n).checking then .wait .fence else .pass

/-- The spans that a Q8 decode touches: codes by lane, then the maximum (R202). -/
def q8Spans (bf : Bool) (m : Word) (o sc : Nat) : List (Nat × Nat) :=
  (lanesOn m).map (fun i => (o + i * mxPer bf, mxPer bf)) ++ (if lanesOn m = [] then [] else [(sc, 4)])

/-- The register that `vldf` decodes to, and whether a value poisons it without an address (R202). -/
def Core.vldfValue (k : Core) (code : Nat) (bf : Bool) (m : Word) (o sc : Nat) : VReg × Bool :=
  let byte (a : Nat) : Byte := k.window.read a
  let tag := if bf then 8 else 7
  if 8 ≤ code then
    let p := k.getPal (code - 8)
    let mx := leNat ((List.range 4).map (fun j => byte (sc + j)))
    let val (e : Nat) : Nat :=
      let v := q8Decode p mx (byte (o + e)).toNat
      if bf then Fmt.bf16.round .rne (Fmt.f32.decode v) else v
    (ofElems tag m (fun _ => 0) val, !p.valid || (badMax mx && lanesOn m != []))
  else
    let f := if bf then Fmt.bf16 else Fmt.f32
    (ofElems tag m (fun _ => 0)
      (fun e => mxDecode f code (mxRaw code e (fun j => byte (o + j))) (byte (sc + e / 32)).toNat), false)

/-- `vldf` (R202): a poisoned sector records the sector's offset, and non-zero padding its own; an invalid palette or maximum
does not. Of several faulting bytes PSNA keeps the first of the elements, then of the padding, then of the scale bytes (DESIGN
CHOICE, log 96). -/
def execVldf (t : Tok) (vd va : BitVec 5) (code : BitVec 5) (ws : BitVec 1) (mask : BitVec 3) (ls : BitVec 1) (s : State) :
    Host.Outcome State Fault Refusal :=
  let c := code.toNat % 16
  let bf := decide (16 ≤ code.toNat)
  let spans (k : Core) : List (Nat × Nat) :=
    let a := k.va1 va ls
    if 8 ≤ c then q8Spans bf (k.getK mask) (a.off 0) (a.off 1) else mxSpans c bf (k.getK mask) (a.off 0) (a.off 1)
  let f : VForm := { formLoad va ls 30 with group := fun k => if 8 ≤ c then palWait k (c - 8) else .pass }
  .next (issueV (.vldf t vd va code ws mask ls) t
    (f.checkAddr (fun b => Check.all [misaligned ((b.me.va1 va ls).off 0) 16,
      if 8 ≤ c then misaligned ((b.me.va1 va ls).off 1) 4 else .pass, spRange (spans b.me)]))
    (fun b =>
      let k := b.me
      let a := k.va1 va ls
      let m := k.getK mask
      let touched := (spans k).flatMap (fun e => (List.range e.2).map (fun j => e.1 + j))
      let pad := if 8 ≤ c then [] else
        (mxBlocks (mxElems bf m)).flatMap (fun n => (mxPadding c n).map (fun p => a.off 0 + p))
      let bad := touched.find? (fun x => k.winPoison.contains (x / 16) || (pad.contains x && k.window.read x != 0))
      let r := k.vldfValue c bf m (a.off 0) (a.off 1)
      let b1 := match bad with
        | some x => (f.pay b).updMe (fun k => k.notePoison .V 1 (if k.winPoison.contains (x / 16) then x / 16 * 16 else x))
        | none => f.pay b
      (b1.yieldOr vd ws (bad.isSome || r.2) r.1).retireV t) s)

/-- The bytes that `vstf` writes (R203): element array and scale array. -/
def vstfBytes (code : Nat) (v : VReg) (m : Word) : List Byte × List Byte :=
  let t := v.tag.toNat
  let blocks := (List.range (tagCount t / 32)).map (fun b =>
    mxEncode code (fun _ => .rne) ((List.range 32).map (fun k =>
      let e := 32 * b + k
      if elemOn m t e then tagValue t (v.elem e) else FVal.zero)))
  (blocks.flatMap (fun e => mxPack code e.2), blocks.map (fun e => BitVec.ofNat 8 e.1))

/-- `vstf` (R203). Where its two arrays overlap the scale bytes remain (DESIGN CHOICE, log 104). -/
def execVstf (t : Tok) (code : BitVec 4) (va vb : BitVec 5) (mask : BitVec 3) (ls : BitVec 2) (s : State) :
    Host.Outcome State Fault Refusal :=
  let f := formTwo va vb ls addrTags [7, 8] 30
  .next (issueV (.vstf t code va vb mask ls) t
    (f.checkAddr (fun b => spRange (mxSpans code.toNat ((b.me.vb vb ls).tag == 8) (BitVec.allOnes 64)
      ((b.me.va va ls).off 0) ((b.me.va va ls).off 1))))
    (fun b => ((f.pay b).updMe (fun k =>
      let a := k.va va ls
      let r := vstfBytes code.toNat (k.vb vb ls).val (k.getK mask)
      (k.writeSp (a.off 0) (r.1.map some)).writeSp (a.off 1) (r.2.map some))).retireV t) s)

/-- Are 256 entries finite and strictly ascending (R23)? -/
def paletteOk (e : Vector Lane 256) : Bool :=
  let v (i : Nat) : FVal := Fmt.f32.decode (vget e i 0).toNat
  (List.range 256).all (fun i => (v i).isFin) && (List.range 255).all (fun i => (v i).lt (v (i + 1)))

/-- Palette n replaced. -/
def Core.setPal (k : Core) (n : Nat) (p : Palette) : Core := { k with pals := vset k.pals n p }

/-- `vpal` (R207): the palette is invalid from issue, and its check ends by an event; a poisoned sector leaves it
invalid. -/
def execVpal (t : Tok) (va : BitVec 5) (pal : BitVec 1) (ls : BitVec 1) (s : State) : Host.Outcome State Fault Refusal :=
  let f := formLoad va ls (costSp 1024)
  .next (issueV (.vpal t va pal ls) t
    (f.checkAddr (fun b =>
      let o := (b.me.va1 va ls).off 0
      Check.all [misaligned o 128, spRange ((List.range 256).map (fun i => (o + 4 * i, 4)))]))
    (fun b => ((f.pay b).updMe (fun k =>
      let o := (k.va1 va ls).off 0
      let bad := (List.range 1024).find? (fun j => k.winPoison.contains ((o + j) / 16))
      let p : Palette := { entries := tab 256 (fun i => laneWord (k.spLane (o + 4 * i))), valid := false,
                           checking := bad.isNone }
      match bad with
      | some j => (k.setPal pal.toNat p).notePoison .V 1 (o + j)
      | none => k.setPal pal.toNat p)).retireV t) s)

/-- The code that encodes a value through a palette with maximum m (R24): the nearest entry, the lower on a tie. -/
def q8Encode (p : Palette) (m v : Nat) : Nat :=
  let mv := Fmt.f32.decode m
  let t := if mv.isZero then FVal.zero else Fmt.f32.decode (Fmt.f32.op2 .rne FVal.div v m)
  match t with
  | .inf neg => if neg then 0 else 255
  | _ =>
    let dist (c : Nat) : FVal := ((Fmt.f32.decode (vget p.entries c 0).toNat).sub t).abs
    (List.range 256).foldl (fun best c => if (dist c).lt (dist best) then c else best) 0

/-- `vqenc` through palette n (R209). -/
def issueQenc (i : Instr) (t : Tok) (vd va vb : BitVec 5) (ws : BitVec 1) (mask : BitVec 3) (ls : BitVec 2) (n : Nat)
    (s : State) : State :=
  let f : VForm := { formTwo va vb ls [7] [7] 150 with group := fun k => palWait k n }
  issueV i t f.check (fun b =>
    let k := b.me
    let a := (k.va va ls).val
    let m := ((k.vb vb ls).val.lane 0).toNat
    let p := k.getPal n
    let on := k.getK mask
    let bad := !p.valid || badMax m || (lanesOn on).any (fun e => (Fmt.f32.decode (a.elem e)).special)
    let r := ofElems 13 (BitVec.allOnes 64) (fun _ => 0)
      (fun e => if e < 64 ∧ laneOn on e then q8Encode p m (a.elem e) else 0)
    ((f.pay b).yieldOr vd ws bad r).retireV t) s

/-- `vqenc` through `pal0` (R209). -/
def execVqenc (t : Tok) (vd va vb : BitVec 5) (ws : BitVec 1) (mask : BitVec 3) (ls : BitVec 2) (s : State) :
    Host.Outcome State Fault Refusal :=
  .next (issueQenc (.vqenc t vd va vb ws mask ls) t vd va vb ws mask ls 0 s)

/-- `vqenc` through `pal1` (R209). -/
def execVqencPal1 (t : Tok) (vd va vb : BitVec 5) (ws : BitVec 1) (mask : BitVec 3) (ls : BitVec 2) (s : State) :
    Host.Outcome State Fault Refusal :=
  .next (issueQenc (.vqencPal1 t vd va vb ws mask ls) t vd va vb ws mask ls 1 s)

/-- A product rounded into F32. -/
def mul32 (a b : Nat) : Nat := Fmt.f32.op2 .rne FVal.mul a b

/-- New p, m and v of one lane of `vadam` (R208), from H, the palettes' values and the lane's g and p. -/
def adamLane (h : Nat → Nat) (m v g p : Nat) : Nat × Nat × Nat :=
  let f := Fmt.f32
  let mn := f.fma .rne (h 1) m (mul32 (h 2) g)
  let vn := f.fma .rne (h 3) v (mul32 (h 4) (mul32 g g))
  let mh := mul32 mn (h 6)
  let vh := mul32 vn (h 7)
  let den := f.op2 .rne FVal.add (sqrt32 vh) (h 5)
  let upd := f.op2 .rne FVal.div mh den
  let upw := f.fma .rne (h 8) p upd
  let np := f.round .rne ((((f.decode (h 0)).neg).mul (f.decode upw)).add (f.decode p))
  (np, mn, vn)

/-- The running maximum of magnitudes (R208): IEEE 754-2019 maximum. -/
def maxAbs (l : List Nat) (h : Nat) : Nat :=
  l.foldl (fun a x => Fmt.f32.round .rne ((Fmt.f32.decode a).max (Fmt.f32.decode x).abs)) h

/-- The effect of `vadam` on the registers (R208). -/
def Core.adam (k : Core) (vd va vb : BitVec 5) (mask : BitVec 3) (ls : BitVec 2) : Core :=
  let h := k.getV (groupReg vd 3)
  let hv (i : Nat) : Nat := (h.lane i).toNat
  let a := (k.va va ls).val
  let q := (k.vb vb ls).val
  let d := k.getV vd
  let on := k.getK mask
  let res := (List.range 64).map (fun i =>
    adamLane hv (q8Decode (k.getPal 0) (hv 9) (q.elem i)) (q8Decode (k.getPal 1) (hv 10) (q.elem (64 + i)))
      (a.lane i).toNat (d.lane i).toNat)
  let at_ (i : Nat) : Nat × Nat × Nat := res.getD i (0, 0, 0)
  let on3 := lanesOn on
  let nh : VReg := { h with lanes := tab 64 (fun i =>
    if i = 11 then BitVec.ofNat 32 (maxAbs (on3.map (fun e => (at_ e).2.1)) (hv 11))
    else if i = 12 then BitVec.ofNat 32 (maxAbs (on3.map (fun e => (at_ e).2.2)) (hv 12))
    else h.lane i) }
  let k1 := k.yieldV vd 0 (keepLanes on d (fun i => BitVec.ofNat 32 (at_ i).1))
  ((k1.setV (groupReg vd 1) (ofLanes 7 on (fun i => BitVec.ofNat 32 (at_ i).2.1))).setV (groupReg vd 2)
    (ofLanes 7 on (fun i => BitVec.ofNat 32 (at_ i).2.2))).setV (groupReg vd 3) nh

/-- `vadam` (R208): the register group is checked after the tags; an invalid palette or maximum poisons vd, vd+1
and vd+2. -/
def execVadam (t : Tok) (vd va vb : BitVec 5) (mask : BitVec 3) (ls : BitVec 2) (s : State) :
    Host.Outcome State Fault Refusal :=
  let f : VForm :=
    { srcs := fun k => [(k.va va ls, [7]), (k.vb vb ls, [13]), (k.srcReg vd 0, [7]), (k.srcReg (groupReg vd 3) 3, [7])],
      cost := fun _ => 150,
      group := fun k => Check.all [Check.trapIf (vd.toNat % 4 != 0) 0x01 0, palWait k 0, palWait k 1],
      reads := vd :: groupReg vd 3 :: reads2 va vb ls }
  .next (issueV (.vadam t vd va vb mask ls) t f.check (fun b =>
    let h := b.me.getV (groupReg vd 3)
    let bad := !(b.me.getPal 0).valid || !(b.me.getPal 1).valid || badMax (h.lane 9).toNat || badMax (h.lane 10).toNat
    let b0 := f.pay b
    let b1 := if bad then
        let r (n : Nat) : VReg := State.poisonReg { b0 with free := b0.free + 64 * n }
        { b0.updMe (fun k => ((k.yieldV vd 0 (r 0)).setV (groupReg vd 1) (r 1)).setV (groupReg vd 2) (r 2)) with
          free := b0.free + 192 }
      else b0.updMe (fun k => k.adam vd va vb mask ls)
    b1.retireV t) s)

end Sys2Proof.Machine
end

