-- ==== Sys2Proof/Machine/MatrixOps.lean ====
section
/-! DEFINITION. What the M instructions share: the two paths and what holds an instruction back (R212, R213), entry,
retirement in program order (R274), planes, tiles and their checksums (R47 to R50, R226), column sums (R33, R34). -/

namespace Sys2Proof.Machine

/-- The resources that a queued M instruction writes: tiles 0 to 7, live plane 8, shadow plane 9, slots 10 to 13, handles
14 to 17, the scratchpad 18. -/
def mWrites : Instr → List Nat
  | .mwldSlot _ s _ _ => [9, 10 + s.toNat]
  | .mwldScratchpad _ _ _ _ => [9]
  | .mswp _ => [8, 9]
  | .mslot _ s _ => [10 + s.toNat]
  | .mmf _ t _ _ _ => [t.toNat]
  | .mmb _ t _ _ _ => [t.toNat]
  | .mmw _ t _ _ _ => [t.toNat]
  | .mconst _ t _ _ _ => [t.toNat]
  | .mconstB _ t _ _ _ => [t.toNat]
  | .mzero _ t => [t.toNat]
  | .macc _ t _ _ => [t.toNat]
  | .madr _ _ _ _ _ => [18]
  | .madrRz _ _ _ _ _ => [18]
  | .madrSr _ _ _ _ _ => [18]
  | .mbind _ h _ => [14 + h.toNat]
  | .mimm _ t _ _ _ => [t.toNat]
  | .mimmHi _ t _ _ _ => [t.toNat]
  | .mimmMid _ t _ _ _ => [t.toNat]
  | .mimmLo _ t _ _ _ => [t.toNat]
  | .mimv _ _ _ _ _ _ => [18]
  | _ => []

/-- The resources that the issue checks of an M instruction look at. -/
def mAtIssue : Instr → List Nat
  | .mwldSlot _ s _ _ => [10 + s.toNat]
  | .mwldScratchpad _ _ _ _ => []
  | .mslot _ _ _ => []
  | .mimv _ h _ _ _ _ => [14 + h.toNat]
  | .mimm _ t h _ _ => [t.toNat, 8, 14 + h.toNat]
  | .mimmHi _ t h _ _ => [t.toNat, 8, 14 + h.toNat]
  | .mimmMid _ t h _ _ => [t.toNat, 8, 14 + h.toNat]
  | .mimmLo _ t h _ _ => [t.toNat, 8, 14 + h.toNat]
  | .mmf _ t _ _ _ => [t.toNat, 8]
  | .mmb _ t _ _ _ => [t.toNat, 8]
  | .mmw _ t _ _ _ => [t.toNat, 8]
  | .mconst _ t _ _ _ => [t.toNat, 8]
  | .mconstB _ t _ _ _ => [t.toNat, 8]
  | .macc _ t _ _ => [t.toNat]
  | .madr _ t _ _ _ => [t.toNat]
  | .madrRz _ t _ _ _ => [t.toNat]
  | .madrSr _ t _ _ _ => [t.toNat]
  | .mchk _ t => [t.toNat]
  | _ => []

/-- Does an M instruction read memory at its issue, so that every earlier instruction takes effect before (R213, R290,
R293)? -/
def mAlone : Instr → Bool
  | .mbind _ _ _ | .mlds _ _ _ _ => true
  | _ => false

/-- Do two lists share a number? -/
def meets (a b : List Nat) : Bool := a.any (fun x => b.contains x)

/-- Does an issued instruction that has not taken effect hold the issue of another back (R213)? -/
def mHolds (e : MEntry) (i : Instr) : Bool :=
  e.path != .order && (mAlone i || meets (mWrites e.instr) (mAtIssue i))

/-- Entries of a path that have not taken effect (R213). -/
def Core.pathCount (k : Core) (p : Path) : Nat := (k.mq.filter (fun e => e.path == p)).length

/-- Room in a path: 8 in the array queue, 4 in the weight path (R213). -/
def Core.pathRoom (k : Core) (p : Path) : Bool :=
  match p with
  | .array => decide (k.pathCount .array < 8)
  | .weight => decide (k.pathCount .weight < 4)
  | .order => true

/-- A full path, or an earlier instruction whose effect this one's issue needs, stalls the strand (R213). -/
def Core.mWait (k : Core) (i : Instr) (p : Path) : Check :=
  if k.pathRoom p && !k.mq.any (fun e => mHolds e i) then .pass else .wait .queueFull

/-- The index of the entry that may take effect, if it waits in a path: the oldest that has not, so that M instructions
act as if each completed before the next (R213, R223, R293). -/
def Core.mPick (k : Core) (p : Path) : Option Nat :=
  match k.mq.findIdx? (fun e => e.path != .order) with
  | some n => if (k.mq[n]?.map (·.path)) = some p then some n else none
  | none => none

/-- The checks of an M instruction after its pop: what holds it back, then its issue checks in order (R212). -/
def issueM (i : Instr) (t : Tok) (p : Path) (chk : State → Check) (eff : State → State) (s : State) : State :=
  issue .M i t noCheck (fun b => match b.me.mWait i p with
    | .pass => chk b
    | c => c) eff s

/-- An issued instruction enters the queue of M instructions with what it captures (R212). -/
def State.enterM (s : State) (i : Instr) (t : Tok) (p : Path) (regs : List Lane) (cost : Nat) : State :=
  (s.charge cost).updMe (fun k =>
    let e : MEntry := { path := p, instr := i, pc := (k.strand .M).pc, push := t.push, r0 := regs.getD 0 0,
                        r1 := regs.getD 1 0, r2 := regs.getD 2 0, r3 := regs.getD 3 0, bands := k.bands,
                        seed := k.srseed, post := none }
    { k.updStrand .M (fun x => x.advance (k.pc4 .M)) with mq := k.mq ++ [e] })

/-- An M instruction that executes in the strand itself (R213): it retires at once, or in its place behind
instructions that have not retired (R274). -/
def issueParam (i : Instr) (t : Tok) (chk : State → Check) (f : Core → Core) (next : Core → Word) (s : State) : State :=
  issueM i t .order chk (fun b =>
    let to_ := next b.me
    let b1 := b.updMe f
    if b1.me.mq = [] then b1.retire .M t to_
    else (b1.enterM i t .order [] 0).updMe (fun k => k.updStrand .M (fun x => { x with pc := to_ }))) s

/-- The next word of the M strand. -/
def mNext (k : Core) : Word := k.pc4 .M

/-- May the entry at the head retire: it has taken effect, no push of the strand is held, and its own push would be the
strand's only one in the cycle (R274)? -/
def Core.mHead (k : Core) : Bool :=
  (match k.mq with
    | e :: _ => e.path == .order && (e.push == 0 || !k.pushedNow .M)
    | [] => false) &&
  match (k.strand .M).cond with
    | .pushHold _ _ _ => false
    | _ => true

/-- The entry at the head retires: counted, its push, and a recorded exception to follow it (R239, R316); until now it was
in flight, so the strand's stall counts from here (R275). -/
def State.mRetireHead (s : State) (e : MEntry) : State :=
  let s1 := (s.count s.me.node.part 4).updMe (fun k =>
    (({ k with mq := k.mq.drop 1 }).updStrand .M (fun x => { x with since := s.cycle })).push .M e.push e.pc s.cycle)
  match e.post with
  | some v => s1.updMe (fun k => k.updStrand .M (fun x =>
      { x with pending := some { cause := 0x0C, tval := v, tepc := x.pc, post := true, made := s.cycle,
                                 kept := k.node.saveAt.isSome } }))
  | none => s1

/-- Retirement of the entries at the head that have taken effect, in program order: one push in a cycle, none
behind a held push (R274). -/
def State.mRetire (s : State) : Nat → State
  | 0 => s
  | fuel + 1 =>
    match s.me.mq with
    | [] => s
    | e :: _ =>
      if s.me.mHead then
        if e.push = 0 ∧ e.post = none then (s.mRetireHead e).mRetire fuel else s.mRetireHead e
      else s

/-- Does an implicit instruction whose handle has policy TRAP hold M's issue (R239)? -/
def Core.mTrapHeld (k : Core) : Bool :=
  k.mq.any (fun e => match e.instr with
    | .mimm _ _ h _ _ | .mimmHi _ _ h _ _ | .mimmMid _ _ h _ _ | .mimmLo _ _ h _ _ | .mimv _ h _ _ _ _ =>
      cvExc (k.getH h).record == 2
    | _ => false)

/-- A scratchpad offset of a parameter register (R218). -/
def spOff (r : Lane) : Nat := field r.toNat 0 19
/-- STRIDE of a shape. -/
def strideOf (r : Lane) : Nat := field r.toNat 16 16
/-- Rows of a shape. -/
def rowsOf (r : Lane) : Nat := field r.toNat 0 6 + 1
/-- SHIFT of a shape. -/
def shiftOf (r : Lane) : Int := signed (field r.toNat 8 7) 7

/-- The 128 bytes at a scratchpad offset. -/
def Core.recordAt (k : Core) (o : Nat) : List Byte := k.window.readBytes o 128

/-- A scratchpad operand that passes the end (R216): TVAL is the first failing offset. -/
def passesEnd (l : List (Nat × Nat)) : Check :=
  match l.find? (fun e => decide (spEnd < e.1 + e.2)) with
  | some e => .trap 0x06 (BitVec.ofNat 64 (max e.1 spEnd))
  | none => .pass

/-- An offset, and a stride, that are no multiple of n (R227, R231, R232). -/
def alignRows (n pa st : Nat) : Check :=
  if pa % n ≠ 0 then .trap 0x08 (BitVec.ofNat 64 pa)
  else Check.trapIf (st % n != 0) 0x08 (BitVec.ofNat 64 (pa + st))

/-- TVAL of causes 0x04 and 0x05 on M (R216). -/
def mTag (operand : Nat) (tag : BitVec 4) : Word := tagTval operand tag

/-- The tile must not be POISON. -/
def Core.tileClean (k : Core) (t : BitVec 3) : Check :=
  Check.trapIf ((k.getTile t).tag == 0xF) 0x05 (mTag 0 (k.getTile t).tag)

/-- The live plane must not be POISON. -/
def Core.liveClean (k : Core) : Check := Check.trapIf (k.live.tag == 0xF) 0x05 (mTag 1 k.live.tag)

/-- The live plane's tag must be one of a list. -/
def Core.liveTag (k : Core) (l : List Nat) : Check := Check.trapIf (!l.contains k.live.tag.toNat) 0x04 (mTag 1 k.live.tag)

/-- Are all 4,096 words zero? -/
def Tile.allZero (x : Tile) : Bool := x.rows.toList.all (fun r => r.toList.all (· == 0))

/-- The tile takes a product of a kind: equal tags, or an all-zero tile (R226). -/
def Core.tileKind (k : Core) (t : BitVec 3) (kind : BitVec 4) : Check :=
  let x := k.getTile t
  Check.trapIf (x.tag != kind && !x.allZero) 0x04 (mTag 0 x.tag)

/-- A band outside the granted class: cause 0x0B, whose TVAL no rule states (R62; log 6). -/
def Core.bandCheck (k : Core) : Check := Check.openIf (k.bands &&& ~~~(bandsAdmitted k.grant.toNat) != 0) 0x0B

/-- Reduction positions in the enabled bands, ascending (R33). -/
def bandKs (bands : BitVec 4) : List Nat := (List.range 64).filter (fun k => bitOf bands.toNat (k / 16))

/-- Enabled bands. -/
def bandCount (bands : BitVec 4) : Nat := ((List.range 4).filter (fun b => bitOf bands.toNat b)).length

/-- pJ per row and band for a plane or stream format (R447). -/
def rowCost (tag : Nat) : Nat := if tag = 8 ∨ tag = 9 then 450 else if tag = 12 then 120 else 250

/-- The charge of n bytes moved, n a multiple of 64 (R447). -/
def moveCost (n : Nat) : Nat := max 20 (20 * n / 256)

/-- Value r, c of a plane as a float (R50). -/
def Plane.f (x : Plane) (r c : Nat) : FVal := tagValue x.tag.toNat (vget (vget x.vals r (tab 64 (fun _ => 0))) c 0).toNat

/-- Value r, c of an I8 or T2 plane as an integer (R22, R34). -/
def Plane.i (x : Plane) (r c : Nat) : Int :=
  let b := (vget (vget x.vals r (tab 64 (fun _ => 0))) c 0).toNat
  if x.tag = 12 then (if b = 1 then 1 else if b = 3 then -1 else 0) else signed b 8

/-- A checksum after a word changes (R48). -/
def sumStep (c old new : Lane) : Lane := BitVec.ofNat 32 ((c.toNat + new.toNat + (2 ^ 32 - 1) - old.toNat % (2 ^ 32 - 1)) % (2 ^ 32 - 1))

/-- Word j of a tile's row. -/
def Tile.word (x : Tile) (i j : Nat) : Lane := vget (vget x.rows i (tab 64 (fun _ => 0))) j 0

/-- A tile whose first n rows take new words, computed from the old ones, under a tag; the checksums follow. -/
def Tile.update (x : Tile) (tag : BitVec 4) (n : Nat) (f : Nat → Nat → Lane → Lane) : Tile :=
  let rows := tab 64 (fun i => if i < n then tab 64 (fun j => f i j (x.word i j)) else vget x.rows i (tab 64 (fun _ => 0)))
  let y : Tile := { x with rows := rows }
  { rows := rows, tag := tag,
    sums := tab 64 (fun i =>
      if i < n then (List.range 64).foldl (fun c j => sumStep c (x.word i j) (y.word i j)) (vget x.sums i 0)
      else vget x.sums i 0) }

/-- Does row i agree with its checksum (R48)? -/
def Tile.rowOk (x : Tile) (i : Nat) : Bool :=
  ((List.range 64).map (fun j => (x.word i j).toNat)).sum % (2 ^ 32 - 1) == (vget x.sums i 0).toNat % (2 ^ 32 - 1)

/-- Do the first n rows agree with their checksums? -/
def Tile.sumsOk (x : Tile) (n : Nat) : Bool := (List.range n).all x.rowOk

/-- A column sum in FP32 over positions in order, from +0 (R33). -/
def colSum (ks : List Nat) (x w : Nat → FVal) : Nat := ks.foldl (fun a k => rf32 (((x k).mul (w k)).add (vf32 a))) 0

/-- A column sum in integers (R34). -/
def colSumI (ks : List Nat) (x w : Nat → Int) : Int := (ks.map (fun k => x k * w k)).sum

/-- SAT_I32 of a word plus an integer (R34). -/
def satAdd (old : Lane) (v : Int) : Lane := BitVec.ofInt 32 (clampInt (-(2 ^ 31)) (2 ^ 31 - 1) (old.toInt + v))

/-- RNE_F32 of a word plus FP32 bits (R33). -/
def accAdd (old : Lane) (v : Nat) : Lane := BitVec.ofNat 32 (rf32 ((vf32 old.toNat).add (vf32 v)))

/-- A tile that a poisoned read tags POISON (R227): the first n rows hold free values (log 6). -/
def State.poisonTile (s : State) (t : BitVec 3) (n : Nat) (space : BitVec 2) (addr : Nat) : State :=
  let s1 := s.updMe (fun k => ((k.setTile t ((k.getTile t).update 0xF n
    (fun i j _ => (Config.freeValue (s.free + 64 * i + j)).setWidth 32))).notePoison .M space addr))
  { s1 with free := s1.free + 4096 }

/-- The first poisoned byte of scratchpad spans, in order. -/
def Core.spPoison (k : Core) (l : List (Nat × Nat)) : Option Nat :=
  l.findSome? (fun e => (List.range e.2).findSome? (fun j =>
    if k.winPoison.contains ((e.1 + j) / 16) then some (e.1 + j) else none))

end Sys2Proof.Machine
end

