-- ==== Sys2Proof/Machine/CopyOps.lean ====
section
/-! DEFINITION. Copy commands: how a command is filled (R245, R246), its extents and checks (R253 to R255, R266),
its hand-off and the retirement of C instructions (R247, R248). -/

namespace Sys2Proof.Machine

/-- A source run of a command: where its bytes come from, where they go, and how many they are (R260, R261). -/
structure MoveRun where
  src : Int
  dst : Int
  len : Nat
  deriving DecidableEq, Repr

/-- The fields of a command before it has an issuer: FORM, SLOT, the CTL and LEN words, the addresses and A1 to A4
(R245). -/
structure CmdFields where
  form : Nat
  slot : Nat
  sl   : Bool
  aux  : Nat
  wait : BitVec 8
  sig  : BitVec 8
  cnt  : Nat
  src  : Word
  dst  : Word
  xlen : Nat
  a1   : Lane
  a2   : Lane
  a3   : Lane
  a4   : Lane
  item : List Byte
  deriving DecidableEq, Repr

/-- Does a form use a field (R246, R260 to R266)? Fields by letter: x LEN, a AUX, c CNT, 1 to 4 A1 to A4. -/
def formUses (form : Nat) (field : Char) : Bool :=
  let l := match form with
    | 1 => "x"
    | 2 => "xc12"
    | 3 => "xac1234"
    | 4 => "ac12"
    | 5 => "ac12"
    | 6 => "x"
    | 7 => "xa"
    | 8 => "x"
    | 9 => "x"
    | 10 => "xa12"
    | 11 => "x12"
    | _ => "xac12"
  l.toList.contains field

/-- A field that a form does not use is written as zero (R246). -/
def CmdFields.trim (c : CmdFields) : CmdFields :=
  let u := formUses c.form
  { c with xlen := if u 'x' then c.xlen else 0, aux := if u 'a' then c.aux else 0, cnt := if u 'c' then c.cnt else 0,
           a1 := if u '1' then c.a1 else 0, a2 := if u '2' then c.a2 else 0, a3 := if u '3' then c.a3 else 0,
           a4 := if u '4' then c.a4 else 0 }

/-- A command filled from the block of q registers at qb (R246). -/
def Core.blockCmd (k : Core) (form : Nat) (qb slot : BitVec 4) (sl : BitVec 1) : CmdFields :=
  let q (i : Nat) : Nat := (k.getQ (BitVec.ofNat 4 (qb.toNat + i))).toNat
  CmdFields.trim
    { form := form, slot := slot.toNat, sl := sl = 1, aux := field (q 4) 24 8, wait := BitVec.ofNat 8 (q 5),
      sig := BitVec.ofNat 8 (q 5 / 256), cnt := field (q 5) 16 16, src := BitVec.ofNat 64 (q 0 + q 1 * 2 ^ 32),
      dst := BitVec.ofNat 64 (q 2 + q 3 * 2 ^ 32), xlen := field (q 4) 0 24, a1 := BitVec.ofNat 32 (q 6),
      a2 := BitVec.ofNat 32 (q 7), a3 := BitVec.ofNat 32 (q 8), a4 := BitVec.ofNat 32 (q 9),
      item := List.replicate 64 0 }

/-- The fields of a 128-byte command that `csend` reads (R245). -/
def bytesCmd (b : List Byte) : CmdFields :=
  CmdFields.trim
    { form := leAt b 0 1, slot := field (leAt b 1 1) 0 4, sl := bitOf (leAt b 1 1) 4, aux := leAt b 2 1,
      wait := BitVec.ofNat 8 (leAt b 4 1), sig := BitVec.ofNat 8 (leAt b 5 1), cnt := leAt b 6 2,
      src := BitVec.ofNat 64 (leAt b 8 8), dst := BitVec.ofNat 64 (leAt b 0x10 8), xlen := field (leAt b 0x18 4) 0 24,
      a1 := BitVec.ofNat 32 (leAt b 0x1C 4), a2 := BitVec.ofNat 32 (leAt b 0x20 4), a3 := BitVec.ofNat 32 (leAt b 0x24 4),
      a4 := BitVec.ofNat 32 (leAt b 0x28 4), item := (b.drop 0x40).take 64 }

/-- TVAL of cause 0x01: 2^63 plus the offset of the failing field (R253). -/
def cmdField (off : Nat) : Word := BitVec.ofNat 64 (2 ^ 63 + off)

/-- Check 3 of R253 on a command's bytes, in the order of its list: FORM, PART, reserved bytes and bits (a slot
under SL = 0 among them), ITEM, and SL and slot for `carm`. -/
def rawCheck (b : List Byte) : Check :=
  let form := leAt b 0 1
  let slot := leAt b 1 1
  if form = 0 ∨ 12 < form then .trap 0x01 (cmdField 0)
  else if leAt b 3 1 ≠ 0 then .trap 0x01 (cmdField 3)
  else if 32 ≤ slot ∨ (slot < 16 ∧ slot ≠ 0) then .trap 0x01 (cmdField 1)
  else if leAt b 0x1B 1 ≠ 0 then .trap 0x01 (cmdField 0x18)
  else if !zeroAt b 0x2C 20 then .trap 0x01 (cmdField 0x2C)
  else if !zeroAt b 0x40 64 && !(form == 12 && field (leAt b 0x1C 4) 0 3 == 2) then .trap 0x01 (cmdField 0x40)
  else if form = 12 ∧ slot ≠ 0 then .trap 0x01 (cmdField 1)
  else .pass

namespace CmdFields

/-- Is the field set one of a form? -/
def is (c : CmdFields) (l : List Nat) : Bool := l.contains c.form
/-- X: bytes per row (R260). -/
def x (c : CmdFields) : Nat := c.xlen + 1
/-- Y: rows (R260). -/
def y (c : CmdFields) : Nat := if c.is [2, 3] then c.cnt + 1 else 1
/-- Z: planes (R260). -/
def z (c : CmdFields) : Nat := if c.form = 3 then c.aux + 1 else 1
/-- Bytes of an element of a gather or scatter (R261). -/
def elem (c : CmdFields) : Nat := 2 ^ c.aux
/-- Elements of a gather or scatter (R261). -/
def n (c : CmdFields) : Nat := c.cnt + 1
/-- Region length of `carm` in lines (R266). -/
def regionLen (c : CmdFields) : Nat := c.aux * 2 ^ 24 + c.xlen + 1
/-- OUT of a collective step (R265). -/
def portOut (c : CmdFields) : Nat := field c.a1.toNat 0 4
/-- IN of a collective step (R265). -/
def portIn (c : CmdFields) : Nat := field c.a1.toNat 4 4
/-- Action of `carm` (R266). -/
def action (c : CmdFields) : Nat := field c.a1.toNat 0 3
/-- Argument of `carm`'s action (R266). -/
def arg (c : CmdFields) : Nat := field c.a1.toNat 16 16

/-- The least and the greatest corner of a strided side, from its base (R253). -/
def corners (base : Word) (y z x : Nat) (rowS planeS : Lane) : Int × Int :=
  let r := ((y : Int) - 1) * rowS.toInt
  let p := ((z : Int) - 1) * planeS.toInt
  ((base.toNat : Int) + min 0 r + min 0 p, (base.toNat : Int) + max 0 r + max 0 p + (x : Int) - 1)

/-- The source extent that is checked at issue: first and last byte; the indexed side has its base alone
(R253, R261). -/
def srcExtent (c : CmdFields) : Int × Int :=
  if c.is [1, 2, 3] then corners c.src c.y c.z c.x c.a1 c.a3
  else if c.form = 4 then ((c.src.toNat : Int), (c.src.toNat : Int))
  else if c.form = 5 then ((c.src.toNat : Int), (c.src.toNat : Int) + (c.n * c.elem : Nat) - 1)
  else ((c.src.toNat : Int), (c.src.toNat : Int) + (c.x : Int) - 1)

/-- The destination extent that is checked at issue. A `cscat` into a slot counts every element, whose indices are
known at issue; into a range its base alone (R254, R261; log 17). -/
def dstExtent (c : CmdFields) (idx : List Nat) : Int × Int :=
  let d : Int := (c.dst.toNat : Int)
  if c.is [1, 2, 3] then corners c.dst c.y c.z c.x c.a2 c.a4
  else if c.form = 4 then (d, d + (c.n * c.elem : Nat) - 1)
  else if c.form = 5 then
    if c.sl then
      (d + (idx.map (fun i => i * c.a2.toNat)).foldl min (idx.headD 0 * c.a2.toNat),
       d + (idx.map (fun i => i * c.a2.toNat)).foldl max 0 + c.elem - 1)
    else (d, d)
  else (d, d + (c.x : Int) - 1)

/-- The runs of a command in the order of its loops, with a base for its destination (R260 to R265). -/
def runs (c : CmdFields) (base : Int) (idx : List Nat) : List MoveRun :=
  let s : Int := (c.src.toNat : Int)
  if c.is [1, 2, 3] then
    (List.range c.z).flatMap (fun (p : Nat) => (List.range c.y).map (fun (r : Nat) =>
      { src := s + (p : Int) * c.a3.toInt + (r : Int) * c.a1.toInt, dst := base + (p : Int) * c.a4.toInt + (r : Int) * c.a2.toInt, len := c.x }))
  else if c.form = 4 then
    idx.zipIdx.map (fun e => { src := s + (e.1 * c.a2.toNat : Nat), dst := base + (e.2 * c.elem : Nat), len := c.elem })
  else if c.form = 5 then
    idx.zipIdx.map (fun e => { src := s + (e.2 * c.elem : Nat), dst := base + (e.1 * c.a2.toNat : Nat), len := c.elem })
  else [{ src := s, dst := base, len := c.x }]

end CmdFields

/-- The distinct sectors that the destination runs touch, ascending. -/
def runSectors (l : List MoveRun) : List Nat :=
  l.foldl (fun a r => if r.dst < 0 then a else (sectorsOf r.dst.toNat r.len).foldl setInsert a) []

/-- Sectors that a command reserves in a STAGED range (R255, R261). -/
def CmdFields.reserveOf (c : CmdFields) : Nat :=
  if c.form = 5 then c.n * ceilDiv c.elem 16 + c.n
  else (runSectors (c.runs (c.dst.toNat : Int) (List.replicate c.n 0))).length

/-- One side of a command: the scratchpad alias, or one range entry with its lowest and highest place. -/
inductive Side where
  | scratch
  | range (e : RangeEntry) (lo hi : Place)
  deriving DecidableEq, Repr

/-- An extent through one range entry, or the failing address (R253). -/
def State.extent (s : State) (p : Nat) (lo hi : Int) : Except Word Side :=
  let fail (a : Int) : Except Word Side := .error (BitVec.ofInt 64 a)
  if lo < 0 then fail lo
  else if (aliasBase : Int) ≤ lo then if hi < 2 ^ 64 then .ok .scratch else fail hi
  else match s.entryOf p lo.toNat with
    | none => fail lo
    | some e => if e.maps hi.toNat then .ok (.range e (s.placeOf p e lo.toNat) (s.placeOf p e hi.toNat)) else fail hi

/-- Is a place the weight-buffer window of a core? -/
def Place.weight : Place → Bool
  | .window _ off => decide (0x80000 ≤ off) && decide (off < 0x88000)
  | _ => false

/-- Does a place lie in the reserved part of a window? -/
def Place.reserved : Place → Bool
  | .window _ off => windowReserved off
  | _ => false

/-- Does a place lie in a window of a core that a partition does not own? -/
def State.foreign (s : State) (p : Nat) : Place → Bool
  | .window c _ => !s.owns p c
  | _ => false

/-- Home classes of a source by form (R260, R264, R265): peer only by `cfget`, device memory alone for a
collective step. -/
def srcHomeOk (form : Nat) (e : RangeEntry) : Bool :=
  if form = 9 then e.home == 2 || e.home == 3
  else if form = 10 ∨ form = 11 then e.dram
  else e.home != 3

/-- Home classes of a destination by form (R260, R263 to R265). A `cfget` lands locally in host and pooled memory too
(DESIGN CHOICE, log 107). -/
def dstHomeOk (form : Nat) (e : RangeEntry) : Bool :=
  if form = 8 then e.home == 2 || e.home == 3
  else if form = 7 ∨ form = 10 ∨ form = 11 then e.dram
  else e.home != 3

/-- Rows 7 and 8 of R253 on the source. -/
def State.srcCheck (s : State) (c : CmdFields) : Check :=
  let p := s.me.node.part
  let lo := BitVec.ofInt 64 c.srcExtent.1
  if c.form = 6 then .pass
  else match s.extent p c.srcExtent.1 c.srcExtent.2 with
    | .error a => .trap 0x06 a
    | .ok .scratch => Check.trapIf (c.is [9, 10, 11]) 0x07 lo
    | .ok (.range e a b) =>
      if a.reserved then .trap 0x06 lo
      else if b.reserved then .trap 0x06 (BitVec.ofInt 64 c.srcExtent.2)
      else Check.trapIf (!e.r || !srcHomeOk c.form e || s.foreign p a) 0x07 lo

/-- Row 9 of R253, by R254: a slot as LSLT stands, or a range. -/
def State.dstCheck (s : State) (c : CmdFields) (idx : List Nat) : Check :=
  let p := s.me.node.part
  let x := c.dstExtent idx
  let lo := BitVec.ofInt 64 x.1
  if c.sl then
    let w := (vget s.me.lslt c.slot 0).toNat
    Check.trapIf (c.is [7, 8, 10, 11] || !bitOf w 63 || decide (x.1 < 0) || decide ((16 * field w 19 16 : Nat) ≤ x.2)) 0x07 c.dst
  else if (aliasBase : Int) ≤ x.1 then .trap 0x07 lo
  else match s.extent p x.1 x.2 with
    | .error a => .trap 0x06 a
    | .ok .scratch => .trap 0x07 lo
    | .ok (.range e a b) =>
      if a.reserved then .trap 0x06 lo
      else if b.reserved then .trap 0x06 (BitVec.ofInt 64 x.2)
      else Check.trapIf (!e.w || !dstHomeOk c.form e || s.foreign p a || (e.win && !(a.weight && b.weight))) 0x07 lo

/-- Sectors that a command's destination reserves: none in a slot, a DIRECT range, or at a peer (R255, R264). -/
def State.reservation (s : State) (c : CmdFields) : Nat :=
  if c.sl ∨ c.form = 12 then 0
  else match s.entryOf s.me.node.part c.dst.toNat with
    | some e => if e.direct ∨ e.win ∨ e.home = 3 then 0 else c.reserveOf
    | none => 0

/-- Sectors that the issuing core's node has staged or reserved: a sector that an outstanding command has newly staged is
counted in its reservation alone, which stands until the command completes (R143, R255). -/
def State.stagingLoad (s : State) : Nat :=
  let nd := s.me.node
  let newly := s.engines.flatMap (fun e => (e.2.queue.filter (fun m => m.core == s.core)).flatMap (·.newly))
  (nd.stagedSectors.filter (fun x => !newly.contains x)).length + nd.reserved

/-- Row 11 of R253 (R255): 2 MiB are 131,072 sectors. -/
def State.reserveCheck (s : State) (c : CmdFields) : Check :=
  let r := s.reservation c
  Check.trapIf (r != 0 && decide (131072 < s.stagingLoad + r)) 0x0E c.dst

/-- Rows 4 and 5 of R253: ports and field values; without collective engines the port value is OUT's (DEDUCED, log 30). -/
def State.fieldCheck (s : State) (c : CmdFields) : Check :=
  if c.is [10, 11] then
    if Config.collectiveCount s.config.variant = 0 then .trap 0x02 (BitVec.ofNat 64 c.portOut)
    else
      let ports := Config.fabricPorts s.config.variant
      Check.all [Check.trapIf (decide (ports < c.portOut)) 0x02 (BitVec.ofNat 64 c.portOut),
        Check.trapIf (decide (ports < c.portIn)) 0x02 (BitVec.ofNat 64 c.portIn),
        Check.trapIf (c.portOut == 0 || c.portIn == 0 || c.portOut == c.portIn) 0x01 (cmdField 0x1C),
        Check.trapIf (c.form == 10 && decide (3 < c.aux)) 0x01 (cmdField 2)]
  else if c.is [4, 5] then Check.trapIf (decide (c.aux < 2) || decide (12 < c.aux)) 0x01 (cmdField 2)
  else Check.trapIf (c.form == 7 && decide (3 < c.aux)) 0x01 (cmdField 2)

/-- Element bytes of the formats of R263. -/
def addWidth (aux : Nat) : Nat := if aux = 0 ∨ aux = 3 then 4 else 2

/-- Row 6 of R253: the alignment that a form requires (R261, R263). TVAL is the misaligned value, also where it is the length, the
stride or the offset of the index list (DESIGN CHOICE, log 106). -/
def alignCheck (c : CmdFields) : Check :=
  if c.is [4, 5] then
    let g := min c.elem 16
    Check.all [misaligned c.src.toNat g, misaligned c.dst.toNat g, misaligned c.a2.toNat g, misaligned c.a1.toNat 4]
  else if c.form = 7 then
    let g := addWidth c.aux
    Check.all [misaligned c.src.toNat g, misaligned c.dst.toNat g, misaligned c.x g]
  else .pass

/-- A scratchpad span that is read at issue: inside the scratchpad, and free of poison, which rolls the node back
(log 18). -/
def State.spanCheck (s : State) (o n : Nat) : Check :=
  Check.all [passesEnd [(o, n)],
    match s.me.spPoison [(o, n)] with
    | some a => .poison 1 a
    | none => .pass]

/-- The index list of a gather or scatter (R261). -/
def State.indexCheck (s : State) (c : CmdFields) : Check :=
  if c.is [4, 5] then s.spanCheck c.a1.toNat (4 * c.n) else .pass

/-- The indices of a gather or scatter, read at issue (R261). -/
def State.indices (s : State) (c : CmdFields) : List Nat :=
  if c.is [4, 5] then (List.range c.n).map (fun i => s.me.window.readNat (c.a1.toNat + 4 * i) 4) else []

/-- Rows 4 to 9 and 11 of R253, for every form but `carm`. -/
def State.copyCheck (s : State) (c : CmdFields) : Check :=
  Check.all [s.fieldCheck c, alignCheck c, s.indexCheck c, s.srcCheck c, s.dstCheck c (s.indices c), s.reserveCheck c]

/-- The counter checks of R152 without the test of arming: TVAL is the counter (R253, R266). -/
def State.carmCounter (s : State) (n : Nat) : Check :=
  match s.counterCheck s.me.node.part n with
  | some e => .trap e (BitVec.ofNat 64 n)
  | none => .pass

/-- Does `carm` read its item from the scratchpad? A command of `csend` carries it (R245, R266). -/
def CmdFields.readsItem (c : CmdFields) (block : Bool) : Bool := block && c.action == 2

/-- The checks of R266 on the region: one range entry, of device memory. -/
def State.regionCheck (s : State) (c : CmdFields) : Check :=
  let p := s.me.node.part
  let lo : Int := (c.src.toNat : Int)
  match s.extent p lo (lo + (128 * c.regionLen : Nat) - 1) with
  | .error a => .trap 0x06 a
  | .ok .scratch => .trap 0x06 c.src
  | .ok (.range _ _ _) => .pass

/-- Is the region's home device memory (R266, R379)? -/
def State.regionHome (s : State) (c : CmdFields) : Check :=
  match s.entryOf s.me.node.part c.src.toNat with
  | some e => Check.trapIf (!e.dram) 0x07 c.src
  | none => .pass

/-- Does an ENQUEUE argument name a queue of the partition with items of at most 64 bytes (R266, R338)? -/
def State.enqueueOk (s : State) (n : Nat) : Bool :=
  match s.queue? s.me.node.part n with
  | some q => decide (q.size ≤ 64)
  | none => false

/-- The checks of R266 on `carm`, in their order; cause 0x0F has no stated TVAL (log 6). -/
def State.carmCheck (s : State) (c : CmdFields) (block : Bool) : Check :=
  let item := c.readsItem block
  Check.all [Check.trapIf (decide (4 < c.action)) 0x01 (cmdField 0x1C), Check.trapIf (c.dst == 0) 0x01 (cmdField 0x10),
    s.carmCounter c.cnt, Check.openIf (c.action == 4 && c.arg == c.cnt) 0x0F,
    misaligned c.src.toNat 128, if item then misaligned c.a2.toNat 16 else .pass,
    s.regionCheck c, if item then passesEnd [(c.a2.toNat, 64)] else .pass, s.regionHome c,
    Check.trapIf (c.action == 4 && (s.counterCheck s.me.node.part c.arg).isSome) 0x07 (BitVec.ofNat 64 c.arg),
    Check.trapIf (c.action == 2 && !s.enqueueOk c.arg) 0x07 (BitVec.ofNat 64 c.arg),
    if item then s.spanCheck c.a2.toNat 64 else .pass]

/-- The checks of R253 on a command that is filled (from row 4 on). -/
def State.cmdCheck (s : State) (c : CmdFields) (block : Bool) : Check :=
  if c.form = 12 then s.carmCheck c block else s.copyCheck c

/-- Commands of an engine that have not started: its queue (R250). -/
def State.queueLen (s : State) (e : Nat) : Nat :=
  ((s.engines.get e Engine.reset).queue.filter (fun m => m.state != .executing)).length

/-- The engine that a code names: 0 to 5, or 7, the one with the fewest entries, the lower number on a tie (R121). -/
def State.pickEngine (s : State) (code : BitVec 3) : Nat :=
  let b := 6 * (s.core / 40)
  if code = 7 then b + (List.range 6).foldl (fun best i => if s.queueLen (b + i) < s.queueLen (b + best) then i else best) 0
  else b + code.toNat

/-- Step 4 of R247: room in the chosen engine, and fewer than 64 C instructions issued and not retired. -/
def State.roomCheck (s : State) (code : BitVec 3) : Check :=
  if s.queueLen (s.pickEngine code) < 64 ∧ s.me.cout.length < 64 then .pass else .wait .queueFull

/-- The command of the issuing core's node, with what it reads at issue (R245, R246, R261, R266). -/
def State.makeCmd (s : State) (c : CmdFields) (block : Bool) : Cmd :=
  { core := s.core, id := s.me.node.nextOp, part := s.me.node.part, form := c.form,
    slot := if c.sl then some c.slot else none, aux := c.aux, wait := c.wait, sig := c.sig, cnt := c.cnt, src := c.src,
    dst := c.dst, len := c.xlen, a1 := c.a1, a2 := c.a2, a3 := c.a3, a4 := c.a4,
    item := if c.readsItem block then s.me.window.readBytes c.a2.toNat 64 else c.item, idx := s.indices c,
    reserve := s.reservation c, state := .queued, land := 0, grabbed := [], landed := [], newly := [], arrived := none, began := 0, accepted := false }

/-- An entry of a C instruction that has issued; the strand goes on (R247, R248). -/
def Core.enterC (k : Core) (t : Tok) (done fence last : Bool) (next : Word) : Core :=
  let e : COut := { id := k.node.nextOp, pc := (k.strand .C).pc, done := done, push := t.push, fence := fence, last := last }
  { k.updStrand .C (fun x => x.advance next) with cout := k.cout ++ [e], node := { k.node with nextOp := k.node.nextOp + 1 } }

/-- Completion marks: `cfence` and `nend` are complete when every earlier C instruction is (R248). -/
def coutMark : List COut → List COut
  | [] => []
  | e :: t => if e.done || e.fence then { e with done := true } :: coutMark t else e :: t

/-- May the oldest C instruction retire: complete, with room for its push, the strand's only one in the cycle (R66, R248,
R274)? -/
def Core.cHead (k : Core) : Bool :=
  match coutMark k.cout with
  | e :: _ => e.done && (e.push == 0 || (k.canPush (pushFifo .C e.push) && !k.pushedNow .C))
  | [] => false

/-- The oldest C instruction retires: counted, its push, and the strand's end after `nend` (R248, R270, R463). -/
def State.cRetireHead (s : State) (e : COut) : State :=
  (s.count s.me.node.part 5).updMe (fun k =>
    let k1 := { k with cout := k.cout.drop 1 }
    let k2 := if e.push = 0 then k1 else k1.pushInto (pushFifo .C e.push)
    k2.updStrand .C (fun t => { t with cond := if e.last then .ended else t.cond, since := s.cycle }))

/-- Retirement of complete C instructions in issue order, one push in a cycle; a full window holds that retirement
and every later one (R248, R274). -/
def State.cRetire (s : State) : Nat → State
  | 0 => s
  | fuel + 1 =>
    let s1 := s.updMe (fun k => { k with cout := coutMark k.cout })
    match s1.me.cout with
    | [] => s1
    | e :: _ =>
      if s1.me.cHead then if e.push = 0 then (s1.cRetireHead e).cRetire fuel else s1.cRetireHead e else s1

/-- Every retirement that is due. -/
def State.cSettle (s : State) : State := s.cRetire s.me.cout.length

/-- A `cfence` that is not complete holds every later C instruction back (R269). -/
def Core.cFenced (k : Core) : Bool := k.cout.any (fun e => e.fence && !e.done)

/-- The steps of a C instruction (R247): after its decode checks (R102), a fence holds it before its pop. -/
def issueC (i : Instr) (t : Tok) (dec chk : State → Check) (eff : State → State) (s : State) : State :=
  issue .C i t (fun b => Check.all [dec b, if b.me.cFenced then .wait .fence else .pass]) chk eff s

/-- A C instruction that completes at issue (R248, R271). -/
def issueParamC (i : Instr) (t : Tok) (chk : State → Check) (f : Core → Core) (next : Core → Word) (s : State) : State :=
  issueC i t noCheck chk (fun b =>
    let to_ := next b.me
    State.cSettle (b.updMe (fun k => (f k).enterC t true false false to_))) s

/-- The next word of the C strand. -/
def cNext (k : Core) : Word := k.pc4 .C

/-- The hand-off of a command to its engine (R247 step 5), with its staging reservation (R255). -/
def State.handOff (s : State) (t : Tok) (c : CmdFields) (block : Bool) (code : BitVec 3) : State :=
  let e := s.pickEngine code
  let m := s.makeCmd c block
  let g := s.engines.get e Engine.reset
  let s1 : State := { s with engines := s.engines.set e { g with queue := g.queue ++ [m] } }
  s1.updMe (fun k =>
    let k1 := k.enterC t false false false (k.pc4 .C)
    { k1 with node := { k1.node with reserved := k1.node.reserved + m.reserve } })

/-- A command of opcodes 0x01 to 0x0C (R246, R247). -/
def issueCmd (i : Instr) (t : Tok) (form : Nat) (qb slot : BitVec 4) (sl : BitVec 1) (eng : BitVec 3) (s : State) : State :=
  issueC i t
    (fun b => Check.trapIf ((form == 10 || form == 11) && Config.collectiveCount b.config.variant == 0) 0x02
      (BitVec.ofNat 64 (b.me.blockCmd form qb slot sl).portOut))
    (fun b => Check.all [b.cmdCheck (b.me.blockCmd form qb slot sl) true, b.roomCheck eng])
    (fun b => b.handOff t (b.me.blockCmd form qb slot sl) true eng) s

end Sys2Proof.Machine
end

