-- ==== Sys2Proof/Machine/Engine.lean ====
section
/-! DEFINITION. Copy engines: admission, start, what a command reads and writes, completion, and faults after issue
(R248 to R251, R256 to R265), with the collective engines (R265, R423). -/

namespace Sys2Proof.Machine

/-- Why an engine cannot go on: a fault of R256, an unreachable target (R422), or a link that changes its width
(R426). -/
inductive EngFail where
  | fault (cause : BitVec 8) (addr : Word)
  | lost (addr : Word)
  | held (gate : Gate)
  deriving DecidableEq, Repr

/-- The fields of a command (R245). -/
def Cmd.fields (c : Cmd) : CmdFields :=
  { form := c.form, slot := c.slot.getD 0, sl := c.slot.isSome, aux := c.aux, wait := c.wait, sig := c.sig, cnt := c.cnt,
    src := c.src, dst := c.dst, xlen := c.len, a1 := c.a1, a2 := c.a2, a3 := c.a3, a4 := c.a4, item := c.item }

/-- The base of a command's destination: virtual, or a scratchpad offset once a slot has admitted it (R70). -/
def Cmd.base (c : Cmd) : Int := ((if c.slot.isSome then c.land + c.dst.toNat else c.dst.toNat : Nat) : Int)

/-- A command's runs in loop order (R260). -/
def Cmd.runs (c : Cmd) : List MoveRun := c.fields.runs c.base c.idx

/-- Bytes that a command moves. -/
def Cmd.moves (c : Cmd) : Nat := if c.form = 12 then 0 else (c.runs.map (·.len)).sum

/-- Can traffic for a place leave now (R383, R417, R422, R426)? Ordered traffic takes the lowest port that is up, UIO
any; a page under migration holds it. -/
def State.reach (s : State) (uio : Bool) (a : Word) : Place → Option EngFail
  | .host _ =>
    let p := s.ports.get 0 Port.reset
    if !p.up then some (.lost a) else if p.chg then some (.held (.port 0 none)) else none
  | .pool pa | .peer pa =>
    let l := s.windowPorts (fabricWindow pa)
    let l1 := if uio then l else (s.portOf (fabricWindow pa)).toList
    if l = [] then some (.lost a)
    else if l1.all (fun n => (s.ports.get n Port.reset).chg) then some (.held (.port (l1.headD 0) (some (fabricWindow pa)))) else none
  | .dram pa =>
    if s.blocked pa then some (.held .page)
    else if s.hostHeld pa && (s.ports.get 0 Port.reset).chg then some (.held (.port 0 none)) else none
  | _ => none

/-- Is a form carried as UIO (R264, R422)? -/
def Cmd.uio (c : Cmd) : Bool := c.form == 8 || c.form == 9

/-- The failing address put into the reason for which an engine stops (R256, R444). -/
def EngFail.atAddr (a : Nat) : EngFail → EngFail
  | .fault cause _ => .fault cause (BitVec.ofNat 64 a)
  | .lost _ => .lost (BitVec.ofNat 64 a)
  | .held g => .held g

/-- The first byte, in loop order, of what a command reads or writes in a sector: the address of a gathered or scattered
element of at most 16 bytes (R261, R444). -/
def Cmd.firstIn (c : Cmd) (write : Bool) (sec : Nat) : Nat :=
  let starts := c.runs.filterMap (fun r =>
    let a := if write then r.dst else r.src
    if a < 16 * (sec : Int) + 16 ∧ 16 * (sec : Int) < a + r.len then some (max a.toNat (16 * sec)) else none)
  starts.headD (16 * sec)

/-- Does a write through an entry to a place wait for the node's commit, so that nothing leaves the module before (R258,
R264, R286)? -/
def RangeEntry.stages (e : RangeEntry) : Place → Bool
  | .host _ | .pool _ => !e.direct
  | .dram _ | .scratch _ | .window _ _ | .peer _ => false

/-- The entry and place behind a virtual address of a command's side, or why the engine stops there (R256, R422). -/
def State.engineLoc (s : State) (c : Cmd) (write : Bool) (a : Nat) : Except EngFail (RangeEntry × Place) :=
  let v := BitVec.ofNat 64 a
  if 2 ^ 64 ≤ a then .error (.fault 0x06 v)
  else if aliasBase ≤ a then .error (.fault 0x07 v)
  else match s.entryOf c.part a with
    | none => .error (.fault 0x06 v)
    | some e =>
      let q := s.placeOf c.part e a
      if q.reserved then .error (.fault 0x06 v)
      else if (if write then !e.w || !dstHomeOk c.form e || (e.win && !q.weight) else !e.r || !srcHomeOk c.form e)
          || s.foreign c.part q then .error (.fault 0x07 v)
      else if write && e.stages q then .ok (e, q)
      else match s.reach c.uio v q with
        | some f => .error f
        | none => .ok (e, q)

/-- Sixteen bytes at a place with their poison marks, as the node of a command sees them (R256, R258). -/
def State.markedBytes (s : State) (c : Cmd) (q : Place) : List (Byte × Bool) :=
  (List.range 16).map (fun i => (s.placeByte c.core q i, s.placePoison c.core q i))

/-- What an engine's read of a source sector asks for (R415, R417, R420, R422): the recall of a line that the host holds, an
ordered read of host or pooled memory, pooled memory unless the slice of the command's core holds the line, or a UIO read. -/
def State.askSource (s : State) (c : Cmd) : Place → State
  | .dram pa => s.recallBytes pa 16
  | .host pa => s.askHome pa 16
  | .pool pa | .peer pa =>
    if c.form = 9 then
      let w := fabricWindow pa
      s.send (.fabricRead ((s.uioPort w).getD 0) (s.pbridOf w) (pa % 2 ^ 40) 16)
    else if s.inL2 c.core (pa / 128) then s else s.askHome pa 16
  | .scratch _ | .window _ _ => s

/-- A source sector read in one step (R257), asked for first. -/
def State.srcSector (s : State) (c : Cmd) (sec : Nat) : Except EngFail (State × List (Byte × Bool)) :=
  if aliasBase ≤ 16 * sec ∧ 16 * sec < 2 ^ 64 ∧ srcAliasOk c.form then .ok (s, s.markedBytes c (.scratch (16 * sec - aliasBase)))
  else match s.engineLoc c false (16 * sec) with
    | .error f => .error (f.atAddr (c.firstIn false sec))
    | .ok l =>
      let s1 := s.askSource c l.2
      .ok (s1, s1.markedBytes c l.2)
where
  /-- May a form's source be the scratchpad alias (R253, R264, R265)? -/
  srcAliasOk (form : Nat) : Bool := !([9, 10, 11].contains form)

/-- Source sectors read, each once (R257). -/
def State.grabAll (s : State) (c : Cmd) : List Nat → Except EngFail (State × Cmd)
  | [] => .ok (s, c)
  | sec :: t =>
    match c.grabbed.find sec with
    | some _ => s.grabAll c t
    | none =>
      match s.srcSector c sec with
      | .error f => .error f
      | .ok (s1, b) => s1.grabAll { c with grabbed := c.grabbed.set sec b } t

/-- The run that a destination byte ends with: the last in loop order (R259), of runs in reverse order. -/
def coverOf (rev : List MoveRun) (a : Nat) : Option MoveRun :=
  rev.find? (fun r => decide (r.dst ≤ (a : Int)) && decide ((a : Int) < r.dst + r.len))

/-- The source address of a destination byte under a run. -/
def MoveRun.srcOf (r : MoveRun) (a : Nat) : Nat := (r.src + ((a : Int) - r.dst)).toNat

/-- Does a form read source sectors when its destination lands? A fill has none, a collective step its arrivals. -/
def Cmd.drawsSource (c : Cmd) : Bool := c.form != 6 && c.form != 10 && c.form != 11

/-- The source sectors that a destination sector draws on. -/
def Cmd.drawn (c : Cmd) (rev : List MoveRun) (sec : Nat) : List Nat :=
  if c.drawsSource then
    (List.range 16).foldl (fun l i => match coverOf rev (16 * sec + i) with
      | some r => setInsert l (r.srcOf (16 * sec + i) / 16)
      | none => l) []
  else []

/-- A new byte for a destination address, with its mark: the pattern (R262), the incoming chunk (R265), or the
source byte that was read. -/
def Cmd.fresh (c : Cmd) (r : MoveRun) (a : Nat) : Byte × Bool :=
  let k := ((a : Int) - r.dst).toNat
  if c.form = 6 then (BitVec.ofNat 8 (c.src.toNat / 2 ^ (8 * (k % 8))), false)
  else if c.form = 10 ∨ c.form = 11 then
    match c.arrived with
    | some m => (m.bytes.getD k 0, m.marks.contains k)
    | none => (0, false)
  else
    let x := r.srcOf a
    (c.grabbed.get (x / 16) []).getD (x % 16) (0, false)

/-- The sum of two elements of a format (R263). -/
def addElem (aux d v : Nat) : Nat :=
  match aux with
  | 0 => rf32 ((vf32 d).add (vf32 v))
  | 1 => Fmt.bf16.round .rne ((Fmt.bf16.decode d).add (Fmt.bf16.decode v))
  | 2 => Fmt.f16.round .rne ((Fmt.f16.decode d).add (Fmt.f16.decode v))
  | _ => (BitVec.ofInt 32 (clampInt (-(2 ^ 31)) (2 ^ 31 - 1) (signed d 32 + signed v 32))).toNat

/-- A destination byte of a command as its node sees it before the command's write, with its mark. -/
def State.oldByte (s : State) (c : Cmd) (a : Nat) : Byte × Bool :=
  match s.engineLoc c true a with
  | .ok l => (s.placeByte c.core l.2 0, s.placePoison c.core l.2 0)
  | .error _ => (0, false)

/-- The byte that a destination address takes: the fresh byte, or its share of an element's sum. An incoming chunk
of `crs` whose length is no multiple of its element ends in bytes that no rule gives: free values (log 6). -/
def State.landByte (s : State) (c : Cmd) (r : MoveRun) (a : Nat) : Byte × Bool :=
  if c.form = 7 ∨ c.form = 10 then
    let w := addWidth c.aux
    let k := ((a : Int) - r.dst).toNat
    if r.len < k / w * w + w then ((Config.freeValue s.free).setWidth 8, false)
    else
      let lo := a - k % w
      let old := (List.range w).map (fun i => s.oldByte c (lo + i))
      let new := (List.range w).map (fun i => c.fresh r (lo + i))
      let v := addElem c.aux (leNat (old.map (·.1))) (leNat (new.map (·.1)))
      (BitVec.ofNat 8 (v / 2 ^ (8 * (k % w))), (old ++ new).any (·.2))
  else c.fresh r a

/-- One destination sector written in one step (R257, R258): into the scratchpad, a weight window, the node's staged
bytes, or at its home, which a peer's is at once and no staging holds back (R264); a marked sector is poisoned (R256). -/
def State.engineWrite (s : State) (c : Cmd) (sec : Nat) (bytes : List (Option Byte)) (marked : Bool) : Except EngFail State :=
  let win (d off : Nat) (pin : Bool) : State :=
    (s.updCore d (fun k =>
      let k1 := k.writeWindow off bytes
      if marked then { k1 with winPoison := setInsert k1.winPoison (off / 16) } else k1)).updCore c.core (fun k =>
        { k with node := { k.node with pinned := k.node.pinned || pin } })
  let home (e : RangeEntry) (pa : Nat) : State :=
    if e.direct ∨ e.home = 3 then
      (s.sectorWrite c.part pa bytes marked c.uio).updCore c.core (fun k =>
        { k with node := { k.node with pinned := k.node.pinned || e.direct } })
    else s.updCore c.core (fun k =>
      let n := k.node.stageBytes pa bytes
      { k with node := if marked then { n with stagedPoison := setInsert n.stagedPoison (pa / 16) } else n })
  if c.slot.isSome then .ok (win c.core (16 * sec) false)
  else match s.engineLoc c true (16 * sec) with
    | .error f => .error (f.atAddr (c.firstIn true sec))
    | .ok (e, .window d off) => .ok (win d off e.direct)
    | .ok (_, .scratch _) => .error (.fault 0x07 (BitVec.ofNat 64 (16 * sec)))
    | .ok (e, .dram pa) | .ok (e, .host pa) | .ok (e, .pool pa) | .ok (e, .peer pa) => .ok (home e pa)

/-- The sector that a landing newly stages for a command with a reservation, if it does (R143, R255). -/
def State.newlyStaged (s : State) (c : Cmd) (sec : Nat) : List Nat :=
  if c.reserve = 0 then []
  else match s.engineLoc c true (16 * sec) with
    | .ok (_, .dram pa) | .ok (_, .host pa) | .ok (_, .pool pa) =>
      if (s.coreAt c.core).node.stagedSectors.contains (pa / 16) then [] else [pa / 16]
    | _ => []

/-- Lines of destination sectors that an add will read and the host holds are recalled, before any is read (R263, R265,
R420). -/
def State.recallAdds (s : State) (c : Cmd) (secs : List Nat) : State :=
  if c.form = 7 ∨ c.form = 10 then
    secs.foldl (fun a x => match a.engineLoc c true (16 * x) with
      | .ok l => a.recallPlace 16 l.2
      | .error _ => a) s
  else s

/-- One destination sector lands: its source sectors are read if they have not been, then it is written. Old values
are those of a state before the landings of the same step. -/
def State.landSector (s0 s : State) (c : Cmd) (rev : List MoveRun) (sec : Nat) : Except EngFail (State × Cmd) :=
  match s.grabAll c (c.drawn rev sec) with
  | .error f => .error f
  | .ok (s, c1) =>
    let cells := (List.range 16).map (fun i => (coverOf rev (16 * sec + i)).map (fun r => s0.landByte c1 r (16 * sec + i)))
    match s.engineWrite c1 sec (cells.map (fun x => x.map (·.1))) (cells.any (fun x => (x.map (·.2)).getD false)) with
    | .error f => .error f
    | .ok s1 => .ok (s1, { c1 with landed := setInsert c1.landed sec, newly := c1.newly ++ s.newlyStaged c1 sec })

/-- Sectors landed in order until one cannot be (R256: earlier ones remain). -/
def State.landAll (s0 : State) (rev : List MoveRun) : List Nat → State → Cmd → State × Cmd × Option EngFail
  | [], s, c => (s, c, none)
  | sec :: t, s, c =>
    match State.landSector s0 s c rev sec with
    | .error f => (s, c, some f)
    | .ok (s1, c1) => State.landAll s0 rev t s1 c1

/-- The command at a place of an engine. -/
def State.cmdAt (s : State) (eng idx : Nat) : Option Cmd := (s.engines.get eng Engine.reset).queue[idx]?

/-- That command replaced. -/
def State.setCmd (s : State) (eng idx : Nat) (c : Cmd) : State :=
  let g := s.engines.get eng Engine.reset
  { s with engines := s.engines.set eng { g with queue := g.queue.set idx c } }

/-- An engine fault fails the node with a record of kind ENGINE (R256, R444); an unreachable target rolls it back
(R422); a held command goes on later. -/
def State.engineStop (s : State) (c : Cmd) : EngFail → State
  | .fault cause a => s.failNode c.core { kind := 4, cause := cause.toNat, addr := a }
  | .lost a => s.rollbackNode c.core 0x20 0 0 a none
  | .held _ => s

/-- Does an entry of a queue belong to a command? -/
def Held.ofCmd (c : Cmd) : Held → Bool
  | .engine core id _ _ => core == c.core && id == c.id
  | _ => false

/-- An engine that stops on its way: held accesses join the queue of what holds them, once (R383, R426). -/
def State.enginePause (s : State) (c : Cmd) (reads lands : List Nat) (f : EngFail) : State :=
  match f with
  | .held g =>
    let waiting := s.migration.queue ++ s.ports.flatMap (fun e => e.2.ordq)
    if waiting.any (Held.ofCmd c) then s else s.join (.engine c.core c.id reads lands) g
  | f => s.engineStop c f

/-- Bytes that a command has written in some sectors count as moved by its engine (R465). -/
def State.addMoved (s : State) (eng : Nat) (c : Cmd) (secs : List Nat) : State :=
  let rev := c.runs
  let n := (secs.map (fun x => ((List.range 16).filter (fun i => (coverOf rev (16 * x + i)).isSome)).length)).sum
  let g := s.engines.get eng Engine.reset
  { s with engines := s.engines.set eng { g with moved := g.moved.set c.part ((g.moved.get c.part 0 + n) % 2 ^ 64) } }

/-- A trace record of a command (type 2 of R461), when EVMASK bit 0 asks for it. -/
def State.traceCopy (s : State) (c : Cmd) (reason bytes : Nat) : State :=
  let nd := (s.coreAt c.core).node
  if bitOf (s.part c.part).tel.evmask.toNat 0 then
    s.trace c.part 2 reason c.core nd.launch nd.stage 3 c.src.toNat bytes
  else s

/-- A command completes: it leaves its engine, its reservation ends, and its instruction is complete (R248, R255). -/
def State.finishCmd (s : State) (eng idx : Nat) (c : Cmd) : State :=
  let g := s.engines.get eng Engine.reset
  let g1 : Engine := { g with queue := g.queue.eraseIdx idx }
  let s1 := State.traceCopy { s with core := c.core, engines := s.engines.set eng g1 } c 1 c.moves
  State.cSettle (s1.updMe (fun k =>
    { k.updStrand .C (fun t => { t with since := s.cycle }) with
             cout := k.cout.map (fun e => if e.id = c.id then { e with done := true } else e),
             node := { k.node with reserved := k.node.reserved - c.reserve } }))

/-- `carm` at the counter's home (R266, R330): an overlap, or a full filter, is the fault 0x0F. -/
def State.armCmd (s : State) (eng idx : Nat) (c : Cmd) : State :=
  let f := c.fields
  match s.entryOf c.part c.src.toNat with
  | none => s.engineStop c (.fault 0x06 c.src)
  | some e =>
    let len := 128 * f.regionLen
    let lines := s.regionLines c.part e c.src.toNat len
    if s.regionFree c.cnt lines then
      (s.arm c.cnt c.part c.src.toNat len c.dst.toNat f.action f.arg c.item lines []).finishCmd eng idx c
    else s.engineStop c (.fault 0x0F 0)

/-- An executing command reads sources and lands destinations of the listed sectors (R257, R259). -/
def State.copyAdvance (s : State) (eng idx : Nat) (reads lands : List Nat) : State :=
  match s.cmdAt eng idx with
  | none => s
  | some c =>
    if c.state ≠ .executing ∨ 10 ≤ c.form then s
    else
      let runs := c.runs
      let srcs := if c.drawsSource then runs.foldl (fun l r => (sectorsOf r.src.toNat r.len).foldl setInsert l) [] else []
      match s.grabAll c (reads.filter (fun x => srcs.contains x)) with
      | .error f => s.enginePause c reads lands f
      | .ok (s, c1) =>
        let dsts := (runSectors runs).filter (fun x => !c1.landed.contains x)
        let todo := (lands.filter (fun x => dsts.contains x)).dedup
        let b := s.recallAdds c1 todo
        let r := State.landAll b runs.reverse todo b c1
        let done := (r.1.setCmd eng idx r.2.1).addMoved eng c (r.2.1.landed.filter (fun x => !c.landed.contains x))
        match r.2.2 with
        | none => done
        | some f => done.enginePause c [] (lands.filter (fun x => !r.2.1.landed.contains x)) f

/-- COPY_ADMISSION (R70): the oldest command of a core that waits for a slot is admitted for one permit; one that no
longer fits its slot fails the node (R256). Below the cap's floor no command is admitted (R453). -/
def execCopyAdmission (eng idx : Nat) (s : State) : Host.Outcome State Fault Refusal :=
  .next (match s.cmdAt eng idx with
  | none => s
  | some c =>
    match c.slot with
    | none => s
    | some sl =>
      let w := vget (s.coreAt c.core).lslt sl 0
      let g := s.engines.get eng Engine.reset
      let earlier := (g.queue.take idx).any (fun m => m.core == c.core && m.slot == c.slot && m.state == .queued)
      if s.belowFloor ∨ s.hot ∨ c.state ≠ .queued ∨ earlier ∨ !bitOf w.toNat 63 ∨ field w.toNat 35 16 = 0 then s
      else
        let x := c.fields.dstExtent c.idx
        if x.1 < 0 ∨ (16 * field w.toNat 19 16 : Nat) ≤ x.2 then s.engineStop c (.fault 0x07 c.dst)
        else
          (s.updCore c.core (fun k =>
            { k with lslt := vset k.lslt sl (putField w 35 16 (field w.toNat 35 16 - 1)) })).setCmd eng idx
              { c with state := .admitted, land := 16 * field w.toNat 4 15 })

/-- Every command in the engines. -/
def State.allCmds (s : State) : List Cmd := s.engines.flatMap (fun e => e.2.queue)

/-- Does a command wait on its groups (R251)? -/
def State.groupWait (s : State) (c : Cmd) : Bool :=
  s.allCmds.any (fun m => m.core == c.core && decide (m.id < c.id) && (m.sig &&& c.wait) != 0)

/-- Collective commands posted at a port (R423). -/
def State.postedAt (s : State) (port : Nat) : List Cmd :=
  s.allCmds.filter (fun m => (m.form == 10 || m.form == 11) && m.state == .executing && m.arrived.isNone && m.fields.portIn == port)

/-- Could a command start (R250, R251, R423)? Admitted where it lands in a slot, its groups complete, a posted-command
slot free, and the port of a collective step not changing its width. -/
def State.startable (s : State) (c : Cmd) : Bool :=
  (match c.state with
    | .queued => c.slot.isNone
    | .admitted => true
    | .executing => false) && !s.groupWait c &&
    (!(c.form == 10 || c.form == 11) || (decide ((s.postedAt c.fields.portIn).length < 32)
      && !((s.ports.get c.fields.portOut Port.reset).up && (s.ports.get c.fields.portOut Port.reset).chg)))

/-- Does an incoming chunk pair with a command: kind, length, and the format of a `crs` (R256)? -/
def Cmd.pairs (c : Cmd) (m : CollMsg) : Bool :=
  m.allGather == (c.form == 11) && m.bytes.length == c.len + 1 && (c.form == 11 || m.aux.toNat == c.aux)

/-- A chunk is paired with a command: taken in, or the fault 0x01 (R256, R265). -/
def State.pairChunk (s : State) (eng idx : Nat) (c : Cmd) (m : CollMsg) : State :=
  if c.pairs m then s.setCmd eng idx { c with arrived := some m } else s.engineStop c (.fault 0x01 0)

/-- A collective step starts (R265, R423): its send chunk is read and sent from OUT, it is posted at IN, and a chunk
held there is paired with it. -/
def State.startStep (s : State) (eng idx : Nat) (c : Cmd) : State :=
  let f := c.fields
  if !(s.ports.get f.portOut Port.reset).up then s.engineStop c (.lost 0)
  else match s.grabAll c (sectorsOf c.src.toNat f.x) with
    | .error e => s.engineStop c e
    | .ok (s, c1) =>
      let cells := (List.range f.x).map (fun i =>
        (c1.grabbed.get ((c.src.toNat + i) / 16) []).getD ((c.src.toNat + i) % 16) (0, false))
      let m : CollMsg := { tag := c.a2, allGather := c.form == 11, aux := BitVec.ofNat 8 c.aux, bytes := cells.map (·.1),
                           marks := (List.range f.x).filter (fun i => ((cells[i]?).map (·.2)).getD false) }
      let s1 := s.send (.collective f.portOut m)
      let v := s1.collectives.get f.portIn Collective.reset
      match v.buffer.findIdx? (fun h => h.tag == c.a2) with
      | none => s1.setCmd eng idx { c1 with state := .executing }
      | some i =>
        let s2 : State := { s1 with collectives := s1.collectives.set f.portIn { v with buffer := v.buffer.eraseIdx i } }
        match v.buffer[i]? with
        | some h => s2.pairChunk eng idx { c1 with state := .executing } h
        | none => s2

/-- A partition's weight at the copy engines (R250, R376). -/
def State.copyWeight (s : State) (p : Nat) : Nat :=
  match s.config.parts.find? (fun e => e.1 == p) with
  | some e => e.2.weight
  | none => 1

/-- Commands of partition p that an engine executes. -/
def Engine.running (g : Engine) (p : Nat) : Nat := (g.queue.filter (fun m => m.part == p && m.state == .executing)).length

/-- Partitions with a command that is ready to start at an engine: those that take part in its round (R250). -/
def State.readyParts (s : State) (g : Engine) : List Nat :=
  (g.queue.filter (fun m => s.startable m && decide (g.running m.part < 8))).foldl (fun l m => setInsert l m.part) []

/-- The round in which partition p may have its next start (R250): the one under way while its weight lasts, a new one once
no partition that is ready has a start left, none before (DESIGN CHOICE, log 84: the order within a round). -/
def State.roundFor (s : State) (g : Engine) (p : Nat) : Option (Table Nat) :=
  if g.round.get p 0 < s.copyWeight p then some g.round
  else if (s.readyParts g).all (fun q => decide (s.copyWeight q ≤ g.round.get q 0)) then some []
  else none

/-- COPY_START (R250, R251): partitions take turns in proportion to their weights; commands of one partition start in queue
order, at most eight at once, those that wait being passed over. -/
def execCopyStart (eng idx : Nat) (s : State) : Host.Outcome State Fault Refusal :=
  .next (match s.cmdAt eng idx with
  | none => s
  | some c =>
    let g := s.engines.get eng Engine.reset
    if s.belowFloor ∨ s.hot ∨ !s.startable c ∨ 8 ≤ g.running c.part ∨ (g.queue.take idx).any (fun m => m.part == c.part && s.startable m) then s
    else match s.roundFor g c.part with
      | none => s
      | some r =>
        let g1 : Engine := { g with round := r.set c.part (r.get c.part 0 + 1) }
        let s1 := State.traceCopy { s with engines := s.engines.set eng g1 } c 0 0
        let c1 : Cmd := { c with began := s.gtc }
        if c.form = 10 ∨ c.form = 11 then s1.startStep eng idx c1 else s1.setCmd eng idx { c1 with state := .executing })

/-- The successor accepts the send of an executing collective step, when its port can carry it (R265, R426). -/
def State.acceptSend (s : State) (eng idx : Nat) : State :=
  match s.cmdAt eng idx with
  | none => s
  | some c =>
    let p := s.ports.get c.fields.portOut Port.reset
    if (c.form = 10 ∨ c.form = 11) ∧ c.state = .executing ∧ p.up ∧ !p.chg then s.setCmd eng idx { c with accepted := true }
    else s

/-- What holds a landing of some destination sectors of a command, if anything does (R383, R426). -/
def State.landsHeld (s : State) (c : Cmd) (secs : List Nat) : Option EngFail :=
  secs.findSome? (fun x => match s.engineLoc c true (16 * x) with
    | .error (.held g) => some (.held g)
    | _ => none)

/-- A command completes (R248): every byte that has not landed lands, and the command completes. A collective step waits for its
incoming bytes and for its send to be accepted, and its adds are made in one step, each once (R265). -/
def State.copyComplete (s : State) (eng idx : Nat) : State :=
  match s.cmdAt eng idx with
  | none => s
  | some c =>
    if c.state ≠ .executing then s
    else if c.form = 12 then s.armCmd eng idx c
    else if (c.form = 10 ∨ c.form = 11) ∧ (c.arrived.isNone ∨ !c.accepted) then s
    else
      let runs := c.runs
      let left := (runSectors runs).filter (fun x => !c.landed.contains x)
      match (if c.form = 10 then s.landsHeld c left else none) with
      | some f => s.enginePause c [] left f
      | none =>
        let b := s.recallAdds c left
        let r := State.landAll b runs.reverse left b c
        let s1 := if c.form = 10 ∧ (c.len + 1) % addWidth c.aux ≠ 0 then r.1.useFree else r.1
        let s2 := (s1.setCmd eng idx r.2.1).addMoved eng c (r.2.1.landed.filter (fun x => !c.landed.contains x))
        match r.2.2 with
        | none => s2.finishCmd eng idx r.2.1
        | some f => s2.enginePause c [] (left.filter (fun x => !r.2.1.landed.contains x)) f

/-- COPY_COMPLETE (R248, R265). -/
def execCopyComplete (eng idx : Nat) (s : State) : Host.Outcome State Fault Refusal := .next (s.copyComplete eng idx)

/-- COLLECTIVE_ARRIVAL (R265, R423): the chunk is paired with the posted command of its tag, or held while the 2 MiB
buffer has room; else its credits are withheld and nothing happens. -/
def execCollectiveArrival (port : Nat) (msg : CollMsg) (s : State) : Host.Outcome State Fault Refusal :=
  .next (
    if port = 0 ∨ Config.collectiveCount s.config.variant < port ∨ !(s.ports.get port Port.reset).up then s
    else
      let hit := s.engines.findSome? (fun e => (e.2.queue.findIdx? (fun m =>
        (m.form == 10 || m.form == 11) && m.state == .executing && m.arrived.isNone && m.fields.portIn == port
          && m.a2 == msg.tag)).map (fun i => (e.1, i)))
      match hit with
      | some (e, i) =>
        match s.cmdAt e i with
        | some c => s.pairChunk e i c msg
        | none => s
      | none =>
        let v := s.collectives.get port Collective.reset
        if (v.buffer.map (fun h => h.bytes.length)).sum + msg.bytes.length ≤ 2 ^ 21 then
          { s with collectives := s.collectives.set port { buffer := v.buffer ++ [msg] } }
        else s)

/-- The first byte of each sector of a side that a command has still to read or to write, in the order of its loops. -/
def Cmd.pendingSide (c : Cmd) (write : Bool) : List Nat :=
  if write then
    if c.slot.isSome then []
    else c.runs.flatMap (fun r => ((sectorsOf r.dst.toNat r.len).filter (fun x => !c.landed.contains x)).map (fun x => max r.dst.toNat (16 * x)))
  else if !c.drawsSource then []
  else c.runs.flatMap (fun r => ((sectorsOf r.src.toNat r.len).filter (fun x => (c.grabbed.find x).isNone)).map (fun x => max r.src.toNat (16 * x)))

/-- The first address of an executing copy that is still to be answered from one of some home classes (R256, R422): what it
reads there, and what it writes there before its node's commit. A collective step that waits for its partner has no request
outstanding (R423, R428). -/
def State.outstanding (s : State) (c : Cmd) (homes : List Nat) : Option Word :=
  let asks (write : Bool) (a : Nat) : Bool := match s.entryOf c.part a with
    | some e => homes.contains e.home && !(write && e.stages (s.placeOf c.part e a))
    | none => false
  if c.state ≠ .executing ∨ 10 ≤ c.form then none
  else (((c.pendingSide false).find? (asks false)).orElse (fun _ => (c.pendingSide true).find? (asks true))).map (BitVec.ofNat 64)

/-- FABRIC_COMPLETION_TIMEOUT (R422): a command whose target has not answered within 50 µs rolls its node back. -/
def execFabricCompletionTimeout (eng idx : Nat) (s : State) : Host.Outcome State Fault Refusal :=
  .next (match s.cmdAt eng idx with
  | none => s
  | some c => match s.outstanding c [1, 2, 3] with
    | some a => if c.began + 50000 ≤ s.gtc then s.engineStop c (.lost a) else s
    | none => s)

/-- COMPLETER_ABORT (R256, R422): a pool device or a peer that refuses a request fails the node with cause 0x07. -/
def execCompleterAbort (eng idx : Nat) (s : State) : Host.Outcome State Fault Refusal :=
  .next (match s.cmdAt eng idx with
  | none => s
  | some c => match s.outstanding c [2, 3] with
    | some a => s.engineStop c (.fault 0x07 a)
    | none => s)

/-- Bytes of host, pool or peer memory change outside the device (R289, R300), their sectors with poison or, where all of a sector is
written, without (R435). -/
def State.outsideWrite (s : State) (pa : Nat) (bytes : List (Option Byte)) (poison : Bool) : State :=
  if 0x10000000000 ≤ pa then
    { s with mem := s.mem.writeMasked pa bytes, owners := s.owners.filter (fun e => !(linesOf pa bytes.length).contains e.1),
             poison := if poison then (sectorsMet pa bytes).foldl setInsert s.poison else clearMasked s.poison pa bytes }
  else s

end Sys2Proof.Machine
end

