-- ==== Sys2Proof/Machine/Matrix.lean ====
section
/-! DEFINITION. M instructions: weights and planes (R219 to R224), array products (R225 to R229), tiles and drains (R230
to R233), canvases and implicit products (R234 to R239), parameters and loops (R240, R241), and the effect of a queued
instruction (R212, R213). -/

namespace Sys2Proof.Machine

/-- What a queued instruction's effect gives: the state with TVAL of a recorded exception, or the state in which the
node has rolled back. -/
inductive MRes where
  | done (s : State) (post : Option Word)
  | lost (s : State)
  deriving DecidableEq, Repr

/-- Bytes of a stored plane (R219). -/
def mwldBytes : Nat → Nat
  | 0 => 8192
  | 1 => 8192
  | 5 => 1024
  | 10 => 2048
  | 12 => 5120
  | _ => 4096

/-- Is a storage code an MX code (R120)? -/
def mwldMx (code : Nat) : Bool := decide (6 ≤ code) && decide (code ≤ 11)

/-- The tag that a load gives the shadow plane (R219). -/
def mwldTag (code : Nat) : BitVec 4 :=
  match code with
  | 0 => 8
  | 1 => 9
  | 2 => 10
  | 3 => 11
  | 4 => 4
  | 5 => 12
  | _ => 8

/-- Element e of a stored plane in multiplier format (R219, R220): bytes and scale bytes by their offsets. -/
def mwldElem (code : Nat) (byte scale : Nat → Byte) (e : Nat) : Nat :=
  if code < 2 then (byte (2 * e)).toNat + 256 * (byte (2 * e + 1)).toNat
  else if code < 5 then (byte e).toNat
  else if code = 5 then field (byte (e / 4)).toNat (2 * (e % 4)) 2
  else if mwldMx code then mxDecode Fmt.bf16 (code - 6) (mxRaw (code - 6) e byte) (scale (e / 32)).toNat
  else
    let g := e / 4
    let m := (byte (0x1000 + g)).toNat
    let at_ (o : Nat) : Nat := (byte o).toNat + 256 * (byte (o + 1)).toNat
    if e % 4 = field m 0 2 then at_ (4 * g) else if e % 4 = field m 2 2 then at_ (4 * g + 2) else 0

/-- Is byte j of a stored plane one that poisons the load (R220, R221)? -/
def mwldBad (code j : Nat) (b : Byte) : Bool :=
  if code = 5 then t2Reserved b
  else if code = 8 ∨ code = 9 then decide (24 ≤ j % 32) && b != 0
  else if code = 12 then
    decide (0x1000 ≤ j) && (b.toNat / 16 != 0 || decide (field b.toNat 2 2 ≤ field b.toNat 0 2))
  else false

/-- The effect of `mwld` from window offset base, scale bytes at sc; slot s when the source is a slot (R219 to R221). Of several
faulting bytes PSNA keeps the first element byte, before any scale byte (DESIGN CHOICE, log 96). -/
def State.mwldEffect (s : State) (base sc code : Nat) (slot : Option Nat) : State :=
  let k := s.me
  let byte (j : Nat) : Byte := k.window.read (base + j)
  let scale (j : Nat) : Byte := k.window.read (sc + j)
  let n := mwldBytes code
  let bad := (List.range n).find? (fun j => k.winPoison.contains ((base + j) / 16) || mwldBad code j (byte j))
  let badScale := if mwldMx code then k.spPoison [(sc, 128)] else none
  let fill (p : Plane) (c : Core) : Core := { c with shadow := p }
  match bad, badScale with
  | some j, _ =>
    let a := match slot with
      | some _ => 0xF000000000 + s.core * 0x100000 + base + j
      | none => base + j
    let sp : BitVec 2 := if slot.isSome then 3 else 1
    let p : Plane := { vals := tab 64 (fun r => tab 64 (fun c => (Config.freeValue (s.free + 64 * r + c)).setWidth 16)), tag := 0xF }
    { s.updMe (fun c => (fill p c).notePoison .M sp a) with free := s.free + 4096 }
  | none, some a =>
    let p : Plane := { vals := tab 64 (fun r => tab 64 (fun c => (Config.freeValue (s.free + 64 * r + c)).setWidth 16)), tag := 0xF }
    { s.updMe (fun c => (fill p c).notePoison .M 1 a) with free := s.free + 4096 }
  | none, none =>
    let p : Plane := { vals := tab 64 (fun r => tab 64 (fun c => BitVec.ofNat 16 (mwldElem code byte scale (64 * r + c)))),
                       tag := mwldTag code }
    s.updMe (fun c => match slot with
      | some w => { fill p c with wtags := if code < 6 then vset c.wtags w (mwldTag code) else c.wtags }
      | none => fill p c)

/-- Bytes that a load moves, scale bytes included (R219, R447). -/
def mwldMoved (code : Nat) : Nat := mwldBytes code + (if mwldMx code then 128 else 0)

/-- The check of the scale bytes (R221 step 4). -/
def Core.mwldScale (k : Core) (code : Nat) (pb : BitVec 4) : Check :=
  if mwldMx code then passesEnd [(spOff (k.getP pb), 128)] else .pass

/-- Is a slot's tag the format of a plain code (R219, R221)? -/
def plainTag (tag : BitVec 4) : Bool := (List.range 6).any (fun c => mwldTag c == tag)

/-- `mwld` from a slot (R219, R221): a slot that holds the format of another plain code is read in the format that the load
names (DEDUCED, log 34). -/
def execMwldSlot (t : Tok) (slot : BitVec 2) (code pb : BitVec 4) (s : State) : Host.Outcome State Fault Refusal :=
  let i : Instr := .mwldSlot t slot code pb
  .next (issueM i t .weight
    (fun b =>
      let tag := vget b.me.wtags slot.toNat 0
      let c := code.toNat
      Check.all [Check.trapIf (tag == 0xF) 0x05 (mTag 3 tag),
        Check.trapIf (tag != 0 && (decide (6 ≤ c) || !plainTag tag)) 0x04 (mTag 3 tag),
        b.powerCheck (moveCost (mwldMoved c)), b.me.mwldScale c pb])
    (fun b => b.enterM i t .weight [0, b.me.getP pb] (moveCost (mwldMoved code.toNat))) s)

/-- `mwld` from the scratchpad (R219, R221). -/
def execMwldScratchpad (t : Tok) (pa code pb : BitVec 4) (s : State) : Host.Outcome State Fault Refusal :=
  let i : Instr := .mwldScratchpad t pa code pb
  .next (issueM i t .weight
    (fun b =>
      let o := spOff (b.me.getP pa)
      let c := code.toNat
      Check.all [b.powerCheck (moveCost (mwldMoved c)), misaligned o 16, passesEnd [(o, mwldBytes c)],
        b.me.mwldScale c pb])
    (fun b => b.enterM i t .weight [b.me.getP pa, b.me.getP pb] (moveCost (mwldMoved code.toNat))) s)

/-- `mslot` (R222). -/
def execMslot (t : Tok) (slot : BitVec 2) (pa : BitVec 4) (s : State) : Host.Outcome State Fault Refusal :=
  let i : Instr := .mslot t slot pa
  .next (issueM i t .weight
    (fun b =>
      let o := spOff (b.me.getP pa)
      Check.all [b.powerCheck (moveCost 8192), misaligned o 16, passesEnd [(o, 8192)]])
    (fun b => b.enterM i t .weight [b.me.getP pa] (moveCost 8192)) s)

/-- The effect of `mslot` (R222): the slot is tagged RAW, and poison marks travel with their sectors (R435). -/
def State.mslotEffect (s : State) (o slot : Nat) : State :=
  s.updMe (fun k =>
    let dst := 0x80000 + slot * 0x2000
    let marks := (List.range 512).filter (fun j => k.winPoison.contains (o / 16 + j))
    let k1 := k.writeWindow dst ((k.window.readBytes o 8192).map some)
    { k1 with winPoison := marks.foldl (fun l j => setInsert l (dst / 16 + j)) k1.winPoison })

/-- `mswp` (R223): it enters the weight path; PLANE_SWAP exchanges the planes. -/
def execMswp (t : Tok) (s : State) : Host.Outcome State Fault Refusal :=
  .next (issueM (.mswp t) t .weight noCheck (fun b => b.enterM (.mswp t) t .weight [] 0) s)

/-- `mband` (R224). -/
def execMband (t : Tok) (bands : BitVec 4) (s : State) : Host.Outcome State Fault Refusal :=
  .next (issueParam (.mband t bands) t noCheck (fun k => { k with bands := bands }) mNext s)

/-- How a product takes its operands (R225): forward, transposed, or by columns. -/
inductive MmForm where
  | forward | backward | weight
  deriving DecidableEq, Repr

/-- Width in bytes of a streamed element (R225). -/
def mmWidth (fmt : Nat) : Nat := if fmt < 2 then 2 else 1

/-- The tag of a streamed format (R225). -/
def mmTag (fmt : Nat) : Nat := if fmt = 0 then 8 else if fmt = 1 then 9 else if fmt = 2 then 10 else if fmt = 3 then 11 else 4

/-- Plane tags that a streamed format agrees with (R225). -/
def mmPlanes (fmt : Nat) : List Nat := if fmt = 0 then [8] else if fmt = 1 then [9] else if fmt = 4 then [4, 12] else [10, 11]

/-- The tile kind of a streamed format. -/
def mmKind (fmt : Nat) : BitVec 4 := if fmt = 4 then 1 else 7

/-- The offset of streamed element k of row i (R225). -/
def mmAddr (form : MmForm) (pa st w i k : Nat) : Nat :=
  match form with
  | .weight => pa + k * st + i * w
  | _ => pa + i * st + k * w

/-- The spans that a product reads, in streaming order. -/
def mmSpans (form : MmForm) (bands : BitVec 4) (pa st w n : Nat) : List (Nat × Nat) :=
  (List.range n).flatMap (fun i => (bandKs bands).map (fun k => (mmAddr form pa st w i k, w)))

/-- The stationary operand of position k and column j (R225). -/
def mmSide {α : Type} (form : MmForm) (p : Nat → Nat → α) (k j : Nat) : α :=
  match form with
  | .backward => p j k
  | _ => p k j

/-- The issue checks of a product (R227). -/
def State.mmCheck (s : State) (form : MmForm) (tile : BitVec 3) (pa pb : BitVec 4) (fmt : Nat) : Check :=
  let k := s.me
  let o := spOff (k.getP pa)
  let sh := k.getP pb
  let w := mmWidth fmt
  Check.all [k.tileClean tile, k.liveClean, k.liveTag (mmPlanes fmt), k.tileKind tile (mmKind fmt), k.bandCheck,
    s.powerCheck (rowsOf sh * bandCount k.bands * rowCost (if fmt = 4 then k.live.tag.toNat else mmTag fmt)),
    alignRows (if form = .weight then w else 16) o (strideOf sh),
    passesEnd (mmSpans form k.bands o (strideOf sh) w (rowsOf sh))]

/-- A product instruction (R225 to R228). -/
def issueMm (i : Instr) (t : Tok) (form : MmForm) (tile : BitVec 3) (pa pb : BitVec 4) (fmt : BitVec 3) (s : State) : State :=
  issueM i t .array (fun b => b.mmCheck form tile pa pb fmt.toNat)
    (fun b =>
      let k := b.me
      let f := fmt.toNat
      b.enterM i t .array [k.getP pa, k.getP pb]
        (rowsOf (k.getP pb) * bandCount k.bands * rowCost (if f = 4 then k.live.tag.toNat else mmTag f))) s

/-- The effect of a product (R225, R226, R227). -/
def State.mmEffect (s : State) (form : MmForm) (tile : BitVec 3) (fmt : Nat) (e : MEntry) : State :=
  let k := s.me
  let o := spOff e.r0
  let st := strideOf e.r1
  let n := rowsOf e.r1
  let w := mmWidth fmt
  match k.spPoison (mmSpans form e.bands o st w n) with
  | some a => s.poisonTile tile n 1 a
  | none =>
    let ks := bandKs e.bands
    let raw (i k' : Nat) : Nat := k.window.readNat (mmAddr form o st w i k') w
    let tile' :=
      if fmt = 4 then
        let xs := tab n (fun i => tab 64 (fun q => if ks.contains q then signed (raw i q) 8 else 0))
        (k.getTile tile).update 1 n (fun i j old =>
          satAdd old (colSumI ks (fun q => vget (vget xs i (tab 64 (fun _ => 0))) q 0)
            (fun q => mmSide form k.live.i q j)))
      else
        let xs := tab n (fun i => tab 64 (fun q => if ks.contains q then tagValue (mmTag fmt) (raw i q) else FVal.zero))
        (k.getTile tile).update 7 n (fun i j old =>
          accAdd old (colSum ks (fun q => vget (vget xs i (tab 64 (fun _ => FVal.zero))) q FVal.zero)
            (fun q => mmSide form k.live.f q j)))
    s.updMe (fun c => c.setTile tile tile')

/-- `mmf` (R225). -/
def execMmf (t : Tok) (tile : BitVec 3) (pa pb : BitVec 4) (fmt : BitVec 3) (s : State) :
    Host.Outcome State Fault Refusal :=
  .next (issueMm (.mmf t tile pa pb fmt) t .forward tile pa pb fmt s)

/-- `mmb` (R225). -/
def execMmb (t : Tok) (tile : BitVec 3) (pa pb : BitVec 4) (fmt : BitVec 3) (s : State) :
    Host.Outcome State Fault Refusal :=
  .next (issueMm (.mmb t tile pa pb fmt) t .backward tile pa pb fmt s)

/-- `mmw` (R225). -/
def execMmw (t : Tok) (tile : BitVec 3) (pa pb : BitVec 4) (fmt : BitVec 3) (s : State) :
    Host.Outcome State Fault Refusal :=
  .next (issueMm (.mmw t tile pa pb fmt) t .weight tile pa pb fmt s)

/-- The tile kind of a constant product by the plane's tag (R229). -/
def constKind (tag : Nat) : BitVec 4 := if tag = 4 ∨ tag = 12 then 1 else 7

/-- Is E[i][k] one (R229)? The index byte serves `perm`. -/
def constOne (kind : Nat) (shift : Int) (index i k : Nat) : Bool :=
  match kind with
  | 0 => k == i
  | 1 => k == index % 64
  | 2 => (k : Int) == i + shift
  | _ => true

/-- The issue checks of `mconst` (R229). -/
def State.constCheck (s : State) (tile : BitVec 3) (pa pb : BitVec 4) (kind : Nat) : Check :=
  let k := s.me
  Check.all [k.tileClean tile, k.liveClean, k.liveTag [4, 8, 9, 10, 11, 12],
    k.tileKind tile (constKind k.live.tag.toNat), k.bandCheck,
    s.powerCheck (rowsOf (k.getP pb) * bandCount k.bands * rowCost k.live.tag.toNat),
    if kind = 1 then passesEnd [(spOff (k.getP pa), 64)] else .pass]

/-- `mconst` and `mconst.b` (R229). -/
def issueConst (i : Instr) (t : Tok) (tile : BitVec 3) (pa pb : BitVec 4) (kind : BitVec 3) (s : State) : State :=
  issueM i t .array (fun b => b.constCheck tile pa pb kind.toNat)
    (fun b => b.enterM i t .array [b.me.getP pa, b.me.getP pb]
      (rowsOf (b.me.getP pb) * bandCount b.me.bands * rowCost b.me.live.tag.toNat)) s

/-- The effect of a constant product (R229): a poisoned index byte tags the tile POISON. -/
def State.constEffect (s : State) (form : MmForm) (tile : BitVec 3) (kind : Nat) (e : MEntry) : State :=
  let k := s.me
  let o := spOff e.r0
  let n := rowsOf e.r1
  match (if kind = 1 then k.spPoison [(o, n)] else none) with
  | some a => s.poisonTile tile n 1 a
  | none =>
    let ks (i : Nat) : List Nat :=
      (bandKs e.bands).filter (constOne kind (shiftOf e.r1) (if kind = 1 then (k.window.read (o + i)).toNat else 0) i)
    let tile' :=
      if constKind k.live.tag.toNat = 1 then
        (k.getTile tile).update 1 n (fun i j old => satAdd old ((ks i).map (fun q => mmSide form k.live.i q j)).sum)
      else
        (k.getTile tile).update 7 n (fun i j old =>
          accAdd old ((ks i).foldl (fun a q => rf32 ((mmSide form k.live.f q j).add (vf32 a))) 0))
    s.updMe (fun c => c.setTile tile tile')

/-- `mconst` (R229). -/
def execMconst (t : Tok) (tile : BitVec 3) (pa pb : BitVec 4) (kind : BitVec 3) (s : State) :
    Host.Outcome State Fault Refusal :=
  .next (issueConst (.mconst t tile pa pb kind) t tile pa pb kind s)

/-- `mconst.b` (R229). -/
def execMconstB (t : Tok) (tile : BitVec 3) (pa pb : BitVec 4) (kind : BitVec 3) (s : State) :
    Host.Outcome State Fault Refusal :=
  .next (issueConst (.mconstB t tile pa pb kind) t tile pa pb kind s)

/-- `mzero` (R230): no trap but power. -/
def execMzero (t : Tok) (tile : BitVec 3) (s : State) : Host.Outcome State Fault Refusal :=
  .next (issueM (.mzero t tile) t .array (fun b => b.powerCheck (moveCost 16384))
    (fun b => b.enterM (.mzero t tile) t .array [] (moveCost 16384)) s)

/-- The spans of n rows of w bytes. -/
def rowSpans (pa st n w : Nat) : List (Nat × Nat) := (List.range n).map (fun i => (pa + i * st, w))

/-- The issue checks of `macc` and `madr` (R231, R232). -/
def State.rowsCheck (s : State) (tile : BitVec 3) (pa pb : BitVec 4) (w : Nat) : Check :=
  let k := s.me
  let o := spOff (k.getP pa)
  let sh := k.getP pb
  Check.all [k.tileClean tile, s.powerCheck (moveCost (rowsOf sh * w)), alignRows 16 o (strideOf sh),
    passesEnd (rowSpans o (strideOf sh) (rowsOf sh) w)]

/-- `macc` (R231). -/
def execMacc (t : Tok) (tile : BitVec 3) (pa pb : BitVec 4) (s : State) : Host.Outcome State Fault Refusal :=
  let i : Instr := .macc t tile pa pb
  .next (issueM i t .array (fun b => b.rowsCheck tile pa pb 256)
    (fun b => b.enterM i t .array [b.me.getP pa, b.me.getP pb] (moveCost (rowsOf (b.me.getP pb) * 256))) s)

/-- The effect of `macc` (R231). -/
def State.maccEffect (s : State) (tile : BitVec 3) (e : MEntry) : State :=
  let k := s.me
  let o := spOff e.r0
  let st := strideOf e.r1
  let n := rowsOf e.r1
  match k.spPoison (rowSpans o st n 256) with
  | some a => s.poisonTile tile n 1 a
  | none =>
    let x := k.getTile tile
    let w (i j : Nat) : Nat := k.window.readNat (o + i * st + 4 * j) 4
    s.updMe (fun c => c.setTile tile (x.update x.tag n (fun i j old =>
      if x.tag = 1 then satAdd old (signed (w i j) 32) else accAdd old (w i j))))

/-- Bytes of a drained element (R232). -/
def drainWidth (code : Nat) : Nat := if code = 0 ∨ code = 5 then 4 else if code = 1 ∨ code = 2 then 2 else 1

/-- The float format of a drain code (R120). -/
def drainFmt : Nat → Option Fmt
  | 0 => some Fmt.f32
  | 1 => some Fmt.bf16
  | 2 => some Fmt.f16
  | 3 => some Fmt.e4m3
  | 4 => some Fmt.e5m2
  | _ => none

/-- A drained word (R232). -/
def drainWord (int : Bool) (code : Nat) (mode : Rnd) (w : Lane) : Nat :=
  if int then
    match drainFmt code with
    | some f => f.round mode (FVal.ofInt w.toInt)
    | none => if code = 5 then w.toNat else wrapInt 8 (clampInt (-128) 127 w.toInt)
  else
    match drainFmt code with
    | some f => if code = 0 then w.toNat else f.round mode (vf32 w.toNat)
    | none =>
      if code = 5 then wrapInt 32 ((vf32 w.toNat).toRange mode (-(2 ^ 31)) (2 ^ 31 - 1))
      else wrapInt 8 ((vf32 w.toNat).toRange mode (-128) 127)

/-- `madr` in one of its roundings (R232): a stochastic drain reserves its counter range at issue (R31). -/
def issueMadr (i : Instr) (t : Tok) (tile : BitVec 3) (pa pb code : BitVec 4) (sr : Bool) (s : State) : State :=
  let w := 64 * drainWidth code.toNat
  issueM i t .array (fun b => b.rowsCheck tile pa pb w)
    (fun b =>
      let n := rowsOf (b.me.getP pb)
      (b.enterM i t .array [b.me.getP pa, b.me.getP pb] (moveCost (n * w))).updMe (fun k =>
        if sr then { k with srseed := putField k.srseed 0 32 ((field k.srseed.toNat 0 32 + 64 * n) % 2 ^ 32) } else k)) s

/-- `madr` (R232). -/
def execMadr (t : Tok) (tile : BitVec 3) (pa pb code : BitVec 4) (s : State) : Host.Outcome State Fault Refusal :=
  .next (issueMadr (.madr t tile pa pb code) t tile pa pb code false s)

/-- `madr.rz` (R232). -/
def execMadrRz (t : Tok) (tile : BitVec 3) (pa pb code : BitVec 4) (s : State) : Host.Outcome State Fault Refusal :=
  .next (issueMadr (.madrRz t tile pa pb code) t tile pa pb code false s)

/-- `madr.sr` (R232). -/
def execMadrSr (t : Tok) (tile : BitVec 3) (pa pb code : BitVec 4) (s : State) : Host.Outcome State Fault Refusal :=
  .next (issueMadr (.madrSr t tile pa pb code) t tile pa pb code true s)

/-- The node of a queued M instruction rolls back (R422). -/
def State.mBack (s : State) (e : MEntry) (addr : Nat) : State :=
  s.rollbackNode s.core 0x20 2 e.pc (BitVec.ofNat 64 addr) none

/-- The node of a queued M instruction rolls back for a checksum that disagrees or for poison (R232, R233, R238), which Newt
counts (R466). -/
def State.mLost (s : State) (e : MEntry) (addr : Nat) : State := (s.tallyCore s.core).mBack e addr

/-- The effect of a drain (R232): a checksum that disagrees writes nothing and rolls the node back. -/
def State.madrEffect (s : State) (tile : BitVec 3) (code : Nat) (mode : Nat → Rnd) (e : MEntry) : MRes :=
  let x := s.me.getTile tile
  let n := rowsOf e.r1
  if !x.sumsOk n then .lost (s.mLost e 0)
  else
    .done (s.updMe (fun k => (List.range n).foldl (fun c i =>
      c.writeSp (spOff e.r0 + i * strideOf e.r1)
        ((List.range 64).flatMap (fun j =>
          (leBytes (drainWidth code) (drainWord (x.tag == 1) code (mode (64 * i + j)) (x.word i j))).map some))) k)) none

/-- `mchk` (R233). -/
def execMchk (t : Tok) (tile : BitVec 3) (s : State) : Host.Outcome State Fault Refusal :=
  .next (issueM (.mchk t tile) t .array
    (fun b => Check.all [b.me.tileClean tile, b.powerCheck (moveCost 16384)])
    (fun b => b.enterM (.mchk t tile) t .array [] (moveCost 16384)) s)

/-- Handle h replaced (R51). -/
def Core.setH (k : Core) (h : BitVec 2) (x : Handle) : Core := { k with handles := vset k.handles h.toNat x }

/-- The issue checks of `mbind` (R235), with the poison of its record (R435). -/
def State.mbindCheck (s : State) (pa : BitVec 4) : Check :=
  let k := s.me
  let o := spOff (k.getP pa)
  Check.all [misaligned o 16, passesEnd [(o, 128)], s.powerCheck (moveCost 128),
    match k.spPoison [(o, 128)] with
    | some a => .poison 1 a
    | none => s.bindCheck s.core (k.recordAt o)]

/-- The stroke words that an `mbind` is about to read: none where it does not come so far (R235). -/
def State.mbindReads (s : State) (i : Instr) (t : Tok) (pa : BitVec 4) : List Nat :=
  let k := s.me
  let o := spOff (k.getP pa)
  let r := k.recordAt o
  let passed : Bool := match Check.all [k.mWait i .array, misaligned o 16, passesEnd [(o, 128)], s.powerCheck (moveCost 128),
      match canvasBad r with
      | some n => .trap 0x0C (BitVec.ofNat 64 n)
      | none => s.wordCheck s.core (strokeAddrs r)] with
    | .pass => true
    | _ => false
  if (k.fetchBrk .M).isNone && (s.popTok .M t).isSome && passed then strokeAddrs r else []

/-- A trace record of an array instruction of R213 (type 3 of R461): its start (0) or its completion (1), when EVMASK bit 1 asks
for it. -/
def State.traceOp (s : State) (pc : Word) (i : Instr) (reason : Nat) : State :=
  let nd := s.me.node
  if bitOf (s.part nd.part).tel.evmask.toNat 1 then
    s.trace nd.part 3 reason s.core nd.launch nd.stage 2 pc.toNat (encode i).toNat
  else s

/-- `mbind` (R234, R235): the handle takes the record and the decoded strokes, and the instruction retires in its
place. -/
def execMbind (t : Tok) (hnd : BitVec 2) (pa : BitVec 4) (s : State) : Host.Outcome State Fault Refusal :=
  let i : Instr := .mbind t hnd pa
  let reads := s.mbindReads i t pa
  .next (if s.wordsWait s.core reads then s.stall .M .queueFull
    else match s.wordsLost s.core reads with
      | some a => s.hostLost .M a
      | none =>
        issueM i t .array (fun b => b.mbindCheck pa)
          (fun b =>
            let h := b.bindRecord b.core (b.me.recordAt (spOff (b.me.getP pa)))
            let pc := (b.me.strand .M).pc
            let b1 := ((b.traceOp pc i 0).enterM i t .order [] (moveCost 128)).updMe (fun k => k.setH hnd h)
            b1.traceOp pc i 1) (s.recallWords s.core reads))

/-- The handle must be bound (R51): operand 4 and the handle's number. -/
def Core.boundCheck (k : Core) (h : BitVec 2) : Check :=
  Check.trapIf (!(k.getH h).bound) 0x04 (BitVec.ofNat 64 (4 * 256 + h.toNat))

/-- The charge of `mimm` (R447). -/
def Core.mimmCost (k : Core) (h : BitVec 2) (rows cols : Lane) : Nat :=
  cntOf rows * bandCount k.bands * rowCost k.live.tag.toNat + ceilDiv (cntOf rows * cntOf cols * (k.getH h).lmax) 2

/-- The issue checks of `mimm` (R237). -/
def State.mimmCheck (s : State) (tile : BitVec 3) (h : BitVec 2) (pa pb : BitVec 4) (part : Nat) : Check :=
  let k := s.me
  Check.all [k.boundCheck h, k.tileClean tile, k.liveClean, k.liveTag (if part = 0 then [8, 9, 10, 11] else [8]),
    k.tileKind tile 7, k.bandCheck, s.powerCheck (k.mimmCost h (k.getP pa) (k.getP pb)),
    s.pointCheck s.core (k.getH h) (k.getP pa) (k.getP pb)]

/-- `mimm` under a part (R237). -/
def issueMimm (i : Instr) (t : Tok) (tile : BitVec 3) (h : BitVec 2) (pa pb : BitVec 4) (part : Nat) (s : State) : State :=
  issueM i t .array (fun b => b.mimmCheck tile h pa pb part)
    (fun b => b.enterM i t .array [b.me.getP pa, b.me.getP pb] (b.me.mimmCost h (b.me.getP pa) (b.me.getP pb))) s

/-- PART of an entry for a plane of a format (R36, R237). -/
def entryPart (f : Fmt) (part v : Nat) : FVal :=
  if part = 0 then f.decode (f.round .rne (vf32 v))
  else
    let r := split3 (vf32 v)
    Fmt.bf16.decode (if part = 1 then r.1 else if part = 2 then r.2.1 else r.2.2)

/-- Exceptional entries noted in row-major order, under policy TRAP alone (R239). -/
def noteRows (r : List Byte) (org : Nat × Nat) (rows : List (Nat × List (Nat × Nat × Option Nat))) : ExcLog :=
  if cvExc r ≠ 2 then ExcLog.empty
  else rows.foldl (fun l e => e.2.foldl (fun a x => a.note x.2.2 (org.1 + e.1) (org.2 + x.1)) l) ExcLog.empty

/-- TVAL of the trap that follows, when an entry was exceptional. -/
def ExcLog.post (l : ExcLog) : Option Word := if l.count = 0 then none else some l.tval

/-- Entries of an implicit instruction: by row offset, its column offsets with value after the policy and class. -/
def entryRows (h : Handle) (pt : Points) (rows cols : Lane) (plane : Option Fmt) (ks : List Nat) :
    List (Nat × List (Nat × Nat × Option Nat)) :=
  let r := h.record
  let ri := originIn (orgOf rows) (cntOf rows) (cvNrows r)
  let ck := (originIn (orgOf cols) (cntOf cols) (cvNcols r)).filter (fun k => ks.contains k)
  ri.map (fun i => (i, ck.map (fun k =>
    let v := entryOf h (pt.ctx h rows cols i k)
    let c := entryClass v.1 v.2 plane
    (k, entryPolicy r v.1 c, c))))

/-- The effect of `mimm` (R237): a poisoned point tags the tile POISON. -/
def State.mimmEffect (s : State) (tile : BitVec 3) (hnd : BitVec 2) (part : Nat) (e : MEntry) : MRes :=
  let k := s.me
  let h := k.getH hnd
  let n := cntOf e.r0
  match s.firstWordPoison s.core (h.pointsRead e.r0 e.r1 (bandKs e.bands)) with
  | some (sp, a) => .done (s.poisonTile tile n sp a) none
  | none =>
    let f := (tagFmt k.live.tag.toNat).getD Fmt.bf16
    let pt := s.readPoints s.core h e.r0 e.r1
    let rows := entryRows h pt e.r0 e.r1 (if part = 0 then some f else none) (bandKs e.bands)
    let xs := tab n (fun i => ((rows.find? (fun x => x.1 == i)).map (·.2)).getD [] |>.map (fun x => (x.1, entryPart f part x.2.1)))
    let x := (k.getTile tile).update 7 n (fun i j old =>
      accAdd old ((vget xs i []).foldl (fun a q => rf32 ((q.2.mul (k.live.f q.1 j)).add (vf32 a))) 0))
    .done (s.updMe (fun c => c.setTile tile x)) (noteRows h.record (orgOf e.r0, orgOf e.r1) rows).post

/-- `mimm` (R237). -/
def execMimm (t : Tok) (tile : BitVec 3) (hnd : BitVec 2) (pa pb : BitVec 4) (s : State) :
    Host.Outcome State Fault Refusal :=
  .next (issueMimm (.mimm t tile hnd pa pb) t tile hnd pa pb 0 s)

/-- `mimm.hi` (R237). -/
def execMimmHi (t : Tok) (tile : BitVec 3) (hnd : BitVec 2) (pa pb : BitVec 4) (s : State) :
    Host.Outcome State Fault Refusal :=
  .next (issueMimm (.mimmHi t tile hnd pa pb) t tile hnd pa pb 1 s)

/-- `mimm.mid` (R237). -/
def execMimmMid (t : Tok) (tile : BitVec 3) (hnd : BitVec 2) (pa pb : BitVec 4) (s : State) :
    Host.Outcome State Fault Refusal :=
  .next (issueMimm (.mimmMid t tile hnd pa pb) t tile hnd pa pb 2 s)

/-- `mimm.lo` (R237). -/
def execMimmLo (t : Tok) (tile : BitVec 3) (hnd : BitVec 2) (pa pb : BitVec 4) (s : State) :
    Host.Outcome State Fault Refusal :=
  .next (issueMimm (.mimmLo t tile hnd pa pb) t tile hnd pa pb 3 s)

/-- The spans of `mimv` (R238): right-hand sides of nc words and results of nr words. -/
def mimvSpans (src dst : Nat) (rows cols : Lane) (nrhs : Nat) : List (Nat × Nat) :=
  (List.range nrhs).map (fun r => (src + 256 * r, 4 * cntOf cols))
    ++ (List.range nrhs).map (fun r => (dst + 256 * r, 4 * cntOf rows))

/-- The issue checks of `mimv` (R238). -/
def State.mimvCheck (s : State) (hnd : BitVec 2) (pa pb pc : BitVec 4) (nrhs : Nat) : Check :=
  let k := s.me
  let h := k.getH hnd
  let src := spOff (k.getP pa)
  let dst := spOff (k.getP pb)
  let rows := k.getP pc
  let cols := k.getP (pc + 1)
  Check.all [k.boundCheck hnd, s.powerCheck (ceilDiv (cntOf rows * cntOf cols * (h.lmax + nrhs)) 2),
    misaligned src 16, misaligned dst 16, passesEnd (mimvSpans src dst rows cols nrhs),
    s.pointCheck s.core h rows cols]

/-- `mimv` (R238). -/
def execMimv (t : Tok) (hnd : BitVec 2) (pa pb pc : BitVec 4) (nrhs1 : BitVec 2) (s : State) :
    Host.Outcome State Fault Refusal :=
  let i : Instr := .mimv t hnd pa pb pc nrhs1
  let n := nrhs1.toNat + 1
  .next (issueM i t .array (fun b => b.mimvCheck hnd pa pb pc n)
    (fun b =>
      let k := b.me
      b.enterM i t .array [k.getP pa, k.getP pb, k.getP pc, k.getP (pc + 1)]
        (ceilDiv (cntOf (k.getP pc) * cntOf (k.getP (pc + 1)) * ((k.getH hnd).lmax + n)) 2)) s)

/-- The effect of `mimv` (R238): every right-hand-side word is read first; poison writes nothing and rolls the node
back. -/
def State.mimvEffect (s : State) (hnd : BitVec 2) (nrhs : Nat) (e : MEntry) : MRes :=
  let k := s.me
  let h := k.getH hnd
  let src := spOff e.r0
  let dst := spOff e.r1
  let rhs := (List.range nrhs).map (fun r => (src + 256 * r, 4 * cntOf e.r3))
  match k.spPoison rhs, s.firstWordPoison s.core (h.pointsRead e.r2 e.r3 (List.range 64)) with
  | some a, _ => .lost ((s.updMe (fun c => c.notePoison .M 1 a)).mLost e a)
  | none, some (sp, a) => .lost ((s.updMe (fun c => c.notePoison .M sp a)).mLost e a)
  | none, none =>
    let pt := s.readPoints s.core h e.r2 e.r3
    let rows := entryRows h pt e.r2 e.r3 none (List.range 64)
    let x (r q : Nat) : Nat := k.window.readNat (src + 256 * r + 4 * q) 4
    let y (r : Nat) (l : List (Nat × Nat × Option Nat)) : Nat :=
      l.foldl (fun a q => rf32 (((vf32 q.2.1).mul (vf32 (x r q.1))).add (vf32 a))) 0
    let words := (List.range nrhs).flatMap (fun r => rows.map (fun w => (dst + 256 * r + 4 * w.1, y r w.2)))
    .done (s.updMe (fun c => words.foldl (fun b w => b.writeSp w.1 ((leBytes 4 w.2).map some)) c))
      (noteRows h.record (orgOf e.r2, orgOf e.r3) rows).post

/-- `mli` (R240). -/
def execMli (t : Tok) (pd : BitVec 4) (imm : BitVec 16) (s : State) : Host.Outcome State Fault Refusal :=
  .next (issueParam (.mli t pd imm) t noCheck (fun k => k.setP pd (imm.signExtend 32)) mNext s)

/-- `mlih` (R240). -/
def execMlih (t : Tok) (pd : BitVec 4) (imm : BitVec 16) (s : State) : Host.Outcome State Fault Refusal :=
  .next (issueParam (.mlih t pd imm) t noCheck (fun k => k.setP pd (imm ++ (k.getP pd).setWidth 16)) mNext s)

/-- `maddi` (R240). -/
def execMaddi (t : Tok) (pd pa : BitVec 4) (imm : BitVec 14) (s : State) : Host.Outcome State Fault Refusal :=
  .next (issueParam (.maddi t pd pa imm) t noCheck (fun k => k.setP pd (k.getP pa + imm.signExtend 32)) mNext s)

/-- `madd` (R240). -/
def execMadd (t : Tok) (pd pa pb : BitVec 4) (s : State) : Host.Outcome State Fault Refusal :=
  .next (issueParam (.madd t pd pa pb) t noCheck (fun k => k.setP pd (k.getP pa + k.getP pb)) mNext s)

/-- `mmuli` (R240). -/
def execMmuli (t : Tok) (pd pa : BitVec 4) (imm : BitVec 14) (s : State) : Host.Outcome State Fault Refusal :=
  .next (issueParam (.mmuli t pd pa imm) t noCheck (fun k => k.setP pd (k.getP pa * imm.signExtend 32)) mNext s)

/-- The scratchpad offset of `mlds` (R240). -/
def Core.mldsAddr (k : Core) (pa : BitVec 4) (imm : BitVec 14) : Nat := (k.getP pa + 4 * imm.signExtend 32).toNat

/-- `mlds` (R240): misalignment, range, poison; then the word. -/
def execMlds (t : Tok) (pd pa : BitVec 4) (imm : BitVec 14) (s : State) : Host.Outcome State Fault Refusal :=
  .next (issueParam (.mlds t pd pa imm) t
    (fun b =>
      let a := b.me.mldsAddr pa imm
      Check.all [misaligned a 4, passesEnd [(a, 4)],
        if b.me.winPoison.contains (a / 16) then .poison 1 a else .pass])
    (fun k => k.setP pd (BitVec.ofNat 32 (k.window.readNat (k.mldsAddr pa imm) 4))) mNext s)

/-- `mloop` (R240). -/
def execMloop (t : Tok) (pa : BitVec 4) (off : BitVec 18) (s : State) : Host.Outcome State Fault Refusal :=
  .next (issueParam (.mloop t pa off) t noCheck (fun k => k.setP pa (k.getP pa - 1))
    (fun k => if k.getP pa - 1 ≠ 0 then (k.strand .M).pc + 4 * off.signExtend 64 else mNext k) s)

/-- `nend` of the M strand (R241): it waits until every earlier M instruction has retired. -/
def execNendM (t : Tok) (s : State) : Host.Outcome State Fault Refusal :=
  .next (issue .M (.nendM t) t noCheck (fun b => if b.me.mq = [] then .pass else .wait .fence)
    (fun b => (b.retireNext .M t).updMe (fun k => k.endStrand .M)) s)

/-- The effect of a queued M instruction with the values captured at its issue (R212, R213). -/
def State.mEffect (s : State) (e : MEntry) : MRes :=
  let sr (i : Nat) : Rnd := .sr (srBits e.seed i)
  match e.instr with
  | .mwldSlot _ w code _ => .done (s.mwldEffect (0x80000 + w.toNat * 0x2000) (spOff e.r1) code.toNat (some w.toNat)) none
  | .mwldScratchpad _ _ code _ => .done (s.mwldEffect (spOff e.r0) (spOff e.r1) code.toNat none) none
  | .mswp _ => .done (s.updMe (fun k => { k with live := k.shadow, shadow := k.live })) none
  | .mslot _ w _ => .done (s.mslotEffect (spOff e.r0) w.toNat) none
  | .mmf _ t _ _ f => .done (s.mmEffect .forward t f.toNat e) none
  | .mmb _ t _ _ f => .done (s.mmEffect .backward t f.toNat e) none
  | .mmw _ t _ _ f => .done (s.mmEffect .weight t f.toNat e) none
  | .mconst _ t _ _ kd => .done (s.constEffect .forward t kd.toNat e) none
  | .mconstB _ t _ _ kd => .done (s.constEffect .backward t kd.toNat e) none
  | .mzero _ t => .done (s.updMe (fun k => k.setTile t Tile.zero)) none
  | .macc _ t _ _ => .done (s.maccEffect t e) none
  | .madr _ t _ _ c => s.madrEffect t c.toNat (fun _ => .rne) e
  | .madrRz _ t _ _ c => s.madrEffect t c.toNat (fun _ => .rtz) e
  | .madrSr _ t _ _ c => s.madrEffect t c.toNat sr e
  | .mchk _ t => if (s.me.getTile t).sumsOk 64 then .done s none else .lost (s.mLost e 0)
  | .mimm _ t h _ _ => s.mimmEffect t h 0 e
  | .mimmHi _ t h _ _ => s.mimmEffect t h 1 e
  | .mimmMid _ t h _ _ => s.mimmEffect t h 2 e
  | .mimmLo _ t h _ _ => s.mimmEffect t h 3 e
  | .mimv _ h _ _ _ n => s.mimvEffect h (n.toNat + 1) e
  | _ => .done s none

/-- A trace record of an array instruction in the array queue: its start or its completion. -/
def State.traceArray (s : State) (e : MEntry) (reason : Nat) : State :=
  if e.path = .array then s.traceOp e.pc e.instr reason else s

/-- The words of coherent memory that a queued M instruction reads at its effect (R236, R290). -/
def Core.mWords (k : Core) (e : MEntry) : List Nat :=
  match e.instr with
  | .mimm _ _ h _ _ | .mimmHi _ _ h _ _ | .mimmMid _ _ h _ _ | .mimmLo _ _ h _ _ =>
    (k.getH h).pointsRead e.r0 e.r1 (bandKs e.bands)
  | .mimv _ h _ _ _ _ => (k.getH h).pointsRead e.r2 e.r3 (List.range 64)
  | _ => []

/-- The entry at an index takes effect, once no page and no port holds its reads back (R383, R426); the node rolls back
where no link reaches them any more (R422); what may retire retires (R212 step 5, R274). Until now it was in flight, so M's
stall counts from here (R275). -/
def State.mRun (s : State) (n : Nat) : State :=
  match s.me.mq[n]? with
  | none => s
  | some e =>
    let reads := s.me.mWords e
    if s.wordsWait s.core reads then s
    else match s.wordsLost s.core reads with
      | some a => s.mBack e a
      | none =>
        match ((s.recallWords s.core reads).traceArray e 0).mEffect e with
        | .lost s1 => s1
        | .done s1 post =>
          let s2 := (s1.traceArray e 1).updMe (fun k =>
            { k.updStrand .M (fun x => { x with since := s.cycle }) with
              mq := k.mq.modify n (fun x => { x with path := .order, post := post }) })
          s2.mRetire s2.me.mq.length

/-- Is the instruction at an index `mswp`? -/
def Core.isSwap (k : Core) (n : Nat) : Bool :=
  match k.mq[n]? with
  | some e => match e.instr with
    | .mswp _ => true
    | _ => false
  | none => false

/-- M_PATH_RETIRE (R212, R213): entries at the head that have taken effect retire; else the oldest entry that has not
takes effect, if it waits in the path. -/
def execMPathRetire (core : Nat) (weight : Bool) (s : State) : Host.Outcome State Fault Refusal :=
  let b : State := { s with core := core }
  .next (if b.me.mHead then b.mRetire b.me.mq.length
    else match b.me.mPick (if weight then .weight else .array) with
      | some n => if b.me.isSwap n then b else b.mRun n
      | none => b)

/-- PLANE_SWAP (R223): the planes exchange once every earlier reader of the live plane and every earlier fill of the
shadow plane is done. -/
def execPlaneSwap (core : Nat) (s : State) : Host.Outcome State Fault Refusal :=
  let b : State := { s with core := core }
  .next (match b.me.mPick .weight with
    | some n => if b.me.isSwap n then b.mRun n else b
    | none => b)

end Sys2Proof.Machine
end

