-- ==== Sys2Proof/Machine/NodeEvents.lean ====
section
/-! DEFINITION. Events of a running node: held pushes (R274), token deadlock (R275, R276), trap entry and the
handler's start (R281), memory answers (R132), end and commit (R285, R286), rollback and scrubbing (R434, R437 to R439). -/

namespace Sys2Proof.Machine

/-- A held push of an S, V or M strand takes place, also while the strand is frozen and the handler runs (R274); a strand
whose `nend` held it ends. -/
def State.releasePush (s : State) (st : Strand) : State :=
  match (s.me.issued st).cond with
  | .pushHold n _ last =>
    if s.me.canPush n then
      s.updMe (fun k => (k.pushInto n).updIssued st (fun t =>
        { t with cond := if last then .ended else .ready, since := s.cycle }))
    else s
  | _ => s

/-- HELD_PUSH (R248, R274): the push of a retired instruction, and for M and C what may then retire. -/
def execHeldPush (core : Nat) (st : Strand) (s : State) : Host.Outcome State Fault Refusal :=
  let b : State := { s with core := core }
  .next (match st with
    | .C => b.cSettle
    | .M => let b1 := b.releasePush .M; b1.mRetire b1.me.mq.length
    | _ => b.releasePush st)

/-- Commands of core c, oldest first. -/
def State.cmdsOf (s : State) (c : Nat) : List Cmd :=
  (s.allCmds.filter (fun m => m.core == c)).insertionSort (fun a b => a.id ≤ b.id)

/-- Does a copy wait at its engine for a landing-slot permit (R70)? -/
def State.permitWait (s : State) (m : Cmd) : Bool :=
  match m.slot with
  | some sl =>
    let w := (vget (s.coreAt m.core).lslt sl 0).toNat
    m.state == .queued && (!bitOf w 63 || field w 35 16 == 0)
  | none => false

/-- Commands, oldest first, that wait for a permit or whose groups name one that does (R275); groups are followed
through commands that wait in the same way (DEDUCED, log 19). -/
def State.permitBound (s : State) (l : List Cmd) : List Cmd :=
  l.foldl (fun acc m =>
    if s.permitWait m || (m.state != .executing && acc.any (fun e => (e.sig &&& m.wait) != 0)) then acc ++ [m] else acc) []

/-- Is the C strand of the issuing core blocked on permits (R275)? -/
def State.cPermitBlocked (s : State) : Bool :=
  let k := s.me
  let l := s.cmdsOf s.core
  let open_ := k.cout.filter (fun e => !e.done)
  let bound := s.permitBound l
  open_ != [] && open_.all (fun e => e.last || bound.any (fun m => m.id == e.id)) && bound.length == l.length &&
    match (k.strand .C).cond with
    | .ending => true
    | .queueFull => decide (64 ≤ k.cout.length) ||
        (List.range 6).any (fun i =>
          let q := (s.engines.get (6 * (s.core / 40) + i) Engine.reset).queue
          decide (64 ≤ q.length) && q.all (fun m => m.core == s.core))
    | _ => false

/-- The FIFO at which the retirement of the oldest C instruction is held, once `nend` has issued (R248; log 19). -/
def Core.cHeld (k : Core) : Option (Nat × Word) :=
  match coutMark k.cout with
  | e :: _ =>
    if e.done && e.push != 0 && !k.cHead && (k.strand .C).cond == .ending then some (pushFifo .C e.push, e.pc) else none
  | [] => none

/-- How a strand stands for token deadlock (R275, R276): its field of TVAL, and the PC of its stalled instruction;
nothing when its condition prevents the declaration, a token that has come or room that has appeared included. -/
def State.stuck (s : State) (st : Strand) : Option (Nat × Word) :=
  let t := s.me.strand st
  match t.cond with
  | .popStall n => if s.me.tokens n = 0 then some (n, t.pc) else none
  | .pushHold n pc _ => if s.me.tokens n < s.me.windowOf n then none else some (16 + n, pc)
  | .ended => some (31, t.pc - 4)
  | .ending => match s.me.cHeld with
    | some (n, pc) => some (16 + n, pc)
    | none => if s.cPermitBlocked then some (31, t.pc - 4) else none
  | .queueFull => if st = .C ∧ s.cPermitBlocked then some (15, t.pc) else none
  | _ => none

/-- No engine operation of the issuing core's node is in flight, but for copies that are permit-bound (R275). -/
def State.noneInFlight (s : State) : Bool :=
  let nd := s.me.node
  let l := s.cmdsOf s.core
  (s.permitBound l).length == l.length && s.prefetches.all (fun f => f.core != some s.core) && nd.solving.isNone
    && s.me.mq.all (fun e => e.path == .order)

/-- TOKEN_DEADLOCK (R275, R276): after 1,024 cycles in which every strand has stood, cause 0x09 on the first strand
that has not ended, or on S. -/
def execTokenDeadlock (core : Nat) (s : State) : Host.Outcome State Fault Refusal :=
  let b : State := { s with core := core }
  let all : List Strand := [.S, .V, .M, .C]
  .next (
    if b.me.node.phase ≠ .running ∨ b.me.node.ending.isSome ∨ !b.noneInFlight ∨ !all.all (fun st => (b.stuck st).isSome && decide ((b.me.strand st).since + 1024 ≤ b.cycle))
    then b
    else
      let f (st : Strand) : Nat := ((b.stuck st).map (·.1)).getD 31
      let tval := f .S + f .V * 32 + f .M * 1024 + f .C * 32768
      let st := (all.find? (fun x => f x != 31)).getD .S
      b.takeTrap st { cause := 0x09, tval := BitVec.ofNat 64 tval, tepc := ((b.stuck st).map (·.2)).getD 0 })

/-- TRAP_ENTRY (R60, R239, R281): a pending trap is taken at its strand's boundary; after another strand's trap, a
strand at a boundary freezes. -/
def execTrapEntry (core : Nat) (st : Strand) (s : State) : Host.Outcome State Fault Refusal :=
  let b : State := { s with core := core }
  .next (if (b.me.strand st).frozen then b
    else match b.me.node.phase with
      | .running => b.raisePending st
      | .trapEntry => b.freeze st
      | _ => b)

/-- HANDLER_START (R281 step 5). -/
def execHandlerStart (core : Nat) (s : State) : Host.Outcome State Fault Refusal :=
  .next (State.startHandler { s with core := core })

/-- PALETTE_CHECK_END (R207): PALnV is set when 256 entries are finite and strictly ascending. -/
def execPaletteCheckEnd (core : Nat) (s : State) : Host.Outcome State Fault Refusal :=
  .next (s.updCore core (fun k => { k with pals := vmap k.pals (fun p =>
    if p.checking then { p with checking := false, valid := paletteOk p.entries } else p) }))

/-- The effect of a waiting access or request when memory or its unit answers (R132, R142 to R150, R155 to R157, R161,
R200). -/
def State.memEffect (s : State) (i : Instr) : State :=
  let k := s.me
  let amo (t : Tok) (xd xa xb : BitVec 5) (scope : BitVec 2) (wide : BitVec 1) (f : AmoFn) : State :=
    s.amoEffect t xd xb scope (k.getX xa).toNat (amoBytes wide) f
  match i with
  | .ldB t xd xa imm => s.loadEffect t xd (k.memAddr xa imm).toNat 1 (sext 1)
  | .ldH t xd xa imm => s.loadEffect t xd (k.memAddr xa imm).toNat 2 (sext 2)
  | .ldW t xd xa imm => s.loadEffect t xd (k.memAddr xa imm).toNat 4 (sext 4)
  | .ldD t xd xa imm => s.loadEffect t xd (k.memAddr xa imm).toNat 8 zext
  | .ldBU t xd xa imm => s.loadEffect t xd (k.memAddr xa imm).toNat 1 zext
  | .ldHU t xd xa imm => s.loadEffect t xd (k.memAddr xa imm).toNat 2 zext
  | .ldWU t xd xa imm => s.loadEffect t xd (k.memAddr xa imm).toNat 4 zext
  | .ldlu t xd xa imm => s.ldluEffect t xd (k.memAddr xa imm).toNat
  | .stB t xs xa imm => s.storeEffect t xs (k.memAddr xa imm).toNat 1
  | .stH t xs xa imm => s.storeEffect t xs (k.memAddr xa imm).toNat 2
  | .stW t xs xa imm => s.storeEffect t xs (k.memAddr xa imm).toNat 4
  | .stD t xs xa imm => s.storeEffect t xs (k.memAddr xa imm).toNat 8
  | .amoSwap t xd xa xb sc w => amo t xd xa xb sc w amoSwapF
  | .amoAdd t xd xa xb sc w => amo t xd xa xb sc w amoAddF
  | .amoAnd t xd xa xb sc w => amo t xd xa xb sc w amoAndF
  | .amoOr t xd xa xb sc w => amo t xd xa xb sc w amoOrF
  | .amoXor t xd xa xb sc w => amo t xd xa xb sc w amoXorF
  | .amoMin t xd xa xb sc w => amo t xd xa xb sc w amoMinF
  | .amoMax t xd xa xb sc w => amo t xd xa xb sc w amoMaxF
  | .amoCas t xd xa xb sc w => amo t xd xa xb sc w amoCasF
  | .bar t xa xb => s.barEffect t xa xb
  | .vldm t vd va tag ws mask ls => s.vldmEffect t vd va tag ws mask ls
  | .vstm t va vb mask ls => s.vstmEffect t va vb mask ls
  | .wopen t xd xa => s.wopenAnswer t xd (k.getX xa)
  | .wnext t xd xa => s.wnextEffect t xd (k.getX xa)
  | .solve t xd xa => s.solveAnswer t xd (k.getX xa)
  | .pref t xa imm => s.prefEffect t xa imm
  | _ => s

/-- The virtual addresses that a memory instruction of the issuing core accesses, one for each lane of a vector. -/
def Core.memAddrs (k : Core) : Instr → List Nat
  | .ldB _ _ xa imm | .ldH _ _ xa imm | .ldW _ _ xa imm | .ldD _ _ xa imm | .ldBU _ _ xa imm | .ldHU _ _ xa imm
  | .ldWU _ _ xa imm | .ldlu _ _ xa imm | .stB _ _ xa imm | .stH _ _ xa imm | .stW _ _ xa imm | .stD _ _ xa imm =>
    [(k.memAddr xa imm).toNat]
  | .amoSwap _ _ xa _ _ _ | .amoAdd _ _ xa _ _ _ | .amoAnd _ _ xa _ _ _ | .amoOr _ _ xa _ _ _ | .amoXor _ _ xa _ _ _
  | .amoMin _ _ xa _ _ _ | .amoMax _ _ xa _ _ _ | .amoCas _ _ xa _ _ _ | .bar _ xa _ => [(k.getX xa).toNat]
  | .vldm _ _ va _ _ mask ls => (lanesOn (k.getK mask)).map (laneVirt (k.va1 va ls).virt)
  | .vstm _ va _ mask ls => (lanesOn (k.getK mask)).map (laneVirt (k.va va ls).virt)
  | _ => []

/-- The places of those addresses. -/
def State.memPlaces (s : State) (i : Instr) : List Place :=
  (s.me.memAddrs i).filterMap (fun a => match s.locate { r := false, w := false } a with
    | .ok l => some l.place
    | .error _ => none)

/-- The first thing that holds a waiting access back, if any. -/
def State.memGate (s : State) (i : Instr) : Gate :=
  (((s.memPlaces i).map (s.gate s.core)).find? (· != .clear)).getD .clear

/-- Is a strand in the queue of a page under migration (R383) or of a port (R426)? Its access is performed from there. -/
def State.inQueue (s : State) (c : Nat) (st : Strand) : Bool :=
  s.migration.queue.contains (.strand c st) || s.ports.any (fun e => e.2.ordq.contains (.strand c st))

/-- A waiting access of a strand is performed. -/
def State.answer (s : State) (c : Nat) (st : Strand) : State :=
  let b : State := { s with core := c }
  match (b.me.strand st).cond with
  | .memory i => State.memEffect (b.updMe (fun k => k.updStrand st (fun t => { t with cond := .ready }))) i
  | _ => b

/-- MEMORY_ACCESS_COMPLETE (R132): an access that finds its page or its port closed joins the queue there (R383, R426). -/
def execMemoryAccessComplete (core : Nat) (st : Strand) (s : State) : Host.Outcome State Fault Refusal :=
  let b : State := { s with core := core }
  .next (match (b.me.strand st).cond with
    | .memory i =>
      if s.inQueue core st || b.unitHeld i then s
      else match b.memGate i with
        | .clear => s.answer core st
        | g => s.join (.strand core st) g
    | _ => s.answer core st)

/-- The condition of R285 for the node of the issuing core, with no trap still to be taken. -/
def State.nodeEnds (s : State) : Bool :=
  let k := s.me
  k.node.phase == .running && k.node.ending.isNone
    && [Strand.S, .V, .M, .C].all (fun st => (k.strand st).cond == .ended && (k.strand st).pending.isNone)
    && k.mq == [] && k.cout == [] && s.cmdsOf s.core == [] && s.prefetches.all (fun f => f.core != some s.core) && k.node.solving.isNone

/-- The bytes that a node stages in a sector, under their mask (R295). -/
def Node.sectorBytes (nd : Node) (sec : Nat) : List (Option Byte) :=
  (List.range 16).map (fun i => (nd.staged.find? (fun e => e.1 == 16 * sec + i)).map (·.2))

/-- Lines of pooled memory in which a node holds staged bytes. -/
def Node.poolLines (nd : Node) : List Nat :=
  (nd.stagedSectors.filter (fun x => decide (0x100000000000 ≤ 16 * x))).foldl (fun l x => setInsert l (x / 8)) []

/-- Ownership of lines of pooled memory obtained before a commit's writes, and released behind them (R421). -/
def State.ownLines (s : State) (lines : List Nat) (gain : Bool) : State :=
  lines.foldl (fun a l =>
    let w := fabricWindow (128 * l)
    a.sendOrdered w (.ownership ((a.portOf w).getD 0) (a.pbridOf w) l gain)) s

/-- Step 1 of a commit (R286): every staged sector becomes visible, a poisoned one as poisoned (R436), lines of pooled memory
under ownership (R421). -/
def State.commitWrites (s : State) (nd : Node) : State :=
  (nd.stagedSectors.foldl (fun a sec => a.sectorPut (16 * sec) (nd.sectorBytes sec) (nd.stagedPoison.contains sec))
    (s.ownLines nd.poolLines true)).ownLines nd.poolLines false

/-- Step 2 (R159, R286): the items enter their queues in `ipub` order, each in a reserved slot. -/
def State.commitItems (s : State) (nd : Node) (outs : List (Nat × Nat)) : State :=
  nd.items.foldl (fun a it => match outs[it.out]? with
    | some o => a.updQueue nd.part o.1 (fun q => (q.place .reserved it.bytes [] a.gtc).getD q)
    | none => a) s

/-- The reserved slots that the node did not use become FREE (R371). -/
def State.freeReserved (s : State) (nd : Node) (outs : List (Nat × Nat)) : State :=
  outs.zipIdx.foldl (fun a o =>
    a.updQueue nd.part o.1.1 (fun q =>
      q.turn .reserved .free (o.1.2 - (nd.items.filter (fun e => e.out == o.2)).length))) s

/-- The points of a node that carry `wdone` and that a walk still holds as issued to core c: walk key and point. -/
def State.donePoints (s : State) (c : Nat) (nd : Node) : List (Nat × Nat) :=
  (nd.points.filter (fun e => e.done && (s.walk (walkKey e.handle)).points.find e.point == some (.issued c))).map
    (fun e => (walkKey e.handle, e.point))

/-- The bitmap words that the points of one walk touch, each once, with the OR of their bits (R351). -/
def bitmapWords (l : List Nat) : Table Nat :=
  l.foldl (fun t n => t.set (n / 64) ((t.get (n / 64) 0) ||| 2 ^ (n % 64))) []

/-- One word of a visited map takes an OR at its home, counted as an 8-byte atomic (R333, R351). -/
def State.orWord (s : State) (p a v : Nat) : State :=
  match s.entryOf p a with
  | some e =>
    let pa := s.redirect (s.physAt p e (a - e.base))
    let b := s.recallBytes pa 8
    b.visibleWrite p pa ((leBytes 8 (b.mem.readNat pa 8 ||| v)).map some)
  | none => s

/-- Step 3 (R158, R286, R348, R351): visited bits are set; other points of the node return unvisited; a walk whose
points are all visited closes. -/
def State.commitPoints (s : State) (c : Nat) (nd : Node) : State :=
  let dn := s.donePoints c nd
  let keys := dn.foldl (fun l e => setInsert l e.1) []
  let s1 := keys.foldl (fun a k =>
    let w := a.walk k
    let pts := (dn.filter (fun e => e.1 == k)).map (·.2)
    let a1 := (bitmapWords pts).foldl (fun b e => b.orWord w.part (wBitmap w.desc + 8 * e.1) e.2) a
    let w1 := { w with points := pts.foldl (fun t n => t.set n .visited) w.points }
    a1.setWalk k (if w1.allDone then { w1 with state := .closed } else w1)) s
  (nd.points.filter (fun e => !e.done)).foldl (fun a e =>
    if (a.walk (walkKey e.handle)).points.find e.point = some (.issued c) then a.returnPoint e.handle e.point else a) s1

/-- Step 4 (R286, R333, R334): one delivery for each counter over the node's staged sectors. -/
def State.commitCounts (s : State) (nd : Node) : State :=
  let each := nd.stagedSectors.map (fun sec => (s.filterOf (sec / 8), ((nd.sectorBytes sec).filter Option.isSome).length))
  let mine := each.foldl (fun (t : Table Nat) e => match e.1 with
    | some c => if (s.counter c).part = nd.part then t.set c (t.get c 0 + e.2) else t
    | none => t) []
  let foreign := (each.filter (fun e => match e.1 with
    | some c => (s.counter c).part != nd.part
    | none => false)).length
  let s1 : State := { s with deliveries := s.deliveries ++ mine.map (fun e => { ctr := e.1, n := e.2 }) }
  s1.countN nd.part 0x000B foreign

/-- The commit of core c's node (R286), with the counts of R463 and the trace record of R461. -/
def State.commitNode (s : State) (c : Nat) : State :=
  let nd := (s.coreAt c).node
  let g := s.stageOf nd.part nd.launch nd.stage
  let outs := (g.map (·.outs)).getD []
  let left := ((List.range 12).map (s.coreAt c).tokens).sum
  let s1 := ((s.countN nd.part 0x0007 left).commitWrites nd).commitItems nd outs
  let s2 := ((s1.freeReserved nd outs).commitPoints c nd).commitCounts nd
  let s3 := match g with
    | some st => s2.updQueue nd.part st.input (fun q =>
        { q with slots := q.slots.modify nd.slot (fun x => { x with st := .free, late := [], tries := 0 }) })
    | none => s2
  let s4 := (s3.updLaunch nd.part nd.launch (fun l => { l with committed := l.committed + 1 })).count nd.part 0x0010
  (s4.traceNode c 1).updCore c (fun k =>
    { k with node := { k.node with phase := .committing, staged := [], stagedPoison := [], items := [], points := [] } })

/-- Must a node's commit wait: for a page under migration, or a port whose width changes, by which the ownership of a line of
pooled memory is obtained before its writes whether or not a slice holds it (R383, R421, R426)? -/
def State.commitHeld (s : State) (c : Nat) (nd : Node) : Bool :=
  nd.stagedSectors.any (fun x => s.gate c (homePlace (16 * x)) != .clear)
    || nd.poolLines.any (fun l => match s.portOf (fabricWindow (128 * l)) with
      | some n => (s.ports.get n Port.reset).chg
      | none => false)
    || (s.donePoints c nd).any (fun e => s.virtHeld c nd.part (wBitmap (s.walk e.1).desc + e.2 / 8) 1)

/-- The first staged sector of a node whose home no link reaches any more (R422, R427). -/
def State.commitLost (s : State) (nd : Node) : Option Nat :=
  (nd.stagedSectors.find? (fun x => match homePlace (16 * x) with
    | .host pa => s.hostGone (.host pa)
    | .pool pa => (s.portOf (fabricWindow pa)).isNone
    | _ => false)).map (16 * ·)

/-- NODE_COMMIT (R285, R286); a node whose staged bytes can no longer reach their home rolls back (DEDUCED, log 87). -/
def execNodeCommit (core : Nat) (s : State) : Host.Outcome State Fault Refusal :=
  let b : State := { s with core := core }
  let nd := b.me.node
  .next (if !b.nodeEnds ∨ b.commitHeld core nd then b
    else match b.commitLost nd with
      | some a => b.rollbackNode core 0x20 0 0 (BitVec.ofNat 64 a) none
      | none => b.commitNode core)

/-- COMMIT_ACKNOWLEDGED (R286): the core is free again, and its class is 0. -/
def execCommitAcknowledged (core : Nat) (s : State) : Host.Outcome State Fault Refusal :=
  let nd := (s.coreAt core).node
  .next (if nd.phase = .committing then ((s.updCore core Core.release).setLimits (core / 40)).markQuiet nd.part else s)

/-- Partition marks and limits brought up to date after nodes of partition p have gone. -/
def State.afterEnd (s : State) (p : Nat) : State := s.setAllLimits.markQuiet p

/-- A rollback for an error that the hardware of core c has shown, which Newt counts for the core (R466). -/
def State.hardRollback (s : State) (c cause : Nat) (st : Strand) : State :=
  let k := s.coreAt c
  ((s.tallyCore c).rollbackNode c cause st.num (k.strand st).pc 0 (some st)).afterEnd k.node.part

/-- ROLLBACK (R437, R439): an error detected on a strand, cause 0x20. -/
def execRollback (core : Nat) (st : Strand) (s : State) : Host.Outcome State Fault Refusal :=
  .next (s.hardRollback core 0x20 st)

/-- CONTROL_DIVERGENCE (R438): cause 0x21 on a strand that Gecko shadows; V is not shadowed. -/
def execControlDivergence (core : Nat) (st : Strand) (s : State) : Host.Outcome State Fault Refusal :=
  .next (if st = .V then s else s.hardRollback core 0x21 st)

/-- ECCCOR or ECCUNC counted in the partition that owns the storage, if one does (R434, R463). -/
def State.countEcc (s : State) (p : Option Nat) (uncorrectable : Bool) : State :=
  match p with
  | some q => s.count q (if uncorrectable then 0x000A else 0x0009)
  | none => s

/-- ACCUMULATOR_SCRUB (R48, R434): a row mismatch rolls the running node back, or counts ECCUNC. -/
def execAccumulatorScrub (core tile : Nat) (s : State) : Host.Outcome State Fault Refusal :=
  let k := s.coreAt core
  let p := s.partOf core
  .next (
    if (k.getTile (BitVec.ofNat 3 tile)).sumsOk 64 then s
    else if k.node.phase = .idle ∨ k.node.phase = .committing then
      State.countEcc { s with ecc := (s.ecc.1, s.ecc.2 + 1) } p true
    else s.hardRollback core 0x20 .M)

/-- The partition that owns the storage of a site, if one does (R434): a slice is its quad's. -/
def State.sitePart (s : State) : ScrubSite → Option Nat
  | .dram a => s.partOf (a / 2 ^ 29)
  | .window d _ | .staged d _ | .owned d _ | .cleanL1 d _ | .code d | .reg d _ => s.partOf d
  | .saved p _ _ => some p
  | .slice q _ | .cleanSlice q _ => s.partOf (4 * q)

/-- Does a site hold the sector that it names, and does the strand that reads a register run? -/
def State.atSite (s : State) : ScrubSite → Bool
  | .dram _ | .window _ _ => true
  | .staged d a => (s.coreAt d).node.stagedSectors.contains (a / 16)
  | .saved p slot a => (s.part p).saved.any (fun x => x.slot == slot && x.node.stagedSectors.contains (a / 16))
  | .slice q a | .cleanSlice q a => (s.l2.get q []).contains (a / 128)
  | .owned d a => s.owners.find (a / 128) == some d
  | .cleanL1 d a => (s.coreAt d).l1.contains (a / 128) && s.owners.find (a / 128) != some d
  | .code d => (s.coreAt d).busy
  | .reg d st =>
    let k := s.coreAt d
    k.busy && k.node.phase != .committing && !(k.strand st).frozen && (k.strand st).cond != .ended

/-- A node's staged sector marked. -/
def Node.markStaged (nd : Node) (sec : Nat) : Node := { nd with stagedPoison := setInsert nd.stagedPoison sec }

/-- A sector whose error passes its code's correction is marked poisoned, where it is stored (R434, R435); a clean line, and one
of an instruction cache, is refetched. -/
def State.markSite (s : State) : ScrubSite → State
  | .dram a | .slice _ a | .owned _ a => { s with poison := setInsert s.poison (a / 16) }
  | .window d off => s.updCore d (fun k => { k with winPoison := setInsert k.winPoison (off / 16) })
  | .staged d a => s.updCore d (fun k => { k with node := k.node.markStaged (a / 16) })
  | .saved p slot a => s.updPart p (fun v =>
    { v with saved := v.saved.map (fun x => if x.slot = slot then { x with node := x.node.markStaged (a / 16) } else x) })
  | .cleanSlice _ _ | .cleanL1 _ _ | .code _ | .reg _ _ => s

/-- Do scrubbers cover a site: DRAM, slices, scratchpads and weight buffers, and what L1s own (R434)? -/
def scrubbed : ScrubSite → Bool
  | .dram _ | .window _ _ | .staged _ _ | .saved _ _ _ | .slice _ _ | .owned _ _ | .cleanSlice _ _ => true
  | .cleanL1 _ _ | .code _ | .reg _ _ => false

/-- Newt's tallies of errors toward a repair (R466): corrected ones by row of DRAM, uncorrectable ones by channel. -/
def State.tally (s : State) (site : ScrubSite) (uncorrectable : Bool) : State :=
  match site with
  | .dram a =>
    if uncorrectable then { s with chanTally := s.chanTally.set (a / 2 ^ 29) (s.chanTally.get (a / 2 ^ 29) 0 + 1) }
    else { s with rowTally := s.rowTally.set (a / 65536) (s.rowTally.get (a / 65536) 0 + 1) }
  | .window _ _ | .staged _ _ | .saved _ _ _ | .slice _ _ | .owned _ _ | .cleanSlice _ _ | .cleanL1 _ _ | .code _ | .reg _ _ => s

/-- MEMORY_SCRUB (R434): a corrected error counts ECCCOR; an uncorrectable one marks its sector and counts ECCUNC, in
the partition that owns the storage. -/
def execMemoryScrub (site : ScrubSite) (uncorrectable : Bool) (s : State) : Host.Outcome State Fault Refusal :=
  let s0 : State := { s with ecc := if uncorrectable then (s.ecc.1, s.ecc.2 + 1) else (s.ecc.1 + 1, s.ecc.2) }
  let s1 := (if uncorrectable then s0.markSite site else s0).tally site uncorrectable
  .next (if scrubbed site && s.atSite site then s1.countEcc (s.sitePart site) uncorrectable else s)

/-- A read meets an error in storage (R434): a corrected one counts ECCCOR; an uncorrectable one marks its sector, which the
reader then meets as poison, or, in a register, rolls the reader's node back, and counts nothing. -/
def State.readError (s : State) (site : ScrubSite) (uncorrectable : Bool) : State :=
  let s1 := s.tally site uncorrectable
  if !s.atSite site then s
  else if uncorrectable then match site with
    | .reg d st => s.hardRollback d 0x20 st
    | _ => s1.markSite site
  else State.countEcc { s1 with ecc := (s1.ecc.1 + 1, s1.ecc.2) } (s.sitePart site) false

/-- COUNTER_DELIVERY (R335, R336): a delivery that has reached its counter's home is applied. -/
def execCounterDelivery (idx : Nat) (s : State) : Host.Outcome State Fault Refusal :=
  .next (match s.deliveries[idx]? with
    | some d =>
      let p := (s.counter d.ctr).part
      (State.applyDelivery { s with deliveries := s.deliveries.eraseIdx idx } d.ctr d.n).markQuiet p
    | none => s)

/-- PENDING_ACTION_RETRY (R338). -/
def execPendingActionRetry (ctr : Nat) (s : State) : Host.Outcome State Fault Refusal :=
  .next ((s.retryAction ctr).markQuiet (s.counter ctr).part)

/-- ACWAIT_POLL (R153): a waiting core re-reads the phase, and its strand issues again. -/
def execAcwaitPoll (core : Nat) (s : State) : Host.Outcome State Fault Refusal :=
  .next (match ((s.coreAt core).strand .S).cond with
    | .counter c p since =>
      if since + 1024 ≤ s.cycle ∧ reached (s.counter c).phase p then
        s.updCore core (fun k => k.updStrand .S (fun t => { t with woken := true }))
      else s
    | _ => s)

/-- COUNTER_DISARM (R331): at unload or teardown, by the runtime. -/
def execCounterDisarm (ctr : Nat) (s : State) : Host.Outcome State Fault Refusal :=
  .next ((s.disarm ctr).markQuiet (s.counter ctr).part)

/-- A line put into its slice, the fill that asked for it being over (R147, R288). -/
def State.fillLine (s : State) (q line : Nat) : State :=
  let a := s.track line
  State.pruneSnoop { a with l2 := a.l2.set q (cachePut sliceLines (a.l2.get q []) line),
                            fills := a.fills.set q (setErase (a.fills.get q []) line) }

/-- WALK_PREFETCH_COMPLETE (R347, R348): the lines that the deferral asked for and that are still being filled are present,
the others left absent, what the host holds of them having come back (R420); while that is held back the prefetch goes on; the
point's latest deferral enters the revisit queue, and the node whose `wnext` asked, while it
lasts, no longer waits. -/
def execWalkPrefetchComplete (stack ctx point : Nat) (s : State) : Host.Outcome State Fault Refusal :=
  let key := 4 * stack + ctx
  .next (match s.prefetches.find? (fun f => f.key == key && f.point == point) with
  | none => s
  | some f =>
    let here := f.lines.filter (fun e => (s.fills.get e.1 []).contains e.2)
    if here.any (fun e => !s.admits (4 * e.1) e.2) then s else
    let s1 := here.foldl (fun a e => (a.askLine (4 * e.1) e.2).fillLine e.1 e.2) { s with prefetches := s.prefetches.erase f }
    let s2 := match f.core with
      | some c => s1.updCore c (fun k => k.updStrand .S (fun t => { t with since := s.cycle }))
      | none => s1
    let w := s2.walk key
    if f.stale then s2
    else match w.points.find point with
      | some (.deferred k t0 true) =>
        s2.setWalk key { w with points := w.points.set point (.deferred k t0 false), revisit := w.revisit ++ [point] }
      | _ => s2)

end Sys2Proof.Machine
end

