-- ==== Sys2Proof/Machine/Alloc.lean ====
section
/-! DEFINITION. Stage allocators: eligibility and choice (R366 to R370), node start (R71, R272), the start and end
of launches (R360, R361, R373). -/

namespace Sys2Proof.Machine

/-- Are starts and restores of a stage's nodes stopped: a held scope (R384), an activation (R382), or the package's
hold (R453, R454)? -/
def State.blockedStage (s : State) (p lid st : Nat) : Bool :=
  let v := s.part p
  s.halted || s.hot || s.railsOff || v.going || v.holds.any (fun h => match h with
    | .partition => true
    | .launch l => l == lid
    | .stage l t => l == lid && t == st
    | .core _ => false)

/-- Is a core held for the gang of another stage (R369)? -/
def State.heldByOther (s : State) (p lid st c : Nat) : Bool :=
  (s.part p).gangHolds.any (fun h =>
    let kind := ((s.stageOf p h.2.1 h.2.2).map (·.kind)).getD .core
    !(h.2.1 == lid && h.2.2 == st) && unitOf kind c == unitOf kind h.1)

/-- Is a core free for a node of a stage (R367, R369)? -/
def State.freeFor (s : State) (p lid st c : Nat) : Bool :=
  s.owns p c && s.present c && !(s.coreAt c).busy && !(s.part p).holds.contains (.core c) && !s.heldByOther p lid st c

/-- Free cores of stack k for a stage. -/
def State.freeCores (s : State) (p k lid st : Nat) : List Nat :=
  (s.coresOf p).filter (fun c => c / 40 == k && s.freeFor p lid st c)

/-- Nodes of a stage that count as running (R367): until the core is released, and saved ones. -/
def State.runningOf (s : State) (p lid st : Nat) : Nat :=
  ((s.busyCores p).filter (fun c => (s.coreAt c).node.launch == lid && (s.coreAt c).node.stage == st)).length
    + ((s.part p).saved.filter (fun x => x.node.launch == lid && x.node.stage == st)).length

/-- The conditions of R367 but for the cores; saved nodes of the stage come first (R387), and a whole gang stays
within `max=` (R374). -/
def State.stageReady (s : State) (p lid st : Nat) (l : Launch) (g : Stage) : Bool :=
  let items := match s.queue? p g.input with
    | some q => q.ready.take g.k
    | none => []
  l.state == .running && !s.blockedStage p lid st && (s.part p).saved.all (fun x => !(x.node.launch == lid && x.node.stage == st))
    && items.length == g.k && items.all (fun e => e.2.late == [])
    && decide (s.runningOf p lid st + g.k ≤ g.max)
    && g.outs.all (fun o => match s.queue? p o.1 with
      | some q => decide (g.k * ((g.outs.filter (fun x => x.1 == o.1)).map (·.2)).sum ≤ q.room)
      | none => true)

/-- Units of stack k that hold k cores of the partition, free or not, ascending (R367). One in which a gang stage holds
cores already is not held a second time, so that each hold ends (R369, R374; DEDUCED, log 80). -/
def State.gangUnits (s : State) (p k : Nat) (g : Stage) : List Nat :=
  let mine := (s.coresOf p).filter (fun c => c / 40 == k)
  let us := mine.foldl (fun l c => setInsert l (unitOf g.kind c)) []
  us.filter (fun u =>
    let cs := mine.filter (fun c => unitOf g.kind c == u)
    decide (g.k ≤ cs.length) && cs.all (fun c => !(s.part p).holdsCore c))

/-- First core of a unit. -/
def unitFirst (kind : GangKind) (u : Nat) : Nat :=
  match kind with
  | .core => u
  | .quad => 4 * u
  | .stack => 40 * u

/-- Is a stage eligible on stack k (R367)? -/
def State.eligible (s : State) (p k lid st : Nat) (l : Launch) (g : Stage) : Bool :=
  s.stageReady p lid st l g &&
    match g.kind with
    | .core => s.freeCores p k lid st != []
    | _ => !(s.part p).gangHolds.any (fun h => h.1 / 40 == k && h.2.1 == lid && h.2.2 == st) && s.gangUnits p k g != []

/-- What the choice of R368 compares: launch, stage, running count, weight with priority, age of the head item. -/
structure Cand where
  lid : Nat
  st : Nat
  stage : Stage
  run : Nat
  weight : Nat
  since : Nat
  aged : Bool
  deriving DecidableEq, Repr

/-- The eligible stages of partition p on stack k, in the order that breaks ties. -/
def State.candidates (s : State) (p k : Nat) : List Cand :=
  (s.part p).launches.flatMap (fun e => e.2.stages.zipIdx.filterMap (fun g =>
    if s.eligible p k e.1 g.2 e.2 g.1 then
      let since := (((s.queue? p g.1.input).bind (fun q => q.ready.head?)).map (fun x => x.2.since)).getD 0
      some { lid := e.1, st := g.2, stage := g.1, run := s.runningOf p e.1 g.2, weight := g.1.weight * 2 ^ e.2.prio, since := since,
             aged := g.1.aging != 0 && decide (since + g.1.aging < s.gtc) }
    else none))

/-- The first of a list that no other beats. -/
def bestBy {α : Type} (better : α → α → Bool) : List α → Option α
  | [] => none
  | a :: t => some (t.foldl (fun b x => if better x b then x else b) a)

/-- The stage that R368 picks. -/
def pickCand (l : List Cand) : Option Cand :=
  let aged := l.filter (·.aged)
  let below := l.filter (fun c => decide (c.run < c.stage.min))
  if aged ≠ [] then bestBy (fun x b => decide (x.since < b.since)) aged
  else if below ≠ [] then bestBy (fun x b => decide (b.stage.min + x.run < x.stage.min + b.run)) below
  else bestBy (fun x b => decide (x.run * b.weight < b.run * x.weight)) l

/-- Rank of a free core (R368): last node of the same stage, of the same launch, any. -/
def State.coreRank (s : State) (p lid st c : Nat) : Nat :=
  match (s.coreAt c).last with
  | some (q, l, t) => if q = p ∧ l = lid then (if t = st then 0 else 1) else 2
  | none => 2

/-- Cores in the order in which R368 takes them. -/
def State.byRank (s : State) (p lid st : Nat) (l : List Nat) : List Nat :=
  l.insertionSort (fun a b => s.coreRank p lid st a * 1000 + a ≤ s.coreRank p lid st b * 1000 + b)

/-- The state of a core at node start (R71, R272). The scratchpad, weight buffer and slot tags of an earlier node of
the launch stay or are zeroed: either may be found, and a free value says which (log 6, 22). TCAUSE, TEPC and TVAL, which
R71 does not name, stay as the last node on the core left them (DESIGN CHOICE, log 71). -/
def State.freshCore (s : State) (c p lid : Nat) : Core :=
  let k := s.coreAt c
  let v := s.part p
  let same : Bool := match k.last with
    | some (q, l, _) => q == p && l == lid
    | none => false
  let keep := same && bitOf s.freeVal.toNat 0
  { Core.reset with
    window := if keep then k.window else [], winPoison := if keep then k.winPoison else [],
    wtags := if keep then k.wtags else tab 4 (fun _ => 0),
    lsc := if same then k.lsc else Core.reset.lsc,
    tvec := putField v.tvecp 0 2 0, brka := v.brka, brkc := v.brkc,
    tcause := k.tcause, tepc := k.tepc, tval := k.tval,
    charges := k.charges, limit := k.limit, l1 := k.l1, now := k.now, last := k.last, spared := k.spared }

/-- A node starts on core c (R272, R370): state of R71, item at 0x7_FF80, four strands at their sections. -/
def State.startNode (s : State) (c p lid st : Nat) (g : Stage) (slot : Nat) (item : Slot) (gang : List Nat) (gangNo : Nat) : State :=
  let k := s.freshCore c p lid
  let k1 := k.writeWindow 0x7FF80 ((padTo 128 item.bytes).map some)
  let k2 : Core :=
    { k1 with
      strands := tab 4 (fun i =>
        { StrandSt.idle with pc := BitVec.ofNat 64 (g.secs.getD i (0, 0)).1, secBase := (g.secs.getD i (0, 0)).1,
                             secLen := (g.secs.getD i (0, 0)).2, since := s.cycle }),
      node := { Node.vacant with phase := .running, part := p, launch := lid, stage := st, itemOff := 0x7FF80, slot := slot,
                                 attempt := item.tries, gang := gang, gangNo := gangNo, started := s.gtc, handler := bitOf (s.part p).tvecp.toNat 0 } }
  ((s.setCore c k2).useFree.traceNode c 0).setLimits (c / 40)

/-- The k oldest items taken and k nodes started on a list of cores (R368, R369). -/
def State.spawn (s : State) (p lid st : Nat) (g : Stage) (cs : List Nat) : State :=
  match s.queue? p g.input with
  | none => s
  | some q =>
    let items := q.ready.take cs.length
    let s1 := s.updQueue p g.input (fun q => items.foldl (fun a e => a.setSlot e.1 .taken) q)
    let s2 := g.outs.foldl (fun a o => a.updQueue p o.1 (fun q => q.turn .free .reserved (o.2 * cs.length))) s1
    let gang := if g.kind = .core then [] else cs
    (cs.zip items).foldl (fun a e => a.startNode e.1 p lid st g e.2.1 e.2.2 gang (1024 * s.cycle + cs.headD 0)) s2

/-- A picked stage starts, or its gang holds a unit (R368, R369). -/
def State.startPicked (s : State) (p k : Nat) (x : Cand) : State :=
  let g := x.stage
  let free := s.byRank p x.lid x.st (s.freeCores p k x.lid x.st)
  match g.kind with
  | .core => s.spawn p x.lid x.st g (free.take 1)
  | _ =>
    let units := s.gangUnits p k g
    let inU (u : Nat) : List Nat := free.filter (fun c => unitOf g.kind c == u)
    let near (u : Nat) : Nat := ((inU u).filter (fun c => s.coreRank p x.lid x.st c == 0)).length
    match bestBy (fun a b => decide (near b < near a)) (units.filter (fun u => decide (g.k ≤ (inU u).length))) with
    | some u => s.spawn p x.lid x.st g ((inU u).take g.k)
    | none =>
      match bestBy (fun a b => decide ((inU b).length < (inU a).length)) units with
      | some u => s.updPart p (fun v => { v with gangHolds := v.gangHolds ++ [(unitFirst g.kind u, x.lid, x.st)] })
      | none => s

/-- Held units of stack k whose gang can start now, or is no longer eligible (R369). -/
def State.settleHolds (s : State) (p k : Nat) : State :=
  ((s.part p).gangHolds.filter (fun h => h.1 / 40 == k)).foldl (fun a h =>
    match a.launch? p h.2.1, a.stageOf p h.2.1 h.2.2 with
    | some l, some g =>
      let free := a.byRank p h.2.1 h.2.2
        ((a.freeCores p k h.2.1 h.2.2).filter (fun c => unitOf g.kind c == unitOf g.kind h.1))
      if free.length < g.k then a
      else
        let b := a.updPart p (fun v => { v with gangHolds := v.gangHolds.erase h })
        if b.stageReady p h.2.1 h.2.2 l g then b.spawn p h.2.1 h.2.2 g (free.take g.k) else b
    | _, _ => a) s

/-- The loop of R368 on stack k, for at most `fuel` picks. -/
def State.allocLoop (p k : Nat) : Nat → State → State
  | 0, s => s
  | n + 1, s =>
    match pickCand (s.candidates p k) with
    | none => s
    | some x => State.allocLoop p k n (s.startPicked p k x)

/-- ALLOCATE_NODE (R368, R369): the allocator of a stack serves the partitions that hold a core there. -/
def execAllocateNode (stack : Nat) (s : State) : Host.Outcome State Fault Refusal :=
  .next (s.parts.foldl (fun a e =>
    if (a.coresOf e.1).any (fun c => c / 40 == stack) then
      (State.allocLoop e.1 stack 512 (a.settleHolds e.1 stack)).markQuiet e.1
    else a) s)

/-- A late-bound word of partition p (R366): its value, or the cause of the failing check. -/
def State.lateWord (s : State) (p a : Nat) : Except Nat Nat :=
  match s.entryOf p a with
  | none => .error 0x06
  | some e =>
    if !e.r then .error 0x07
    else
      let go (pa : Nat) : Except Nat Nat := if s.poison.contains (pa / 16) then .error 0x20 else .ok (s.memNat pa 8)
      match s.placeOf p e a with
      | .dram pa => go pa
      | .pool pa => if (s.portOf (fabricWindow pa)).isNone then .error 0x06 else go pa
      | _ => .error 0x07

/-- The item's bytes with one field replaced by a word. -/
def putWord (b : List Byte) (off v : Nat) : List Byte := b.take off ++ leBytes 8 v ++ b.drop (off + 8)

/-- The late-bound descriptors of an item in turn: its bytes, or the address and cause of the first failing check. -/
def State.bindLate (s : State) (p : Nat) : List (List Byte) → List Byte → Except (Nat × Nat) (List Byte)
  | [], b => .ok b
  | d :: t, b =>
    match s.lateWord p (leAt d 8 8) with
    | .error c => .error (leAt d 8 8, c)
    | .ok v => State.bindLate s p t (putWord b (leAt d 0 1) v)

/-- Has every descriptor's counter reached its phase (R152, R358, R366)? -/
def State.lateReached (s : State) (ds : List (List Byte)) : Bool :=
  ds.all (fun d => reached (s.counter (leAt d 2 2)).phase (leAt d 4 4))

/-- LATE_FIELD_RESOLVE (R366): the fields of the oldest READY item that waits for them are read, once all phases are
reached, its launch runs and no page holds the reads back (R383), a line that the host holds being recalled first (R420); a
failing check fails the launch with a record of kind LATEFIELD. -/
def execLateFieldResolve (part queue : Nat) (s : State) : Host.Outcome State Fault Refusal :=
  .next (match s.queue? part queue with
  | none => s
  | some q =>
    match q.ready.find? (fun e => e.2.late != []) with
    | none => s
    | some (i, sl) =>
      let run := ((s.launch? part q.launch).map (fun l => l.state == .running)).getD false
      let r := sl.late.foldl (fun a d => a.askVirt part (leAt d 8 8) 8) s
      if !run ∨ !s.lateReached sl.late ∨ sl.late.any (fun d => s.virtHeld (40 * s.queueHome part) part (leAt d 8 8) 8) then s
      else match r.bindLate part sl.late sl.bytes with
        | .ok b => r.updQueue part queue (fun q => { q with slots := q.slots.modify i (fun x => { x with bytes := b, late := [] }) })
        | .error (a, c) =>
          let st := (((s.launch? part q.launch).map (·.stages)).getD []).findIdx? (fun g => g.input == queue)
          let e : ErrRec :=
            { kind := 7, cause := c, attempt := sl.tries, launch := q.launch, stage := st.getD 0, addr := BitVec.ofNat 64 a }
          ((r.report part e).failLaunch part q.launch).afterEnd part)

/-- LAUNCH_START (R361, R362): the first waiting start whose launch no longer runs begins it. -/
def execLaunchStart (part : Nat) (s : State) : Host.Outcome State Fault Refusal :=
  let l := (s.part part).launchQ
  .next (match l.findIdx? (fun q => !((s.launch? part (leAt q.bytes 0 2)).map (fun x => x.state == .running)).getD false) with
  | none => s
  | some i =>
    match l[i]? with
    | none => s
    | some st =>
      ((((s.updPart part (fun v => { v with launchQ := v.launchQ.eraseIdx i })).activateIfQuiet part).beginLaunch part st).markQuiet
        part))

/-- LAUNCH_COMPLETE (R360, R363, R373): a launch that has been quiescent for 4 µs ends COMPLETE. -/
def execLaunchComplete (part launch : Nat) (s : State) : Host.Outcome State Fault Refusal :=
  .next (match s.launch? part launch with
  | some l =>
    match l.quiet with
    | some t =>
      if l.state = .running ∧ s.quiescent part launch ∧ t + 4000 ≤ s.gtc then s.leaveRunning part launch 0 .ended else s
    | none => s
  | none => s)

end Sys2Proof.Machine
end

