-- ==== Sys2Proof/Machine/Context.lean ====
section
/-! DEFINITION. The context image (R72, R73, R311), and pre-emption with its saves and restores (R384 to R388). -/

namespace Sys2Proof.Machine

/-- Tags packed two to a byte, the first in the low half (R73). -/
def packTags : List (BitVec 4) → List Byte
  | a :: b :: t => BitVec.ofNat 8 (a.toNat + 16 * b.toNat) :: packTags t
  | [a] => [BitVec.ofNat 8 a.toNat]
  | [] => []

/-- Words of n bytes each. -/
def packWords (n : Nat) (l : List Nat) : List Byte := l.flatMap (leBytes n)

/-- n zero bytes. -/
def zeros (n : Nat) : List Byte := List.replicate n 0

/-- The header of an image (R73): strand PCs, control registers, tags, bound bits, landing slots, a pending trap. -/
def Core.header (k : Core) : List Byte :=
  let post := ((k.strand .M).pending).filter (·.post)
  packWords 8 ([Strand.S, .V, .M, .C].map (fun st => (k.strand st).pc.toNat))
    ++ packWords 8 ([k.tkcnt, k.twin, BitVec.ofNat 64 k.bands.toNat, k.lsc, k.srseed, k.vstat, k.psna, k.pcls].map (·.toNat))
    ++ packTags (k.v.toList.map (·.tag)) ++ packTags (k.tiles.toList.map (·.tag)) ++ packTags k.wtags.toList
    ++ packTags [k.live.tag, k.shadow.tag]
    ++ leBytes 1 ((k.handles.toList.zipIdx.map (fun e => b2n e.1.bound * 2 ^ e.2)).sum) ++ zeros 8
    ++ packWords 8 (k.lslt.toList.map (·.toNat))
    ++ leBytes 8 ((post.map (fun i => i.tval.toNat)).getD 0) ++ leBytes 8 (b2n post.isSome) ++ zeros 752

/-- A plane's values, row by row, two bytes each. -/
def Plane.bytes (pl : Plane) : List Byte := pl.vals.toList.flatMap (fun r => packWords 2 (r.toList.map (·.toNat)))

/-- The image of R72, 0xB_0000 bytes. -/
def Core.image (k : Core) : List Byte :=
  k.header
    ++ packWords 8 ((List.range 32).map (fun i => (k.getX (BitVec.ofNat 5 i)).toNat))
    ++ packWords 8 ((List.range 8).map (fun i => (k.getK (BitVec.ofNat 3 i)).toNat))
    ++ packWords 4 (k.p.toList.map (·.toNat)) ++ packWords 4 (k.q.toList.map (·.toNat)) ++ zeros 64
    ++ k.handles.toList.flatMap (fun h => padTo 128 h.record)
    ++ k.pals.toList.flatMap (fun p => packWords 4 (p.entries.toList.map (·.toNat)))
    ++ k.tiles.toList.flatMap (fun t => packWords 4 (t.sums.toList.map (·.toNat))) ++ zeros 2048
    ++ k.v.toList.flatMap (fun r => packWords 4 (r.lanes.toList.map (·.toNat)))
    ++ k.live.bytes ++ k.shadow.bytes
    ++ k.window.readBytes 0x80000 0x8000
    ++ k.tiles.toList.flatMap (fun t => t.rows.toList.flatMap (fun r => packWords 4 (r.toList.map (·.toNat))))
    ++ k.window.readBytes 0 0x80000

/-- Is a sector of the image poisoned: those of the scratchpad and the weight buffer carry their marks (R434, log 21)? -/
def Core.imagePoison (k : Core) (sec : Nat) : Bool :=
  if 0x3000 ≤ sec then k.winPoison.contains (sec - 0x3000)
  else if 0x800 ≤ sec ∧ sec < 0x1000 then k.winPoison.contains (sec - 0x800 + 0x8000)
  else false

/-- Virtual address of a save slot (R386). -/
def State.saveAddr (s : State) (p slot : Nat) : Nat := (s.part p).saveBase.toNat + slot * 0xB0000

/-- SAVECNT. -/
def Part.slots (v : Part) : Nat := field v.saveCnt.toNat 0 10

/-- The range entry that holds the whole save area, when it is a device-home DIRECT range with W permission (R386). -/
def State.saveArea (s : State) (p : Nat) : Option RangeEntry :=
  let v := s.part p
  match s.entryOf p v.saveBase.toNat with
  | some e =>
    if e.dram ∧ e.direct ∧ e.w ∧ v.saveBase.toNat + v.slots * 0xB0000 ≤ e.base + 2 ^ e.logsz then some e else none
  | none => none

/-- The lowest free save slot below SAVECNT (R386). -/
def State.freeSlot (s : State) (p : Nat) : Option Nat :=
  (List.range (s.part p).slots).find? (fun i => (s.part p).saved.all (fun x => x.slot != i))

/-- Where a save would go: the range entry and the slot. -/
def State.savePlace (s : State) (p : Nat) : Option (RangeEntry × Nat) :=
  match s.saveArea p, s.freeSlot p with
  | some e, some i => some (e, i)
  | _, _ => none

/-- The node of core c runs to its end where it cannot be rolled back; else it is discarded with its gang and
counted (R385, R386). A gang with another member that cannot be rolled back, running or saved, fails its launch (R371). -/
def State.discardNow (s : State) (c : Nat) : State :=
  let nd := (s.coreAt c).node
  if nd.phase = .idle then s
  else if nd.pinned then s.updCore c (fun k => { k with node := { k.node with saveAt := none, pm := true } })
  else
    let members := (s.gangOf c).map (fun d => (d, (s.coreAt d).node)) ++ (s.savedGang nd).map (fun x => (x.core, x.node))
    match members.find? (fun m => m.2.pinned) with
    | some (d, m) =>
      let r : ErrRec :=
        { kind := 3, cause := 0, flags := 1, attempt := m.attempt, launch := m.launch, stage := m.stage, core := d }
      (s.report nd.part r).failLaunch nd.part nd.launch
    | none =>
      (s.discardNode c).updPart nd.part (fun v => { v with discardedN := v.discardedN + members.length })

/-- A discard by pre-emption is asked for (R284, R385): the node goes as soon as the strands of its gang stand at boundaries. A
trap owed after an instruction's completion is entered first (R316), and takes the node with it where no handler stands. -/
def State.preemptDiscard (s0 : State) (c : Nat) : State :=
  let s := { ((s0.gangOf c).foldl State.raiseOwed s0) with core := s0.core }
  let nd := (s.coreAt c).node
  if nd.phase = .idle ∨ nd.ending.isSome then s
  else if nd.pinned ∨ (s.gangOf c).all s.atRest then s.discardNow c
  else ((s.gangOf c).foldl (fun a d => a.updCore d (fun k => { k with node := { k.node with saveAt := none } }))
    (s.endLater c .discard)).updCore c (fun k => { k with node := { k.node with pm := true } })

/-- A pre-emption meets one node of its scope (R385, R386): a save is asked for, of the whole gang, whose waits end at once
(R169, R278), or the node is discarded. A node that an earlier discard of the same command took is gone, and one that is to end already is only marked as
asked for, a rollback going first (R439). -/
def State.preemptNode (s : State) (longdisc : Bool) (c : Nat) : State :=
  let nd := (s.coreAt c).node
  let long := ((s.stageOf nd.part nd.launch nd.stage).map (·.long)).getD false
  if nd.phase = .idle ∨ nd.phase = .committing then s
  else if nd.ending.isSome then s.updCore c (fun k => { k with node := { k.node with pm := true } })
  else if long ∧ !longdisc ∧ (s.savePlace nd.part).isSome then
    (s.gangOf c).foldl (fun a d => (a.giveUpWaits d).updCore d (fun k =>
      { k with node := { k.node with saveAt := some (k.node.saveAt.getD a.gtc), pm := true } })) s
  else s.preemptDiscard c

/-- Is the node of core c in a scope (R384)? -/
def State.inScope (s : State) (h : Scope) (c : Nat) : Bool :=
  let nd := (s.coreAt c).node
  match h with
  | .core d => c == d
  | .stage l t => nd.launch == l && nd.stage == t
  | .launch l => nd.launch == l
  | .partition => true

/-- A pre-emption of partition p (R384): the counts start again, and every node of the scope is dealt with. -/
def State.preemptScope (s : State) (p : Nat) (h : Scope) (hold longdisc : Bool) : State :=
  let s1 := s.updPart p (fun v =>
    { v with savedN := 0, discardedN := 0, holds := if hold ∧ !v.holds.contains h then v.holds ++ [h] else v.holds })
  let cs := (s1.busyCores p).filter (s1.inScope h)
  (cs.foldl (fun a c => a.preemptNode longdisc c) s1).afterEnd p

/-- PMSTAT.BUSY (R384). -/
def State.pmBusy (s : State) (p : Nat) : Bool :=
  (s.busyCores p).any (fun c => (s.coreAt c).node.pm && (s.coreAt c).node.phase != .committing)

/-- PMSTAT.PINNED (R384): a node of the scope runs to its end. -/
def State.pmPinned (s : State) (p : Nat) : Bool :=
  (s.busyCores p).any (fun c =>
    let nd := (s.coreAt c).node
    nd.pm && nd.saveAt.isNone && nd.ending.isNone && nd.phase != .committing)

/-- The scope that a write of PMCMD names, when it lies in the partition (R384). -/
def State.pmScope (s : State) (p : Nat) (v : Nat) : Option Scope :=
  let lid := field v 48 16
  let st := field v 40 8
  let c := field v 30 10
  match field v 4 2 with
  | 0 => if s.owns p c ∧ s.present c then some (.core c) else none
  | 1 => if (s.stageOf p lid st).isSome then some (.stage lid st) else none
  | 2 => if (s.launch? p lid).isSome then some (.launch lid) else none
  | _ => some .partition

/-- A write of PMCMD (R384), with what its OP does to a scope of the partition: one that names nothing of the partition, or
comes while BUSY, counts PMREJ. -/
def State.pmWrite (s : State) (p v : Nat) (act : Scope → State) : State :=
  if s.pmBusy p then s.count p 0x000C
  else match s.pmScope p v with
    | some h => act h
    | none => s.count p 0x000C

/-- PREEMPT (R384): a write of PMCMD with OP 1; OP 0 and 3 do nothing. -/
def execPreempt (part : Nat) (value : BitVec 64) (s : State) : Host.Outcome State Fault Refusal :=
  let v := value.toNat
  .next (
    if field v 0 2 = 2 ∨ s.boot.failed then s
    else s.pmWrite part v (fun h => if field v 0 2 = 1 then s.preemptScope part h (bitOf v 2) (bitOf v 3) else s))

/-- RELEASE (R384, R387): a write of PMCMD with OP 2 ends the hold of its scope; OP 0 and 3 do nothing. -/
def execRelease (part : Nat) (value : BitVec 64) (s : State) : Host.Outcome State Fault Refusal :=
  let v := value.toNat
  .next (
    if field v 0 2 = 1 ∨ s.boot.failed then s
    else s.pmWrite part v (fun h =>
      if field v 0 2 = 2 then s.updPart part (fun x => { x with holds := x.holds.filter (fun y => y != h) }) else s))

/-- Has the node of the issuing core drained for a save (R386): strands at boundaries with no push held, no loop,
no engine operation, no palette check under way (R207), no handler, and no trap to take but a post-completion one? -/
def State.drained (s : State) : Bool :=
  let k := s.me
  k.node.phase == .running && k.node.ending.isNone && k.loops == [] && k.mq == [] && k.cout == [] && s.cmdsOf s.core == [] 
    && s.prefetches.all (fun f => f.core != some s.core) && k.pals.toList.all (fun x => !x.checking)
    && k.node.solving.isNone && [Strand.S, .V, .M, .C].all (fun st =>
      s.atBoundary st && (match (k.strand st).cond with
        | .pushHold _ _ _ | .ending => false
        | _ => true) && (match (k.strand st).pending with
        | some i => st == .M && i.post
        | none => true))

/-- The image of core c written to a save slot as DIRECT sectors of the partition (R386). -/
def State.writeImage (s : State) (p c slot : Nat) (e : RangeEntry) : State :=
  let k := s.coreAt c
  let img := k.image
  let base := s.saveAddr p slot - e.base
  (List.range 0xB000).foldl (fun a i =>
    a.sectorWrite p (a.redirect (a.physAt p e (base + 16 * i))) (((img.drop (16 * i)).take 16).map some) (k.imagePoison i)) s

/-- The node of the issuing core saved (R386): waits are given up, the image is written, the core is free, and its
class is 0. -/
def State.saveNode (s : State) (e : RangeEntry) (slot : Nat) : State :=
  let c := s.core
  let p := s.me.node.part
  let s1 := [Strand.S, .V, .M, .C].foldl (fun a st => a.abandonWait st) s
  let k := s1.me
  let ended := [Strand.S, .V, .M, .C].filter (fun st => (k.strand st).cond == .ended)
  let x : Saved := { slot := slot, node := { k.node with saveAt := none, pm := false }, core := c, ended := ended }
  let s2 := ((s1.writeImage p c slot e).updPart p (fun v => { v with saved := v.saved ++ [x], savedN := v.savedN + 1 })).withdrawPacq c
  (s2.updCore c Core.release).afterEnd p

/-- NODE_SAVE_COMPLETE (R386): within 40 µs of the request, once the node has drained and no page holds its image back
(R383); with no place left it is discarded. A trap owed when the save was asked for comes first (R316); one recorded since
goes into the image (R72, R388). -/
def execNodeSaveComplete (core : Nat) (s0 : State) : Host.Outcome State Fault Refusal :=
  let s := if (s0.coreAt core).keepsTrap .M then s0 else { (s0.raiseOwed core) with core := s0.core }
  let b : State := { s with core := core }
  let nd := b.me.node
  .next (match nd.saveAt with
  | none => s
  | some t =>
    if b.drained ∧ s.gtc ≤ t + 40000 then
      match b.savePlace nd.part with
      | some (e, i) => if b.virtHeld core nd.part (b.saveAddr nd.part i) 0xB0000 then b else b.saveNode e i
      | none => (b.preemptDiscard core).afterEnd nd.part
    else s)

/-- SAVE_TIMEOUT (R386): a save that would pass 40 µs; the node is discarded, or runs to its end. -/
def execSaveTimeout (core : Nat) (s : State) : Host.Outcome State Fault Refusal :=
  let nd := (s.coreAt core).node
  .next (match nd.saveAt with
  | none => s
  | some t =>
    if t + 40000 ≤ s.gtc ∧ nd.phase ≠ .idle ∧ nd.phase ≠ .committing then (s.preemptDiscard core).afterEnd nd.part else s)

/-- The bytes of a save slot as they stand. -/
def State.readImage (s : State) (p slot : Nat) (e : RangeEntry) : List Byte :=
  (List.range 0xB000).flatMap (fun i =>
    s.mem.readBytes (s.redirect (s.physAt p e (s.saveAddr p slot - e.base + 16 * i))) 16)

/-- Sectors of a save slot that carry a poison mark. -/
def State.imageMarks (s : State) (p slot : Nat) (e : RangeEntry) : List Nat :=
  (List.range 0xB000).filter (fun i =>
    s.poison.contains (s.redirect (s.physAt p e (s.saveAddr p slot - e.base + 16 * i)) / 16))

/-- Tag n of a packed list. -/
def tagAt (b : List Byte) (off n : Nat) : BitVec 4 := BitVec.ofNat 4 (leAt b (off + n / 2) 1 / 16 ^ (n % 2))

/-- The tag that a restore gives: the saved one, POISON for 0xE, which nothing holds (R25, R26, R73 step 3). -/
def restoredTag (b : List Byte) (off n : Nat) : BitVec 4 := if tagAt b off n = 0xE then 0xF else tagAt b off n

/-- The cells of a run of bytes placed at an address. -/
def cellsOf (b : List Byte) (at_ : Nat) : Memory :=
  (b.zipIdx.filter (fun e => e.1 != 0)).map (fun e => (at_ + e.2, e.1))

/-- A plane read back (R50, R72). -/
def planeAt (b : List Byte) (off : Nat) (tag : BitVec 4) : Plane :=
  { vals := tab 64 (fun i => tab 64 (fun j => BitVec.ofNat 16 (leAt b (off + 128 * i + 2 * j) 2))), tag := tag }

/-- Are the reserved bytes of an image zero (R72, R73)? -/
def imageOk (b : List Byte) : Bool :=
  decide (leAt b 0x77 1 < 16) && zeroAt b 0x78 8 && decide (leAt b 0x108 8 < 2) && zeroAt b 0x110 752 && zeroAt b 0x5C0 64
    && zeroAt b 0x1800 2048

/-- The offsets of the saved words whose tag is 0xE, in ascending order (R26, R73 step 3): where the saved contents of the
register, tile, slot or plane begin. Of several, PSNA keeps the last, the highest offset (DESIGN CHOICE, log 69, both). -/
def imagePoisoned (b : List Byte) : List Nat :=
  let at_ (off n base size : Nat) : List Nat :=
    ((List.range n).filter (fun i => tagAt b off i == 0xE)).map (fun i => base + size * i)
  at_ 0x60 32 0x2000 0x100 ++ at_ 0x76 2 0x4000 0x2000 ++ at_ 0x74 4 0x8000 0x2000 ++ at_ 0x70 8 0x10000 0x4000

/-- The strands of a restored node: the saved PCs, the stage's sections, and the pending trap of R73 step 4. -/
def restoredStrand (b : List Byte) (g : Stage) (x : Saved) (cycle i : Nat) : StrandSt :=
  let pc : Word := BitVec.ofNat 64 (leAt b (8 * i) 8)
  let post : TrapInfo := { cause := 0x0C, tval := BitVec.ofNat 64 (leAt b 0x100 8), tepc := pc, post := true }
  { StrandSt.idle with
    pc := pc, secBase := (g.secs.getD i (0, 0)).1, secLen := (g.secs.getD i (0, 0)).2, since := cycle,
    cond := if x.ended.contains (Strand.ofNum i) then .ended else .ready,
    pending := if i = 2 ∧ leAt b 0x108 1 = 1 then some post else none }

/-- The core that an image restores, handles aside (R73). A saved LSC is loaded as it stands (DESIGN CHOICE, log 70), and
TCAUSE, TEPC and TVAL, which no image holds, stay as the core has them (DESIGN CHOICE, log 71). -/
def State.restoredCore (s : State) (c p : Nat) (g : Stage) (x : Saved) (b : List Byte) (marks : List Nat) : Core :=
  let k := s.coreAt c
  let v := s.part p
  let w (off : Nat) : Word := BitVec.ofNat 64 (leAt b off 8)
  let vstat := w 0x48
  let k1 : Core :=
    { Core.reset with
      x := tab 32 (fun i => if i = 0 then 0 else w (0x400 + 8 * i)),
      k := tab 8 (fun i => if i = 0 then BitVec.allOnes 64 else w (0x500 + 8 * i)),
      p := tab 16 (fun i => BitVec.ofNat 32 (leAt b (0x540 + 4 * i) 4)),
      q := tab 16 (fun i => BitVec.ofNat 32 (leAt b (0x580 + 4 * i) 4)),
      pals := tab 2 (fun n =>
        { entries := tab 256 (fun i => BitVec.ofNat 32 (leAt b (0x800 + 0x400 * n + 4 * i) 4)),
          valid := bitOf vstat.toNat (n + 1), checking := false }),
      v := tab 32 (fun i =>
        { lanes := tab 64 (fun j => BitVec.ofNat 32 (leAt b (0x2000 + 256 * i + 4 * j) 4)), tag := restoredTag b 0x60 i }),
      tiles := tab 8 (fun t =>
        { rows := tab 64 (fun i => tab 64 (fun j => BitVec.ofNat 32 (leAt b (0x10000 + 0x4000 * t + 256 * i + 4 * j) 4))),
          sums := tab 64 (fun i => BitVec.ofNat 32 (leAt b (0x1000 + 256 * t + 4 * i) 4)), tag := restoredTag b 0x70 t }),
      wtags := tab 4 (restoredTag b 0x74), live := planeAt b 0x4000 (restoredTag b 0x76 0),
      shadow := planeAt b 0x6000 (restoredTag b 0x76 1),
      window := cellsOf ((b.drop 0x30000).take 0x80000) 0 ++ cellsOf ((b.drop 0x8000).take 0x8000) 0x80000,
      winPoison := (marks.filter (fun i => decide (0x3000 ≤ i))).map (· - 0x3000)
        ++ (marks.filter (fun i => decide (0x800 ≤ i) && decide (i < 0x1000))).map (· - 0x800 + 0x8000),
      tk := tab 12 (fun n => field (leAt b 0x20 8) (5 * n) 5), twin := BitVec.ofNat 64 (leAt b 0x28 8 % 2 ^ 48),
      bands := BitVec.ofNat 4 (leAt b 0x30 8), lsc := w 0x38, srseed := w 0x40, ovf := bitOf vstat.toNat 0,
      psnv := bitOf vstat.toNat 3, psns := BitVec.ofNat 2 (field vstat.toNat 4 2), psna := w 0x50,
      req := BitVec.ofNat 3 (field (leAt b 0x58 1) 3 3), grant := BitVec.ofNat 3 (leAt b 0x58 1),
      lslt := tab 16 (fun i => w (0x80 + 8 * i)),
      tvec := putField v.tvecp 0 2 0, brka := v.brka, brkc := v.brkc, tcause := k.tcause, tepc := k.tepc, tval := k.tval,
      charges := k.charges, limit := k.limit, l1 := k.l1, now := k.now, last := k.last, spared := k.spared,
      strands := tab 4 (restoredStrand b g x s.cycle) }
  (imagePoisoned b).foldl (fun a off => a.setPoison 2 off) k1

/-- The handles of an image bound again on core c, in ascending number (R311): the state, or what a check of
steps 4 and 5 of R235 gives, on the stroke words as the host's copies of their lines have come back (R420). -/
def State.rebind (s : State) (c : Nat) (b : List Byte) : List Nat → State × Check
  | [] => (s, .pass)
  | i :: t =>
    let r := (b.drop (0x600 + 128 * i)).take 128
    if bitOf (leAt b 0x77 1) i then
      let a := s.recallWords c (strokeAddrs r)
      match a.strokeCheck c r with
      | .pass => State.rebind (a.updCore c (fun k => { k with handles := vset k.handles i (a.bindRecord c r) })) c b t
      | e => (a, e)
    else
      State.rebind (s.updCore c (fun k => { k with handles := vset k.handles i { Handle.unbound with record := r } })) c b t

/-- A node that takes core c as it is restored: its issued points follow it (R348). -/
def State.movePoints (s : State) (nd : Node) (old new : Nat) : State :=
  nd.points.foldl (fun a pt =>
    let key := walkKey pt.handle
    let w := a.walk key
    if w.points.find pt.point = some (.issued old) then a.setWalk key { w with points := w.points.set pt.point (.issued new) } else a) s

/-- The restore of one saved node on core c (R73, R387): a refused image fails the launch (R72, R311), poison outside
the scratchpad and the weight buffer rolls the node back (log 21). -/
def State.restoreNode (s : State) (p c : Nat) (e : RangeEntry) (x : Saved) (gang : List Nat) : State :=
  match s.stageOf p x.node.launch x.node.stage with
  | none => s
  | some g =>
    let s0 := s.recallVirt p (s.saveAddr p x.slot) 0xB0000
    let b := s0.readImage p x.slot e
    let marks := s0.imageMarks p x.slot e
    let s1 := s0.updPart p (fun v => { v with saved := v.saved.filter (fun y => y.slot != x.slot) })
    let nd := { x.node with phase := .running, gang := gang, handler := bitOf (s.part p).tvecp.toNat 0 }
    let k := s.restoredCore c p g x b marks
    let s2 := (s1.movePoints x.node x.core c).setCore c { k with node := nd }
    let fail (cause : BitVec 8) (tval : Word) : State :=
      (s2.failNode c { kind := 1, cause := cause.toNat, value := tval,
                       addr := if cause = 0x06 ∨ cause = 0x07 then tval else 0 }).afterEnd p
    if !imageOk b then fail 0x01 0
    else if marks.any (fun i => decide (i < 0x800) || (decide (0x1000 ≤ i) && decide (i < 0x3000))) then
      (s2.rollbackNode c 0x20 0 0 0 none).afterEnd p
    else match s2.rebind c b [0, 1, 2, 3] with
      | (s3, .pass) => s3.setLimits (c / 40)
      | (_, .trap cause tval) => fail cause tval
      | (_, .trapOpen cause) => (fail cause s.freeVal).useFree
      | (s3, .poison sp a) => ((s3.updCore c (fun k => k.setPoison sp a)).rollbackNode c 0x20 0 0 0 none).afterEnd p
      | (s3, .wait _) => s3

/-- The saved class that an image asks for (R73 step 1), its line recalled if the host holds it (R420). -/
def State.savedClass (s : State) (p slot : Nat) (e : RangeEntry) : Nat :=
  let r := s.recallVirt p (s.saveAddr p slot + 0x58) 1
  (r.mem.read (r.redirect (r.physAt p e (r.saveAddr p slot + 0x58 - e.base)))).toNat % 8

/-- Do the classes that free cores of a stack are to take fit its allotment together, beside the grants in force (R446)? -/
def State.classesFit (s : State) (k : Nat) (classes : List Nat) : Bool :=
  classes.all (· == 0) || (decide (s.grantSum k none + (classes.map (fun c => budget c - budget 0)).sum ≤ (s.stackPower k).allot * 1000)
    && (s.stackPower k).queue == [])

/-- Must the restore of a slot wait, for its image or for the stroke words of a handle in it (R311, R383, R426)? -/
def State.restoreHeld (s : State) (p c : Nat) (e : RangeEntry) (slot : Nat) : Bool :=
  s.virtHeld c p (s.saveAddr p slot) 0xB0000 ||
    (let b := (s.recallVirt p (s.saveAddr p slot) 0xB0000).readImage p slot e
     [0, 1, 2, 3].any (fun i => bitOf (leAt b 0x77 1) i
       && (strokeAddrs ((b.drop (0x600 + 128 * i)).take 128)).any (fun a => s.virtHeld c p a 4)))

/-- NODE_RESTORE (R73, R387): the oldest saved node that nothing holds, on a free core, or, once no member of its gang is
still to be saved, with its saved gang together on free cores of that core's unit, when its classes are granted. -/
def execNodeRestore (part core : Nat) (s : State) : Host.Outcome State Fault Refusal :=
  .next (
    match (s.part part).saved.find? (fun x => !s.blockedStage part x.node.launch x.node.stage), s.saveArea part with
    | some x, some e =>
      let kind := ((s.stageOf part x.node.launch x.node.stage).map (·.kind)).getD .core
      let xs := if x.node.gang = [] then [x]
        else (s.part part).saved.filter (fun y => x.node.together y.node)
      let free := core :: ((s.coresOf part).filter (fun c => c != core && unitOf kind c == unitOf kind core
        && s.freeFor part x.node.launch x.node.stage c))
      let cs := free.take xs.length
      let pairs := cs.zip xs
      let draining := (s.busyCores part).any (fun c =>
        let nd := (s.coreAt c).node
        x.node.together nd && (nd.saveAt.isSome || nd.ending.isSome))
      if !s.freeFor part x.node.launch x.node.stage core ∨ cs.length < xs.length ∨ draining
          ∨ !s.classesFit (core / 40) (pairs.map (fun q => s.savedClass part q.2.slot e))
          ∨ pairs.any (fun q => s.restoreHeld part q.1 e q.2.slot) then s
      else
        let gang := if x.node.gang = [] then []
          else cs ++ x.node.gang.filter (fun c => x.node.together (s.coreAt c).node && (s.coreAt c).busy)
        let s1 : State := { s with cores := s.cores.mapVals (fun _ k =>
          if k.busy ∧ x.node.together k.node then
            { k with node := { k.node with gang := gang } } else k) }
        let s1 := s1.updPart part (fun v => { v with saved := v.saved.map (fun y =>
          if xs.any (fun x => x.slot == y.slot) then { y with node := { y.node with gang := gang } } else y) })
        pairs.foldl (fun a q =>
          if (a.part part).saved.any (fun y => y.slot == q.2.slot) then a.restoreNode part q.1 e q.2 gang else a) s1
    | _, _ => s)

/-- GO (R382): a write of RTCMD; starts and restores stop, and DISCARD pre-empts the partition as with LONGDISC. -/
def execGo (part : Nat) (value : BitVec 64) (s : State) : Host.Outcome State Fault Refusal :=
  .next (
    if !bitOf value.toNat 0 ∨ (s.part part).going ∨ s.boot.failed then s
    else
      let s1 := s.updPart part (fun v => { v with going := true })
      if bitOf value.toNat 1 then s1.preemptScope part .partition false true else s1)

/-- RANGE_TABLE_ACTIVATION (R381, R382): at the quiet point of a GO. -/
def execRangeTableActivation (part : Nat) (s : State) : Host.Outcome State Fault Refusal :=
  .next (
    if (s.part part).going ∧ s.busyCores part = [] then
      (s.activate part).updPart part (fun v => { v with going := false })
    else s)

end Sys2Proof.Machine
end

