-- ==== Sys2Proof/Machine/Copy.lean ====
section
/-! DEFINITION. C instructions: copies, collective steps, counter arming, raw commands, permits, fences, parameters
and loops (R260 to R271). -/

namespace Sys2Proof.Machine

/-- `ccopy.1d` (R260). -/
def execCcopy1d (t : Tok) (qb slot : BitVec 4) (sl : BitVec 1) (eng : BitVec 3) (s : State) :
    Host.Outcome State Fault Refusal :=
  .next (issueCmd (.ccopy1d t qb slot sl eng) t 1 qb slot sl eng s)

/-- `ccopy.2d` (R260). -/
def execCcopy2d (t : Tok) (qb slot : BitVec 4) (sl : BitVec 1) (eng : BitVec 3) (s : State) :
    Host.Outcome State Fault Refusal :=
  .next (issueCmd (.ccopy2d t qb slot sl eng) t 2 qb slot sl eng s)

/-- `ccopy.3d` (R260). -/
def execCcopy3d (t : Tok) (qb slot : BitVec 4) (sl : BitVec 1) (eng : BitVec 3) (s : State) :
    Host.Outcome State Fault Refusal :=
  .next (issueCmd (.ccopy3d t qb slot sl eng) t 3 qb slot sl eng s)

/-- `cgath` (R261). -/
def execCgath (t : Tok) (qb slot : BitVec 4) (sl : BitVec 1) (eng : BitVec 3) (s : State) :
    Host.Outcome State Fault Refusal :=
  .next (issueCmd (.cgath t qb slot sl eng) t 4 qb slot sl eng s)

/-- `cscat` (R261). -/
def execCscat (t : Tok) (qb slot : BitVec 4) (sl : BitVec 1) (eng : BitVec 3) (s : State) :
    Host.Outcome State Fault Refusal :=
  .next (issueCmd (.cscat t qb slot sl eng) t 5 qb slot sl eng s)

/-- `cfill` (R262). -/
def execCfill (t : Tok) (qb slot : BitVec 4) (sl : BitVec 1) (eng : BitVec 3) (s : State) :
    Host.Outcome State Fault Refusal :=
  .next (issueCmd (.cfill t qb slot sl eng) t 6 qb slot sl eng s)

/-- `cradd` (R263). -/
def execCradd (t : Tok) (qb slot : BitVec 4) (sl : BitVec 1) (eng : BitVec 3) (s : State) :
    Host.Outcome State Fault Refusal :=
  .next (issueCmd (.cradd t qb slot sl eng) t 7 qb slot sl eng s)

/-- `cfput` (R264). -/
def execCfput (t : Tok) (qb slot : BitVec 4) (sl : BitVec 1) (eng : BitVec 3) (s : State) :
    Host.Outcome State Fault Refusal :=
  .next (issueCmd (.cfput t qb slot sl eng) t 8 qb slot sl eng s)

/-- `cfget` (R264). -/
def execCfget (t : Tok) (qb slot : BitVec 4) (sl : BitVec 1) (eng : BitVec 3) (s : State) :
    Host.Outcome State Fault Refusal :=
  .next (issueCmd (.cfget t qb slot sl eng) t 9 qb slot sl eng s)

/-- `crs` (R265). -/
def execCrs (t : Tok) (qb slot : BitVec 4) (sl : BitVec 1) (eng : BitVec 3) (s : State) :
    Host.Outcome State Fault Refusal :=
  .next (issueCmd (.crs t qb slot sl eng) t 10 qb slot sl eng s)

/-- `cag` (R265). -/
def execCag (t : Tok) (qb slot : BitVec 4) (sl : BitVec 1) (eng : BitVec 3) (s : State) :
    Host.Outcome State Fault Refusal :=
  .next (issueCmd (.cag t qb slot sl eng) t 11 qb slot sl eng s)

/-- `carm` (R266). -/
def execCarm (t : Tok) (qb : BitVec 4) (eng : BitVec 3) (s : State) : Host.Outcome State Fault Refusal :=
  .next (issueCmd (.carm t qb eng) t 12 qb 0 0 eng s)

/-- The scratchpad offset of `csend` (R267). -/
def Core.csendOff (k : Core) (qa : BitVec 4) : Nat := spOff (k.getQ qa)

/-- The checks of `csend` (R253, R267). -/
def State.csendCheck (s : State) (qa : BitVec 4) (eng : BitVec 3) : Check :=
  let o := s.me.csendOff qa
  let b := s.me.recordAt o
  Check.all [misaligned o 16, s.spanCheck o 128, rawCheck b, s.cmdCheck (bytesCmd b) false, s.roomCheck eng]

/-- `csend` (R267). -/
def execCsend (t : Tok) (qa : BitVec 4) (eng : BitVec 3) (s : State) : Host.Outcome State Fault Refusal :=
  .next (issueC (.csend t qa eng) t noCheck (fun b => b.csendCheck qa eng)
    (fun b => b.handOff t (bytesCmd (b.me.recordAt (b.me.csendOff qa))) false eng) s)

/-- `cfence` (R269). -/
def execCfence (t : Tok) (s : State) : Host.Outcome State Fault Refusal :=
  .next (issueC (.cfence t) t noCheck noCheck
    (fun b => State.cSettle (b.updMe (fun k => k.enterC t false true false (k.pc4 .C)))) s)

/-- Permits added to a slot, saturating at 65,535 (R69, R268). -/
def permitAdd (w : Word) (n : Nat) : Word := putField w 35 16 (min 65535 (field w.toNat 35 16 + n))

/-- `cpermit` (R268). -/
def execCpermit (t : Tok) (slot : BitVec 4) (n1 : BitVec 12) (s : State) : Host.Outcome State Fault Refusal :=
  .next (issueParamC (.cpermit t slot n1) t
    (fun b => Check.trapIf (!bitOf (vget b.me.lslt slot.toNat 0).toNat 63) 0x07 (slot.setWidth 64))
    (fun k => { k with lslt := vset k.lslt slot.toNat (permitAdd (vget k.lslt slot.toNat 0) (n1.toNat + 1)) }) cNext s)

/-- `qli` (R271). -/
def execQli (t : Tok) (qd : BitVec 4) (imm : BitVec 16) (s : State) : Host.Outcome State Fault Refusal :=
  .next (issueParamC (.qli t qd imm) t noCheck (fun k => k.setQ qd (imm.signExtend 32)) cNext s)

/-- `qlih` (R271). -/
def execQlih (t : Tok) (qd : BitVec 4) (imm : BitVec 16) (s : State) : Host.Outcome State Fault Refusal :=
  .next (issueParamC (.qlih t qd imm) t noCheck (fun k => k.setQ qd (imm ++ (k.getQ qd).setWidth 16)) cNext s)

/-- `qaddi` (R271). -/
def execQaddi (t : Tok) (qd qa : BitVec 4) (imm : BitVec 14) (s : State) : Host.Outcome State Fault Refusal :=
  .next (issueParamC (.qaddi t qd qa imm) t noCheck (fun k => k.setQ qd (k.getQ qa + imm.signExtend 32)) cNext s)

/-- `qadd` (R271). -/
def execQadd (t : Tok) (qd qa qb : BitVec 4) (s : State) : Host.Outcome State Fault Refusal :=
  .next (issueParamC (.qadd t qd qa qb) t noCheck (fun k => k.setQ qd (k.getQ qa + k.getQ qb)) cNext s)

/-- The scratchpad offset of `qlds` (R240, R271). -/
def Core.qldsAddr (k : Core) (qa : BitVec 4) (imm : BitVec 14) : Nat := (k.getQ qa + 4 * imm.signExtend 32).toNat

/-- `qlds` (R240, R271): misalignment, range, poison; then the word. -/
def execQlds (t : Tok) (qd qa : BitVec 4) (imm : BitVec 14) (s : State) : Host.Outcome State Fault Refusal :=
  .next (issueParamC (.qlds t qd qa imm) t
    (fun b =>
      let a := b.me.qldsAddr qa imm
      Check.all [misaligned a 4, passesEnd [(a, 4)], if b.me.winPoison.contains (a / 16) then .poison 1 a else .pass])
    (fun k => k.setQ qd (BitVec.ofNat 32 (k.window.readNat (k.qldsAddr qa imm) 4))) cNext s)

/-- `qloop` (R240, R271). -/
def execQloop (t : Tok) (qa : BitVec 4) (off : BitVec 18) (s : State) : Host.Outcome State Fault Refusal :=
  .next (issueParamC (.qloop t qa off) t noCheck (fun k => k.setQ qa (k.getQ qa - 1))
    (fun k => if k.getQ qa - 1 ≠ 0 then (k.strand .C).pc + 4 * off.signExtend 64 else cNext k) s)

/-- `nend` of the C strand (R248, R270): the strand fetches nothing more, and it retires when every earlier C
instruction has completed. -/
def execNendC (t : Tok) (s : State) : Host.Outcome State Fault Refusal :=
  .next (issueC (.nendC t) t noCheck noCheck
    (fun b => State.cSettle (b.updMe (fun k =>
      (k.enterC t false true true (k.pc4 .C)).updStrand .C (fun x => { x with cond := .ending, since := b.cycle })))) s)

end Sys2Proof.Machine
end

