-- ==== Sys2Proof/Machine/SolveRun.lean ====
section
/-! DEFINITION. The solve controller at work (R398 to R410): products, preconditioners, the two methods, deadlines,
the verify product and the end. Vectors stand in the work area in the order of `vecAt` (DESIGN CHOICE, log 23). -/

namespace Sys2Proof.Machine

/-- A fault of a solve (R410): cause, where the manual gives one, and address. -/
structure SolveFault where
  cause : Option Nat
  addr  : Nat
  deriving DecidableEq, Repr

/-- FP32 words of a vector. -/
abbrev FVec := List Nat

/-- The number that n bytes within one sector hold, as a controller reads them for partition p (R409, R410). -/
def State.ctlPart (s : State) (p a n : Nat) : Except SolveFault Nat :=
  match s.entryOf p a with
  | none => .error ⟨some 0x06, a⟩
  | some e =>
    if !e.r then .error ⟨some 0x07, a⟩
    else
      let go (pa : Nat) : Except SolveFault Nat :=
        if s.poison.contains (pa / 16) then .error ⟨some 0x20, a⟩ else .ok (s.memNat pa n)
      match s.placeOf p e a with
      | .dram pa => go pa
      | .host pa => if s.hostGone (.host pa) then .error ⟨some 0x20, a⟩ else go pa
      | .pool pa => if (s.portOf (fabricWindow pa)).isNone then .error ⟨some 0x06, a⟩ else go pa
      | .window c off =>
        if !s.owns p c then .error ⟨some 0x07, a⟩
        else if windowReserved off then .error ⟨some 0x06, a⟩
        else if (s.coreAt c).winPoison.contains (off / 16) then .error ⟨some 0x20, a⟩
        else .ok (leNat ((List.range n).map (fun i => (s.coreAt c).windowByte (off + i))))
      | .peer _ | .scratch _ => .error ⟨some 0x07, a⟩

/-- A word that a controller reads for partition p: ROWPTR, COLIDX and the point lists may be unaligned (R396), and then each
sector that the word lies in is translated, and meets poison, for itself. -/
def State.ctlWord (s : State) (p a : Nat) : Except SolveFault Nat :=
  let n := 16 - a % 16
  if 4 ≤ n then s.ctlPart p a 4
  else match s.ctlPart p a n, s.ctlPart p (a + n) (4 - n) with
    | .ok lo, .ok hi => .ok (lo + hi * 256 ^ n)
    | .error f, _ | .ok _, .error f => .error f

/-- n words from an address. -/
def State.ctlWords (s : State) (p a n : Nat) : Except SolveFault FVec :=
  (List.range n).mapM (fun i => s.ctlWord p (a + 4 * i))

/-- Bytes that a controller writes at a virtual address, sector by sector (R400, R410). -/
def State.ctlPut (s : State) (p a : Nat) (b : List Byte) : State :=
  (sectorSplit a (b.map some)).foldl (fun x e => match x.entryOf p e.1 with
    | some r => x.sectorWrite p (x.redirect (x.physAt p r (e.1 - r.base))) e.2 false
    | none => x) s

/-- A vector written. -/
def State.putVec (s : State) (p a : Nat) (v : FVec) : State := s.ctlPut p a (packWords 4 v)

/-- The vectors of the work area: XA and XB, then r, p, q, z under CG and r, rh, p, v, s, t, ph, sh under BiCGSTAB. -/
def vecAt (h : List Byte) (i : Nat) : Nat := svWork h + 4 * svN h * i

/-- First byte of the preconditioner in the work area. -/
def precAt (h : List Byte) : Nat := vecAt h (svVecs h)

/-- The controllers' runs of strips (R408): first row and one past the last, for each stack in ascending order. -/
def stripRuns (h : List Byte) : List (Nat × Nat) :=
  let n := svN h
  let strips := ceilDiv n 64
  let m := (svStackList h).length
  (List.range m).map (fun i =>
    let lo := i * (strips / m) + min i (strips % m)
    let hi := (i + 1) * (strips / m) + min (i + 1) (strips % m)
    (min n (64 * lo), min n (64 * hi)))

/-- A pairwise tree over a list whose length is a power of two (R35). -/
def pairTree (f : Nat → Nat → Nat) : Nat → List Nat → Nat
  | 0, l => l.headD 0
  | k + 1, l => pairTree f k ((List.range (l.length / 2)).map (fun i => f (l.getD (2 * i) 0) (l.getD (2 * i + 1) 0)))

/-- FP64 addition. -/
def add64 (a b : Nat) : Nat := Fmt.f64.op2 .rne FVal.add a b
/-- FP64 multiplication. -/
def mul64 (a b : Nat) : Nat := Fmt.f64.op2 .rne FVal.mul a b
/-- FP64 division. -/
def div64 (a b : Nat) : Nat := Fmt.f64.op2 .rne FVal.div a b
/-- An FP64 value. -/
def vf64 (b : Nat) : FVal := Fmt.f64.decode b
/-- FP64 negation. -/
def neg64 (a : Nat) : Nat := Fmt.f64.round .rne (vf64 a).neg
/-- FP64 bits of an FP32 word, exactly. -/
def wide (b : Nat) : Nat := Fmt.f64.round .rne (vf32 b)
/-- The NaN that results are written as. -/
def nan64 : Nat := Fmt.f64.nanBits
/-- FP64 one. -/
def one64 : Nat := Fmt.f64.round .rne (FVal.ofInt 1)

/-- The partial dot product of rows lo to hi − 1 (R401). -/
def dotRun (u w : FVec) (lo hi : Nat) : Nat :=
  pairTree add64 6 ((List.range 64).map (fun l =>
    ((List.range hi).filter (fun i => decide (lo ≤ i) && i % 64 == l)).foldl (fun a i =>
      Fmt.f64.round .rne (((vf32 (u.getD i 0)).mul (vf32 (w.getD i 0))).add (vf64 a))) 0))

/-- dot(u, w): partials of the controllers added in ascending stack order (R401, R408). -/
def dot (h : List Byte) (u w : FVec) : Nat :=
  match (stripRuns h).map (fun r => dotRun u w r.1 r.2) with
  | [] => 0
  | a :: t => t.foldl add64 a

/-- nrm(u) (R401). -/
def nrm (h : List Byte) (u : FVec) : Nat := Fmt.f64.round .rne (vf64 (dot h u u)).sqrt

/-- u[i] + a × w[i], formed exactly and rounded once (R401). -/
def axpy (u : FVec) (a : Nat) (w : FVec) : FVec :=
  (u.zip w).map (fun e => rf32 ((vf32 e.1).add ((vf64 a).mul (vf32 e.2))))

/-- b[i] − y[i], each rounded (R402). -/
def residual (b y : FVec) : FVec := (b.zip y).map (fun e => rf32 ((vf32 e.1).sub (vf32 e.2)))

/-- ENTRY of the controller's canvas at (i, j) under its exception policy (R236, R320, R321). -/
def State.solveEntry (s : State) (v : Solver) (i j : Nat) : Except SolveFault Nat :=
  let r := v.canvas.record
  match s.ctlWords v.part (cvRows r + 4 * cvDim r * i) (cvDim r), s.ctlWords v.part (cvCols r + 4 * cvDim r * j) (cvDim r) with
  | .error f, _ => .error f
  | _, .error f => .error f
  | .ok p, .ok q =>
    let e := Sys2Proof.Machine.entryOf v.canvas { consts := cvConsts r, p := p, q := q, i := i, j := j }
    .ok (entryPolicy r e.1 (entryClass e.1 e.2 none))

/-- A fused sum over (entry, word) pairs, ascending from +0 (R238). -/
def fusedSum (l : List (Nat × Nat)) : Nat :=
  l.foldl (fun a e => rf32 (((vf32 e.1).mul (vf32 e.2)).add (vf32 a))) 0

/-- One block of a product: its first row and its partial vector t (R320, R401). -/
def State.blockPart (s : State) (v : Solver) (w : FVec) (k : Nat) : Except SolveFault (Nat × FVec) :=
  let n := svN v.head
  if svForm v.head = 1 then
    let nb := ceilDiv n 64
    let row := 64 * (k / nb)
    let col := 64 * (k % nb)
    ((List.range (min 64 (n - row))).mapM (fun i =>
      ((List.range (min 64 (n - col))).mapM (fun j => (s.solveEntry v (row + i) (col + j)).map (fun e => (e, w.getD (col + j) 0)))).map
        fusedSum)).map (fun t => (row, t))
  else
    match s.ctlWords v.part (bsRowptr v.desc) (bsNb v.desc + 1), s.ctlWord v.part (bsColidx v.desc + 4 * k) with
    | .error f, _ => .error f
    | _, .error f => .error f
    | .ok ptr, .ok c =>
      let row := ((List.range (bsNb v.desc)).find? (fun i => decide (ptr.getD i 0 ≤ k) && decide (k < ptr.getD (i + 1) 0))).getD 0
      if bsNb v.desc ≤ c then .error ⟨none, bsColidx v.desc + 4 * k⟩
      else
        ((List.range 64).mapM (fun i => (s.ctlWords v.part (bsVals v.desc + 16384 * k + 256 * i) 64).map (fun l =>
          fusedSum (l.zip ((w.drop (64 * c)).take 64))))).map (fun t => (64 * row, t))

/-- Number of blocks of a product. -/
def Solver.blocks (v : Solver) : Nat :=
  if svForm v.head = 1 then ceilDiv (svN v.head) 64 * ceilDiv (svN v.head) 64 else bsNnzb v.desc

/-- ROWPTR ascends from 0 to NNZB (R410). -/
def State.rowptrBad (s : State) (v : Solver) : Option SolveFault :=
  if svForm v.head = 1 then none
  else match s.ctlWords v.part (bsRowptr v.desc) (bsNb v.desc + 1) with
    | .error f => some f
    | .ok l =>
      if l.headD 1 = 0 ∧ l.getLastD 0 = bsNnzb v.desc ∧ (l.zip (l.drop 1)).all (fun e => decide (e.1 ≤ e.2)) then none
      else some ⟨none, bsRowptr v.desc⟩

/-- The order in which the blocks of a product complete: those of a list first, the others after it ascending. -/
def blockOrder (n : Nat) (order : List Nat) : List Nat :=
  let first := (order.filter (fun k => decide (k < n))).foldl (fun l k => if l.contains k then l else l ++ [k]) []
  first ++ (List.range n).filter (fun k => !first.contains k)

/-- The order in which the internal nodes of a product complete: as the controllers' walk contexts have them visited (R408);
blocks of different runs share no row. -/
def State.walkOrder (s : State) (v : Solver) : List Nat :=
  (svStackList v.head).flatMap (fun k => (s.solvers.get k Solver.reset).walk.points.map (·.1))

/-- y := A·w, its blocks in the order of the walk contexts (R320, R401, R408). -/
def State.product (s : State) (v : Solver) (w : FVec) : Except SolveFault FVec :=
  match s.rowptrBad v with
  | some f => .error f
  | none =>
    ((blockOrder v.blocks (s.walkOrder v)).mapM (s.blockPart v w)).map (fun parts =>
      let y0 : FVec := List.replicate (svN v.head) 0
      let y := parts.foldl (fun (y : FVec) q => y.zipIdx.map (fun e =>
        if q.1 ≤ e.2 ∧ e.2 < q.1 + q.2.length then rf32 ((vf32 e.1).add (vf32 (q.2.getD (e.2 - q.1) 0))) else e.1)) y0
      if svForm v.head = 1 then
        (y.zip w).map (fun e => rf32 (((vf32 (svShift v.head)).mul (vf32 e.2)).add (vf32 e.1)))
      else y)

/-- The entry (i, j) of the matrix that a preconditioner takes, with the shift on the diagonal (R321, R405); a COLIDX of NB or
more among the row's blocks is a fault (R410). -/
def State.precEntry (s : State) (v : Solver) (i j : Nat) : Except SolveFault Nat :=
  if svForm v.head = 1 then
    (s.solveEntry v i j).map (fun e => if i = j then rf32 ((vf32 e).add (vf32 (svShift v.head))) else e)
  else
    match s.ctlWords v.part (bsRowptr v.desc) (bsNb v.desc + 1) with
    | .error f => .error f
    | .ok ptr =>
      let row := i / 64
      let ks := (List.range (ptr.getD (row + 1) 0 - ptr.getD row 0)).map (ptr.getD row 0 + ·)
      match ks.mapM (fun k => (s.ctlWord v.part (bsColidx v.desc + 4 * k)).map (fun c => (k, c))) with
      | .error f => .error f
      | .ok l => match l.find? (fun e => decide (bsNb v.desc ≤ e.2)), l.find? (fun e => e.2 == row) with
        | some e, _ => .error ⟨none, bsColidx v.desc + 4 * e.1⟩
        | none, some e => s.ctlWord v.part (bsVals v.desc + 16384 * e.1 + 256 * (i % 64) + 4 * (j % 64))
        | none, none => .ok 0

/-- A diagonal entry as Jacobi takes it, and whether it was replaced (R405). -/
def jacobiEntry (d : Nat) : Nat × Bool :=
  if (vf32 d).isZero ∨ !(vf32 d).isFin then (0x3F800000, true) else (d, false)

/-- |a| < |b| of FP64 words. -/
def absLt (a b : Nat) : Bool := (vf64 a).abs.lt (vf64 b).abs

/-- Elimination of one column (R405): the rows after it, or nothing where the unit is replaced. -/
def elimCol (thr : FVal) (d : List FVec) (perm : List Nat) (c : Nat) : Option (List FVec × List Nat) :=
  let piv := (List.range 16).foldl (fun b m => if c < m ∧ absLt ((d.getD b []).getD c 0) ((d.getD m []).getD c 0) then m else b) c
  let swap {α : Type} (l : List α) : List α := match l[c]?, l[piv]? with
    | some a, some b => (l.set c b).set piv a
    | _, _ => l
  let d1 := swap d
  let p1 := swap perm
  let row := d1.getD c []
  let pv := row.getD c 0
  if (vf64 pv).isZero ∨ (vf64 pv).abs.lt thr then none
  else
    let d2 := d1.zipIdx.map (fun e =>
      if e.2 ≤ c then e.1
      else
        let f := div64 (e.1.getD c 0) pv
        e.1.zipIdx.map (fun x => if x.2 < c then x.1 else if x.2 = c then f else add64 x.1 (neg64 (mul64 f (row.getD x.2 0)))))
    if (d2.drop (c + 1)).all (fun r => (r.drop c).all (fun x => (vf64 x).isFin)) then some (d2, p1) else none

/-- The factors of a 16×16 unit with the row order, or nothing where it is replaced (R405). -/
def factor (d : List FVec) : Option (List FVec × List Nat) :=
  let norms := d.map (fun r => r.foldl (fun a x => add64 a (Fmt.f64.round .rne (vf64 x).abs)) 0)
  let mx := norms.foldl (fun a x => Fmt.f64.op2 .rne FVal.max a x) 0
  let thr := (vf64 mx).mul (.fin false 1 (-100))
  (List.range 16).foldl (fun st c => st.bind (fun x => elimCol thr x.1 x.2 c)) (some (d, List.range 16))

/-- M(u) for one factored unit (R405): forward and back substitution in FP64, in ascending index order (DEDUCED,
log 24). -/
def luSolve (lu : List FVec) (perm : List Nat) (u : FVec) : FVec :=
  let sub (row : FVec) (l : List Nat) (y : FVec) (a : Nat) : Nat :=
    l.foldl (fun b j => add64 b (neg64 (mul64 (row.getD j 0) (y.getD j 0)))) a
  let y := (List.range 16).foldl (fun (y : FVec) i =>
    y ++ [sub (lu.getD i []) (List.range i) y (wide (u.getD (perm.getD i 0) 0))]) []
  let z := (List.range 16).foldl (fun (z : FVec) i0 =>
    let i := 15 - i0
    let row := lu.getD i []
    z.set i (div64 (sub row ((List.range 16).filter (fun j => decide (i < j))) z (y.getD i 0)) (row.getD i 0))) (List.replicate 16 0)
  z.map (fun x => rf32 (vf64 x))

/-- A unit's bytes in the work area: 256 FP64 words of the factors, or 16 of the replaced diagonal; then the row
order, and 16 bytes that say whether it was replaced. -/
def unitBytes (x : Option (List FVec × List Nat)) (diag : FVec) : List Byte :=
  match x with
  | some (d, p) => padTo 2112 (packWords 8 d.flatten ++ packWords 1 p)
  | none => padTo 2112 (padTo 2064 (packWords 8 (diag.map wide)) ++ [1])

/-- SETUP (R405, R321): the preconditioner is written; the replaced units. A ROWPTR that does not ascend from 0 to NNZB is a
fault here as in a product (R410). -/
def State.buildPrec (s : State) (v : Solver) : Except SolveFault (State × List Nat) :=
  let h := v.head
  let n := svN h
  let bad := s.rowptrBad v
  if svPrec h = 0 then .ok (s, [])
  else if bad.isSome then .error (bad.getD ⟨none, 0⟩)
  else if svPrec h = 1 then
    ((List.range n).mapM (fun i => s.precEntry v i i)).map (fun d =>
      let e := d.map jacobiEntry
      (s.putVec v.part (precAt h) (e.map (·.1)), (e.zipIdx.filter (fun x => x.1.2)).map (·.2)))
  else
    ((List.range (n / 16)).mapM (fun u =>
      ((List.range 16).mapM (fun i => (List.range 16).mapM (fun j => s.precEntry v (16 * u + i) (16 * u + j)))).map (fun blk =>
        let f := factor (blk.map (fun r => r.map wide))
        let diag := blk.zipIdx.map (fun r => (jacobiEntry (r.1.getD r.2 0)).1)
        (unitBytes f diag, f.isNone)))).map (fun us =>
      (s.ctlPut v.part (precAt h) (us.flatMap (·.1)), (us.zipIdx.filter (fun x => x.1.2)).map (·.2)))

/-- FP64 words of the work area. -/
def State.ctlDoubles (s : State) (p a n : Nat) : Except SolveFault FVec :=
  (s.ctlWords p a (2 * n)).map (fun l => (List.range n).map (fun i => l.getD (2 * i) 0 + l.getD (2 * i + 1) 0 * 2 ^ 32))

/-- M(u) (R405). -/
def State.precond (s : State) (v : Solver) (u : FVec) : Except SolveFault FVec :=
  let h := v.head
  let n := svN h
  if svPrec h = 0 then .ok u
  else if svPrec h = 1 then
    (s.ctlWords v.part (precAt h) n).map (fun d => (u.zip d).map (fun e => rf32 ((vf32 e.1).div (vf32 e.2))))
  else
    ((List.range (n / 16)).mapM (fun k =>
      let a := precAt h + 2112 * k
      let w := (u.drop (16 * k)).take 16
      if v.replaced.contains k then
        (s.ctlDoubles v.part a 16).map (fun d => (w.zip d).map (fun e => rf32 ((vf32 e.1).div (vf64 e.2))))
      else
        match s.ctlDoubles v.part a 256, s.ctlWords v.part (a + 2048) 4 with
        | .error f, _ => .error f
        | _, .error f => .error f
        | .ok lu, .ok pw =>
          let perm := (List.range 16).map (fun i => field (pw.getD (i / 4) 0) (8 * (i % 4)) 8)
          .ok (luSolve ((List.range 16).map (fun i => (lu.drop (16 * i)).take 16)) perm w))).map List.flatten

/-- A controller's state set. -/
def State.setSolver (s : State) (k : Nat) (v : Solver) : State := { s with solvers := s.solvers.set k v }

/-- An ending (R399, R407): status, then the verify product or the writing of the results. -/
def Solver.ends (v : Solver) (status : Nat) : Solver :=
  { v with status := status, phase := if svVerify v.head ∧ status ≠ 4 ∧ status ≠ 5 ∧ status ≠ 8 then .verify else .finishing }

/-- A fault ends the solve with a record (R410, R444); a cause that the manual does not give is a free value. -/
def State.solveFault (s : State) (k : Nat) (v : Solver) (f : SolveFault) : State :=
  let nd := (s.coreAt v.core).node
  let r : ErrRec :=
    { kind := 8, cause := f.cause.getD (s.freeVal.toNat % 256), launch := v.launch, stage := nd.stage, core := v.core,
      addr := BitVec.ofNat 64 f.addr, arg := v.addr }
  let s1 := s.report v.part r
  (if f.cause.isNone then s1.useFree else s1).setSolver k (v.ends 8)

/-- What a controller reads in a phase (R409): its work area, b in START and in the verify product, and the arrays of the
matrix. -/
def Solver.inputs (v : Solver) : List (Nat × Nat) :=
  let h := v.head
  let r := v.canvas.record
  [(svWork h, svWorkLen h)] ++ (if v.phase = .start ∨ v.phase = .verify then [(svB h, 4 * svN h)] else [])
    ++ (if svForm h = 1 then [(cvRows r, 4 * cvDim r * cvNrows r), (cvCols r, 4 * cvDim r * cvNcols r)]
      else [(bsRowptr v.desc, 4 * (bsNb v.desc + 1)), (bsColidx v.desc, 4 * bsNnzb v.desc), (bsVals v.desc, 16384 * bsNnzb v.desc)])

/-- Lines of a controller's inputs that the host holds are recalled (R420). -/
def State.recallInputs (s : State) (v : Solver) : State := v.inputs.foldl (fun a e => a.askVirt v.part e.1 e.2) s

/-- The first row of a block of a product. -/
def State.blockRow (s : State) (v : Solver) (k : Nat) : Nat :=
  if svForm v.head = 1 then 64 * (k / ceilDiv (svN v.head) 64)
  else match s.ctlWords v.part (bsRowptr v.desc) (bsNb v.desc + 1) with
    | .ok ptr => 64 * ((List.range (bsNb v.desc)).find? (fun i => decide (ptr.getD i 0 ≤ k) && decide (k < ptr.getD (i + 1) 0))).getD 0
    | .error _ => 0

/-- The cores on which the controller of a stack runs its internal nodes: those of the partition there that are not held
(R384, R408). -/
def State.solveCores (s : State) (v : Solver) (stack : Nat) : List Nat :=
  (s.coresOf v.part).filter (fun c => c / 40 == stack && !(s.part v.part).holds.contains (.core c))

/-- The core of a block's internal node: one of those in turn (DESIGN CHOICE, log 57). -/
def State.blockCore (s : State) (v : Solver) (stack b : Nat) : Nat :=
  let l := s.solveCores v stack
  l.getD (b % l.length) 0

/-- The stack whose controller's run holds a row. -/
def runStack (h : List Byte) (row : Nat) : Nat :=
  ((((svStackList h).zip (stripRuns h)).find? (fun e => decide (e.2.1 ≤ row) && decide (row < e.2.2))).map (·.1)).getD 0

/-- A product's internal nodes run (R342, R408): each controller hands the blocks of its run out through its stack's fifth
walk context, to cores of the partition there, and they are visited as they complete, in a given order. -/
def State.productWalks (s : State) (v : Solver) (order : List Nat) : State :=
  let rows := (blockOrder v.blocks order).map (fun b => (b, s.blockRow v b))
  ((svStackList v.head).zip (stripRuns v.head)).foldl (fun a e =>
    let own := (rows.filter (fun r => decide (e.2.1 ≤ r.2) && decide (r.2 < e.2.2))).map (·.1)
    a.setSolver e.1 { a.solver e.1 with
      ran := own.map (fun b => (b, s.blockCore v e.1 b)),
      walk := { Walk.reset with state := .closed, part := v.part, launch := v.launch, cursor := v.blocks,
                                points := own.map (fun b => (b, .visited)) } }) s

/-- Does the product under way have an internal node of a number: its block, or past the block count one of the second product
of a BiCGSTAB iteration (R403)? SETUP has none. -/
def Solver.hasNode (v : Solver) (n : Nat) : Bool :=
  match v.phase with
  | .start | .verify => decide (n < v.blocks)
  | .iterate => decide (n < (if svMethod v.head = 0 then 1 else 2) * v.blocks)
  | _ => false

/-- An internal node of a solve meets an uncorrectable error or a divergence (R410): that node is rolled back and runs again on
its core, whose rollbacks Newt counts (R466), up to three attempts, and then the solve faults. -/
def State.solveNodeError (s : State) (k n : Nat) (divergence : Bool) : State :=
  let v := s.solver k
  let tries := v.tries.get n 0 + 1
  let b := n % v.blocks
  let c := s.blockCore v (runStack v.head (s.blockRow v b)) b
  if !v.hasNode n then s
  else if tries < 3 then
    State.count { s.setSolver k { v with tries := v.tries.set n tries } with coreTally := s.coreTally.set c (s.coreTally.get c 0 + 1) }
      v.part 0x0008
  else s.solveFault k { v with tries := [] } ⟨some (if divergence then 0x21 else 0x20), 0⟩

/-- Is every scalar finite (R404)? -/
def allFin (l : List Nat) : Bool := l.all (fun x => (vf64 x).isFin)

/-- rn ≤ TOL × bn. -/
def Solver.converged (v : Solver) (rn : Nat) : Bool := (vf64 rn).le (vf64 (mul64 (svTol v.head) v.bn.toNat))

/-- "Iteration k complete" (R404): the best, then CONVERGED and MAXIT; `buf` is the buffer that holds the iterate. -/
def Solver.complete (v : Solver) (rn : Nat) (buf : Bool) : Solver :=
  let k := v.iter + 1
  let better := (vf64 rn).lt (vf64 v.bestRn.toNat)
  let v1 : Solver :=
    { v with
      iter := k, rn := BitVec.ofNat 64 rn, curBest := better, bestBuf := if better then buf else v.bestBuf,
      bestRn := if better then BitVec.ofNat 64 rn else v.bestRn, bestIter := if better then k else v.bestIter }
  if v1.converged rn then v1.ends 1 else if svMaxit v.head ≤ k then v1.ends 2 else v1

/-- x_0: zero, or the words that were read as the solve began (R402, R409). -/
def Solver.xZero (v : Solver) : FVec :=
  if svX0Zero v.head then List.replicate (svN v.head) 0 else (List.range (svN v.head)).map (fun i => leAt v.x0 (4 * i) 4)

/-- START (R402): x_0 into XA, r_0, the norms; a residual within the tolerance ends the solve. -/
def State.solveStart (s : State) (k : Nat) (v : Solver) : State :=
  let h := v.head
  let n := svN h
  let r0 : Except SolveFault (FVec × FVec × FVec) := do
    let x := v.xZero
    let y ← s.product v x
    let b ← s.ctlWords v.part (svB h) n
    .ok (x, b, residual b y)
  match r0 with
  | .error f => s.solveFault k { v with iter := 0, bestBuf := false } f
  | .ok (x, b, r) =>
    let s1 := (s.putVec v.part (vecAt h 0) x).putVec v.part (vecAt h 2) r
    let rn := nrm h r
    let bn := nrm h b
    let v1 : Solver :=
      { v with
        phase := .setup, tmv := s.gtc - v.gtcAcc, rn := BitVec.ofNat 64 rn, bn := BitVec.ofNat 64 bn,
        bestBuf := false, bestRn := BitVec.ofNat 64 rn, bestIter := 0, curBest := true, known := true }
    s1.setSolver k (if !allFin [rn, bn] then v1.ends 7 else if v1.converged rn then v1.ends 1 else v1)

/-- SETUP, and the scalars and vectors that stand before the first iteration (R402, R403, R405). -/
def State.solveSetup (s : State) (k : Nat) (v : Solver) : State :=
  let h := v.head
  let n := svN h
  let p := v.part
  match s.buildPrec v with
  | .error f => s.solveFault k v f
  | .ok (s1, rep) =>
    let v1 : Solver :=
      { v with phase := .iterate, replaced := rep, pivCnt := rep.length, pivFirst := rep.head? }
    match s1.ctlWords p (vecAt h 2) n with
    | .error f => s1.solveFault k v1 f
    | .ok r =>
      if svMethod h = 0 then
        match s1.precond v1 r with
        | .error f => s1.solveFault k v1 f
        | .ok z =>
          let rho := dot h r z
          let s2 := (s1.putVec p (vecAt h 5) z).putVec p (vecAt h 3) z
          s2.setSolver k (if allFin [rho] then { v1 with rho := BitVec.ofNat 64 rho } else v1.ends 7)
      else
        let o : BitVec 64 := BitVec.ofNat 64 one64
        let zero : FVec := List.replicate n 0
        (((s1.putVec p (vecAt h 3) r).putVec p (vecAt h 5) zero).putVec p (vecAt h 4) zero).setSolver k
          { v1 with rho := o, alpha := o, om := o }

/-- Where the current iterate stands, and where the next one goes (R404). -/
def Solver.buffers (v : Solver) : Nat × Nat × Bool :=
  let cur := if v.curBest then v.bestBuf else !v.bestBuf
  (vecAt v.head (b2n cur), vecAt v.head (b2n (!v.bestBuf)), !v.bestBuf)

/-- One iteration of CG (R402). -/
def State.cgStep (s : State) (k : Nat) (v : Solver) : Except SolveFault State := do
  let h := v.head
  let n := svN h
  let pt := v.part
  let (from_, to_, buf) := v.buffers
  let x ← s.ctlWords pt from_ n
  let r ← s.ctlWords pt (vecAt h 2) n
  let p ← s.ctlWords pt (vecAt h 3) n
  let rho := v.rho.toNat
  let q ← s.product v p
  let pq := dot h p q
  if !allFin [pq, rho] then .ok (s.setSolver k (v.ends 7))
  else if (vf64 pq).le FVal.zero ∨ (vf64 rho).isZero then .ok (s.setSolver k (v.ends 6))
  else
    let alpha := div64 rho pq
    let x1 := axpy x alpha p
    let r1 := axpy r (neg64 alpha) q
    let rn := nrm h r1
    if !allFin [alpha, rn] then .ok (s.setSolver k (v.ends 7))
    else
      let s1 := ((s.putVec pt to_ x1).putVec pt (vecAt h 2) r1).putVec pt (vecAt h 4) q
      let v1 := v.complete rn buf
      if v1.phase ≠ .iterate then .ok (s1.setSolver k v1)
      else
        match s1.precond v1 r1 with
        | .error f => .ok (s1.solveFault k v1 f)
        | .ok z =>
          let rho2 := dot h r1 z
          let beta := div64 rho2 rho
          if !allFin [rho2, beta] then .ok (s1.setSolver k (v1.ends 7))
          else
            .ok (((s1.putVec pt (vecAt h 5) z).putVec pt (vecAt h 3) (axpy z beta p)).setSolver k
              { v1 with rho := BitVec.ofNat 64 rho2 })

/-- One iteration of BiCGSTAB (R403); block numbers at or above the block count order the second product. -/
def State.bicgStep (s : State) (k : Nat) (v : Solver) (order : List Nat) : Except SolveFault State := do
  let h := v.head
  let n := svN h
  let pt := v.part
  let (from_, to_, buf) := v.buffers
  let x ← s.ctlWords pt from_ n
  let r ← s.ctlWords pt (vecAt h 2) n
  let rh ← s.ctlWords pt (vecAt h 3) n
  let p ← s.ctlWords pt (vecAt h 4) n
  let vv ← s.ctlWords pt (vecAt h 5) n
  let rho2 := dot h rh r
  if !allFin [rho2] then .ok (s.setSolver k (v.ends 7))
  else if (vf64 rho2).isZero then .ok (s.setSolver k (v.ends 6))
  else
    let beta := mul64 (div64 rho2 v.rho.toNat) (div64 v.alpha.toNat v.om.toNat)
    if !allFin [beta] then .ok (s.setSolver k (v.ends 7))
    else
      let p1 := axpy r beta (axpy p (neg64 v.om.toNat) vv)
      let ph ← s.precond v p1
      let v2 ← s.product v ph
      let rv := dot h rh v2
      if !allFin [rv] then .ok (s.setSolver k (v.ends 7))
      else if (vf64 rv).isZero then .ok (s.setSolver k (v.ends 6))
      else
        let alpha := div64 rho2 rv
        let sv := axpy r (neg64 alpha) v2
        let sn := nrm h sv
        if !allFin [alpha, sn] then .ok (s.setSolver k (v.ends 7))
        else if v.converged sn then
          .ok ((s.putVec pt to_ (axpy x alpha ph)).setSolver k (v.complete sn buf))
        else
          let sh ← s.precond v sv
          let s := s.productWalks v ((order.filter (fun b => decide (v.blocks ≤ b))).map (· - v.blocks))
          let t ← s.product v sh
          let tt := dot h t t
          if !allFin [tt] then .ok (s.setSolver k (v.ends 7))
          else if (vf64 tt).isZero then .ok (s.setSolver k (v.ends 6))
          else
            let om := div64 (dot h t sv) tt
            if !allFin [om] then .ok (s.setSolver k (v.ends 7))
            else if (vf64 om).isZero then .ok (s.setSolver k (v.ends 6))
            else
              let x1 := axpy (axpy x alpha ph) om sh
              let r1 := axpy sv (neg64 om) t
              let rn := nrm h r1
              if !allFin [rn] then .ok (s.setSolver k (v.ends 7))
              else
                let s1 := [(2, r1), (4, p1), (5, v2), (6, sv), (7, t), (8, ph), (9, sh)].foldl (fun (a : State) e =>
                  a.putVec pt (vecAt h e.1) e.2) (s.putVec pt to_ x1)
                let w (b : Nat) : BitVec 64 := BitVec.ofNat 64 b
                .ok (s1.setSolver k ({ v with rho := w rho2, alpha := w alpha, om := w om }.complete rn buf))

/-- Do the internal nodes of a solve run (R410): not while the cap lies below the floor, so that no instruction with a charge
issues (R453), while its partition's scope is held, or every core that they could run on, nor while what they read is held back (R383, R426)? -/
def State.solveRuns (s : State) (v : Solver) : Bool :=
  !s.belowFloor && !s.halted && !s.hot && !s.railsOff && !(s.part v.part).holds.contains .partition
    && (v.phase == .setup || (svStackList v.head).all (fun k => s.solveCores v k != []))
    && !v.inputs.any (fun e => s.virtHeld v.core v.part e.1 e.2)

/-- A step of a solve begins: its inputs are asked for, the internal nodes of its first product run, if it has one, and the
attempts of the next step's nodes count anew. -/
def State.solveBegin (s : State) (k : Nat) (v : Solver) (order : List Nat) : State :=
  let s0 := s.recallInputs v
  let s1 := if v.phase = .setup then s0 else s0.productWalks v order
  s1.setSolver k { s1.solver k with tries := [] }

/-- The GTC at which a solve's deadline acts, if it has one: START and the verify product see DEADLINE itself, the
phases between see D′ (R406). -/
def Solver.deadline (v : Solver) : Option Nat :=
  let d := svDeadline v.head
  if d = 0 then none
  else match v.phase with
    | .setup | .iterate => some (if svVerify v.head then d - v.tmv else d)
    | _ => some d

/-- Has the deadline arrived? -/
def Solver.late (v : Solver) (gtc : Nat) : Bool :=
  match v.deadline with
  | some d => decide (d ≤ gtc)
  | none => false

/-- SOLVE_ITERATION_COMPLETE (R402 to R404): the leading controller of a stack completes a phase whose deadline has
not arrived: START, SETUP or one iteration. -/
def execSolveIterationComplete (stack : Nat) (order : List Nat) (s : State) : Host.Outcome State Fault Refusal :=
  let s0 := s.solveBegin stack (s.solver stack) order
  let v := s0.solver stack
  .next (
    if v.late s.gtc ∨ !s.solveRuns (s.solver stack) then s
    else
      match v.phase with
      | .start => s0.solveStart stack v
      | .setup => s0.solveSetup stack v
      | .iterate =>
        match if svMethod v.head = 0 then s0.cgStep stack v else s0.bicgStep stack v order with
        | .ok s1 => s1
        | .error f => s0.solveFault stack v f
      | _ => s)

/-- SOLVE_DEADLINE (R406, R407). -/
def execSolveDeadline (stack : Nat) (s : State) : Host.Outcome State Fault Refusal :=
  let v := s.solver stack
  .next (
    if !v.late s.gtc then s
    else match v.phase with
      | .start => s.setSolver stack (v.ends 5)
      | .setup => s.setSolver stack
          { v.ends 4 with verified := svVerify v.head, trueres := if svVerify v.head then v.bestRn else 0 }
      | .iterate => s.setSolver stack (v.ends 3)
      | .verify => s.setSolver stack { v with phase := .finishing, verified := false }
      | _ => s)

/-- SOLVE_VERIFY_PRODUCT (R407). -/
def execSolveVerifyProduct (stack : Nat) (order : List Nat) (s : State) : Host.Outcome State Fault Refusal :=
  let b := s.solveBegin stack (s.solver stack) order
  let v := b.solver stack
  let res : Except SolveFault FVec := do
    let x ← b.ctlWords v.part (vecAt v.head (b2n v.bestBuf)) (svN v.head)
    let y ← b.product v x
    let w ← b.ctlWords v.part (svB v.head) (svN v.head)
    .ok (residual w y)
  .next (
    if v.phase ≠ .verify ∨ v.late s.gtc ∨ !s.solveRuns (s.solver stack) then s
    else match res with
      | .error f => b.solveFault stack v f
      | .ok r => b.setSolver stack
          { v with phase := .finishing, verified := true, trueres := BitVec.ofNat 64 (nrm v.head r) })

/-- The result half (R398): RESID and BNORM are NaN under DEADLINE_BEFORE_START, and free values where a fault came
before r_0 was known, which the manual leaves open. -/
def Solver.result (v : Solver) (early : Bool) (gtc : Nat) (f1 f2 : Nat) : List Byte :=
  let resid := if v.status = 5 then nan64 else if early then f1 else v.bestRn.toNat
  let bnorm := if v.status = 5 then nan64 else if early then f2 else v.bn.toNat
  padTo 128 (leBytes 1 v.status ++ leBytes 1 (b2n v.verified + 2 * b2n (v.replaced != [])) ++ zeros 2 ++ leBytes 4 v.iter
    ++ leBytes 8 resid ++ leBytes 8 (if v.verified then v.trueres.toNat else nan64) ++ leBytes 8 bnorm
    ++ leBytes 8 v.gtcAcc ++ leBytes 8 gtc ++ leBytes 4 v.bestIter ++ leBytes 4 v.pivCnt
    ++ leBytes 4 (v.pivFirst.getD 0xFFFFFFFF))

/-- SOLVE_FINISH (R400, R410): first the returned iterate goes to XVEC, unless poison meets its reading, which is a fault;
then the result half is written, CTR counts
it, the controllers are IDLE, and the node no longer waits for the solve. -/
def execSolveFinish (stack : Nat) (s : State) : Host.Outcome State Fault Refusal :=
  let v := s.solver stack
  let h := v.head
  let early : Bool := v.status == 8 && !v.known
  .next (match v.phase with
  | .finishing =>
    let a := vecAt h (b2n v.bestBuf)
    let b := s.recallVirt v.part a (4 * svN h)
    let put (x : FVec) : State := (b.putVec v.part (svX h) x).setSolver stack { v with phase := .writing }
    if s.virtHeld v.core v.part a (4 * svN h) || s.virtHeld v.core v.part (svX h) (4 * svN h) then s
    else if v.status = 5 ∨ early then put v.xZero
    else match b.ctlWords v.part a (svN h) with
      | .ok x => put x
      | .error f =>
        if v.status = 8 then put ((List.range (svN h)).map (fun i => leNat (b.virtBytes v.part (a + 4 * i) 4)))
        else b.solveFault stack v f
  | .writing =>
    if s.virtHeld v.core v.part (v.addr + 0x80) 128 then s else
    let b := v.result early s.gtc s.freeVal.toNat s.useFree.freeVal.toNat
    let s1 := (if early then s.useFree.useFree else s).ctlPut v.part (v.addr + 0x80) b
    let s2 : State := { s1 with solvers := s1.solvers.mapVals (fun k w =>
                                 if k = stack ∨ w.phase = .reserved stack then Solver.reset else w) }
    if (s2.coreAt v.core).node.solving = some stack then
      s2.updCore v.core (fun k =>
        { k.updStrand .S (fun t => { t with since := s.cycle }) with node := { k.node with solving := none } })
    else s2
  | _ => s)

end Sys2Proof.Machine
end

