-- ==== Sys2Proof/Machine/PowerEvents.lean ====
section
/-! DEFINITION. The stack power managers, the package cap and the thermal limits (R446, R449 to R454, R470). -/

namespace Sys2Proof.Machine

/-- Could a request fit with every other core of its stack at class 0 (R446)? -/
def State.fitsAlone (s : State) (k cls : Nat) : Bool :=
  decide (budget cls + ((s.stackCores k).length - 1) * budget 0 ≤ (s.stackPower k).allot * 1000)

/-- A stack manager's state set. -/
def State.setStackPower (s : State) (k : Nat) (m : StackPower) : State := { s with power := s.power.set k m }

/-- A request put into a list in order of arrival (R446). -/
def putRequest : List PacqReq → PacqReq → List PacqReq
  | [], r => [r]
  | a :: t, r => if r.order < a.order then r :: a :: t else a :: putRequest t r

/-- The requests at the head of a stack's queue that can never fit are set aside, each counted once (R446). -/
def State.setAside (k : Nat) : Nat → State → State
  | 0, s => s
  | n + 1, s =>
    let m := s.stackPower k
    match m.queue with
    | [] => s
    | r :: t =>
      if s.fitsAlone k r.cls then s
      else
        let s1 := s.setStackPower k { m with queue := t, aside := putRequest m.aside { r with counted := true } }
        State.setAside k n (if r.counted then s1 else s1.count (s1.coreAt r.core).node.part 0x000F)

/-- PACQ_GRANT (R162, R446): the first request that is not set aside is granted when it fits; its `pacq` then retires
at the strand's next turn. -/
def execPacqGrant (stack : Nat) (s : State) : Host.Outcome State Fault Refusal :=
  let s1 := State.setAside stack (s.stackPower stack).queue.length s
  let m := s1.stackPower stack
  .next (match m.queue with
  | [] => s1
  | r :: t =>
    if s1.grantSum stack (some (r.core, r.cls)) ≤ m.allot * 1000 then
      ((s1.setStackPower stack { m with queue := t }).setClass r.core (BitVec.ofNat 3 r.cls)).updCore r.core (fun k =>
        k.updStrand .S (fun x => { x with cond := match x.cond with
          | .pacq => .ready
          | q => q }))
    else s1)

/-- The allotment of a stack changed (R470): where it rises, set-aside requests that could now fit are considered
again, ahead of the queue (R446). -/
def State.setAllotment (s : State) (k a : Nat) : State :=
  let m := s.stackPower k
  let s1 := s.setStackPower k { m with allot := a }
  if m.allot < a then
    let back := m.aside.filter (fun e => s1.fitsAlone k e.cls)
    s1.setStackPower k { m with allot := a, queue := back ++ m.queue, aside := m.aside.filter (fun e => !s1.fitsAlone k e.cls) }
  else s1

/-- ALLOTMENT_UPDATE (R470): allotments and limits follow the cap, the floors and the grants. -/
def execAllotmentUpdate (s : State) : Host.Outcome State Fault Refusal :=
  .next ((List.range 16).foldl (fun a k => a.setAllotment k (s.allotmentOf k)) s).setAllLimits

/-- Every partition pre-empted as a partition-scope PMCMD would (R453); the hold is the package's own. -/
def State.haltAll (s : State) : State :=
  (s.config.parts.map (·.1)).foldl (fun a p => a.preemptScope p .partition false false) s

/-- The sum of the partitions' floors. -/
def State.floorSum (s : State) : Nat := (s.config.parts.map (fun e => e.2.floor)).sum

/-- The floors under a cap (R452): FSCALE, and each partition counts CAPSCALE where they are scaled. -/
def State.scaleFloors (s : State) (cap : Nat) : State :=
  if cap < s.floorSum then
    (s.config.parts.map (·.1)).foldl (fun a p => a.count p 0x000E) { s with fscale := 100 * cap / s.floorSum }
  else { s with fscale := 100 }

/-- A write of PKCAP (R449, R451 to R453): clamped to 1,700; floors are scaled when they pass the cap; below 190 W every limit
is 0, and with HALT the partitions are to be pre-empted by HALT. -/
def State.writeCap (s : State) (value : BitVec 64) : State :=
  let cap := min (field value.toNat 0 16) 1700
  let s1 : State :=
    { s with
      pkcap := BitVec.ofNat 64 (field value.toNat 63 1 * 2 ^ 63 + cap),
      capSince := s.gtc, belowFloor := decide (cap < 190), halted := s.halted && decide (cap < 190) }
  (s1.scaleFloors cap).setAllLimits

/-- CAPW (R449, R457). -/
def execCapw (value : BitVec 64) (s : State) : Host.Outcome State Fault Refusal :=
  .next (if s.boot.failed then s else s.writeCap value)

/-- HALT (R453): under a cap below the floor, with PKCAP.HALT set, every partition is pre-empted and held. -/
def execHalt (s : State) : Host.Outcome State Fault Refusal :=
  .next (if s.belowFloor ∧ bitOf s.pkcap.toNat 63 ∧ !s.halted then State.haltAll { s with halted := true } else s)

/-- THROT follows the thermal limits in force (R450). -/
def State.markThrot (s : State) : State := { s with throt := s.hot || s.power.any (fun e => decide (0 < e.2.steps)) }

/-- THERMAL_THROTTLE (R454): a stack at 95 °C or more lowers its limits by a tenth, and below 90 °C takes one step back, 100 µs
of GTC after the step before it. -/
def execThermalThrottle (stack temp : Nat) (s : State) : Host.Outcome State Fault Refusal :=
  let m := s.stackPower stack
  let n := if 95 ≤ temp then min 10 (m.steps + 1) else if temp < 90 then m.steps - 1 else m.steps
  let due : Bool := match m.stepped with
    | some t => decide (t + 100000 ≤ s.gtc)
    | none => true
  .next (
    if n = m.steps ∨ !due then s
    else ((s.setStackPower stack { m with steps := n, stepped := some s.gtc }).setLimits stack).markThrot)

/-- THERMAL_HALT (R454): a stack at 105 °C halts the whole package as under R453 with HALT; one below 90 °C asks for the hold
no longer. -/
def execThermalHalt (stack temp : Nat) (s : State) : Host.Outcome State Fault Refusal :=
  .next (
    if 105 ≤ temp then
      let s1 : State := { s with hotStacks := setInsert s.hotStacks stack }
      if s.hot then s1 else (State.setAllLimits (State.haltAll { s1 with hot := true })).markThrot
    else if temp < 90 then { s with hotStacks := setErase s.hotStacks stack }
    else s)

/-- The side-band controller releases the thermal hold, once every stack that asked for it is below 90 °C (R454). -/
def State.releaseHeat (s : State) : State :=
  if s.hot ∧ s.hotStacks = [] then (State.setAllLimits { s with hot := false }).markThrot else s

/-- PAVG as it reads (R450, R451): the average, held at or below the cap from 1 ms after the cap was written, above the idle
floor. -/
def State.pavgReading (s : State) : Nat :=
  let a := s.pavg % 65536
  if s.capSince + 1000000 ≤ s.gtc ∧ !s.belowFloor then min a s.capw else a

/-- THERMAL_POWER_OFF (R454): at 115 °C the rails go off, and only the side-band controller runs. -/
def execThermalPowerOff (_stack temp : Nat) (s : State) : Host.Outcome State Fault Refusal :=
  .next (if 115 ≤ temp then { s with railsOff := true } else s)

end Sys2Proof.Machine
end

