-- ==== Sys2Proof/Machine/Fabric.lean ====
section
/-! DEFINITION. The host port and the fabric ports: host accesses and line requests (R413 to R416, R420), pool
snoops (R421), inbound requests (R418), links, lanes and widths (R411, R424 to R427), error-queue placement (R442). -/

namespace Sys2Proof.Machine

/-- The entry as which decoder p and the inbound space of partition p map (R416, R418): PACKAGE, PBASE 0. -/
def packageEntry : RangeEntry := { w0 := 0, w1 := BitVec.ofNat 64 (2 ^ 63 + 3 * 4), w2 := 0, w3 := 0 }

/-- Bytes of device memory of partition p: its channels × 512 MiB (R416, R418). -/
def State.spaceOf (s : State) (p : Nat) : Nat := (s.coresOf p).length * 2 ^ 29

/-- The physical address behind an offset of that space. -/
def State.spacePa (s : State) (p o : Nat) : Nat := s.redirect (s.physAt p packageEntry o)

/-- The committed decoder that holds n bytes at a host address whole: partition and offset (R416). -/
def State.decoderOf (s : State) (a n : Nat) : Option (Nat × Nat) :=
  (s.hdm.find? (fun e => decide (e.2 ≤ a) && decide (a + n ≤ e.2 + s.spaceOf e.1))).map (fun e => (e.1, a - e.2))

/-- The partition whose inbound space holds n bytes at an offset, and the offset in it (R418). -/
def State.inboundOf (s : State) (off n : Nat) : Option (Nat × Nat) :=
  (s.inb.find? (fun e =>
    let base := field e.2.toNat 30 10 * 2 ^ 30
    bitOf e.2.toNat 63 && decide (base ≤ off) && decide (off + n ≤ base + s.spaceOf e.1))).map (fun e =>
      (e.1, off - field e.2.toNat 30 10 * 2 ^ 30))

/-- The physical sectors behind a run of a partition's space, by their addresses. -/
def State.spaceSectors (s : State) (p o n : Nat) : List Nat := (sectorsOf o n).map (fun sec => s.spacePa p (16 * sec))

/-- What holds an access to a partition's space back: a page under migration (R383), or, where it needs port 0 to send, the
width change of that port (R426). -/
def State.spaceGate (s : State) (p o n : Nat) (sends : Bool) : Gate :=
  if (s.spaceSectors p o n).any s.blocked then .page
  else if sends && (s.ports.get 0 Port.reset).chg then .port 0 none
  else .clear

/-- Bytes of a partition's space as an outside reader sees them, and whether a sector is poisoned. -/
def State.spaceRead (s : State) (p o n : Nat) : List Byte × Bool :=
  ((List.range n).map (fun i => s.mem.read (s.spacePa p (o + i))), (s.spaceSectors p o n).any (fun a => s.poison.contains (a / 16)))

/-- Bytes written into a partition's space, sector by sector, as a write of the partition (R333, R416, R418). -/
def State.spaceWrite (s : State) (p o : Nat) (bytes : List (Option Byte)) : State :=
  (sectorSplit o bytes).foldl (fun a e => a.sectorWrite p (a.spacePa p e.1) e.2 false) s

/-- A read of the host (R416): the data with its poison; poisoned data, whose bytes are zeros (DESIGN CHOICE, log 95), and
HOSTREJ outside every decoder. -/
def State.hostRead (s : State) (addr len : Nat) : State :=
  if !(s.ports.get 0 Port.reset).up then s
  else match s.decoderOf addr len with
    | some (p, o) =>
      match s.spaceGate p o len true with
      | .clear =>
        let r := s.spaceRead p o len
        s.send (.completion 0 r.1 r.2)
      | g => s.join (.hostRead addr len) g
    | none => (s.send (.completion 0 (List.replicate len 0) true)).countPF 0x0031

/-- A write of the host (R300, R416, R420): placed at the home and counted there, behind what the host has written in its
own copy of the line, which it gives back; dropped with HOSTREJ outside every decoder. -/
def State.hostWrite (s : State) (addr : Nat) (bytes : List (Option Byte)) : State :=
  if !(s.ports.get 0 Port.reset).up then s
  else match s.decoderOf addr bytes.length with
    | some (p, o) =>
      match s.spaceGate p o bytes.length false with
      | .clear => State.spaceWrite ((s.spaceSectors p o bytes.length).foldl (fun a x => a.hostBack (x / 128)) s) p o bytes
      | g => s.join (.hostWrite addr bytes) g
    | none => s.countPF 0x0031

/-- The host asks for a line (R412, R420): the directory grants it, recalling the line granted longest ago when it is full,
once no migration blocks that line's page (R383), and an L1 that owned the line owns it no longer (R288); under fallback the host
holds none. -/
def State.hostLine (s : State) (addr : Nat) : State :=
  let p0 := s.ports.get 0 Port.reset
  if !p0.up ∨ p0.fallbk then s
  else match s.decoderOf addr 1 with
    | some (p, o) =>
      let line := s.spacePa p o / 128
      if s.hostDir.any (fun h => h.line == line) then s
      else match s.spaceGate p o 1 true with
        | .clear =>
          let grant (a : State) : State :=
            { a with hostDir := a.hostDir ++ [{ line := line, part := p, dirty := [] }], owners := a.owners.erase line }
          match (if s.hostDir.length < 2097152 then none else s.hostDir.head?) with
          | some h => if s.blocked (128 * h.line) then s.join (.hostLine addr) .page else grant (s.recall h.line)
          | none => grant s
        | g => s.join (.hostLine addr) g
    | none => s.countPF 0x0031

/-- HOST_MEMORY_READ (R416). -/
def execHostMemoryRead (addr len : Nat) (s : State) : Host.Outcome State Fault Refusal := .next (s.hostRead addr len)

/-- HOST_MEMORY_WRITE (R300, R416, R420). -/
def execHostMemoryWrite (addr : Nat) (bytes : List (Option (BitVec 8))) (s : State) : Host.Outcome State Fault Refusal :=
  .next (s.hostWrite addr bytes)

/-- HOST_LINE_REQUEST (R412, R420). -/
def execHostLineRequest (addr : Nat) (s : State) : Host.Outcome State Fault Refusal := .next (s.hostLine addr)

/-- The host writes bytes, by their offsets, of a line that it holds, in its own copy: neither visible nor counted (R420). -/
def State.hostDirty (s : State) (line : Nat) (bytes : List (Nat × Byte)) : State :=
  { s with hostDir := s.hostDir.map (fun h =>
      if h.line = line then
        { h with dirty := (bytes.filter (fun e => decide (e.1 < 128))).foldl (fun t e => Table.set t e.1 e.2) h.dirty }
      else h) }

/-- The host writes a line back that it holds (R420), or the data join the queue of the line's page (R383). -/
def State.hostWriteBack (s : State) (line : Nat) : State :=
  if !(s.ports.get 0 Port.reset).up then s
  else if s.blocked (128 * line) then s.join (.hostBack line) .page
  else s.hostBack line

/-- Caches fill and evict on their own (R7, R147, R288, R346, R421): an L1 of 512 lines, a slice of 16,384 that takes lines
of its own quad's channels and pooled lines, which join the snoop filter as they come in and leave it as they go; a line that comes in is
asked for first, and stays away while that is held back; a line that an L1 takes under a lease no other L1 owns any more. -/
def State.setResidency (s : State) (core : Nat) (l1 : List Nat) (quad : Nat) (l2 fills : List Nat) : State :=
  let own (l : Nat) : Bool := sliceOf (4 * quad) l == some quad
  let keep := ((l2.dedup.filter own).take sliceLines).filter (fun l => s.inL2 (4 * quad) l || s.admits (4 * quad) l)
  let s0 := keep.foldl (fun a l => (a.askLine (4 * quad) l).track l) s
  let lines := (l1.dedup.take l1Lines).filter (fun l => keep.contains l || s0.admits core l)
  let s1 := lines.foldl (fun a l => (if keep.contains l then a else a.askLine core l).track l) s0
  let s2 : State :=
    { s1 with l2 := s1.l2.set quad keep, fills := s1.fills.set quad ((fills.filter own).foldl setInsert []),
              owners := (s1.owners.filter (fun e => e.2 == core || !lines.contains e.1)).filter (fun e => e.2 != core || lines.contains e.1) }
  (s2.updCore core (fun k => { k with l1 := lines })).pruneSnoop

/-- BACK_INVALIDATE_SNOOP (R421): a line of a fabric window is dropped and the snoop answered by the window's port; bytes that
another agent of the pool then writes stand in the pool. -/
def execBackInvalidateSnoop (line : Nat) (bytes : List (Option (BitVec 8))) (s : State) : Host.Outcome State Fault Refusal :=
  .next (
    if 128 * line < 0x100000000000 then s
    else match s.portOf (fabricWindow (128 * line)) with
      | none => s
      | some n => ((s.dropLine line).send (.completion n [] false)).outsideWrite (128 * line) (bytes.take 128) false)

/-- The port by which a request comes, and the bytes that it covers. -/
def reqPort : FabricReq → Nat × Nat
  | .read n len => (n, len)
  | .write n bytes => (n, bytes.length)

/-- A request of another package by a fabric port that is up (R334, R418, R420): mapped into a partition's space, lines that
the host holds recalled, or refused with completer abort. Its answer goes by the same port. -/
def State.inbound (s : State) (off : Nat) (req : FabricReq) : State :=
  let n := (reqPort req).2
  if (reqPort req).1 = 0 ∨ !(s.ports.get (reqPort req).1 Port.reset).up then s
  else match s.inboundOf off n with
  | none => s.send (.completerAbort (reqPort req).1)
  | some (p, o) =>
    match s.spaceGate p o n ((s.spaceSectors p o n).any s.hostHeld) with
    | .clear =>
      match req with
      | .read port len =>
        let b := (s.spaceSectors p o len).foldl (fun a x => a.recall (x / 128)) s
        let r := b.spaceRead p o len
        b.send (.completion port r.1 r.2)
      | .write _ bytes => s.spaceWrite p o bytes
    | g => s.join (.inbound off req) g

/-- INBOUND_FABRIC_REQUEST (R334, R418). -/
def execInboundFabricRequest (off : Nat) (req : FabricReq) (s : State) : Host.Outcome State Fault Refusal :=
  .next (s.inbound off req)

/-- A strand's access that waited in a queue is performed, or joins the queue of what holds it back now. -/
def State.replayStrand (s : State) (c : Nat) (st : Strand) : State :=
  let b : State := { s with core := c }
  match (b.me.strand st).cond with
  | .memory i => match b.memGate i with
    | .clear => b.answer c st
    | g => b.join (.strand c st) g
  | _ => s

/-- An engine's accesses that waited in a queue are performed: a copy goes on, a collective step lands its chunk. -/
def State.replayEngine (s : State) (core id : Nat) (reads lands : List Nat) : State :=
  match s.engines.findSome? (fun e => (e.2.queue.findIdx? (fun m => m.core == core && m.id == id)).map (fun i => (e.1, i))) with
  | some (e, i) => match s.cmdAt e i with
    | some c => if 10 ≤ c.form then s.copyComplete e i else s.copyAdvance e i reads lands
    | none => s
  | none => s

/-- An access that waited in a queue (R383, R426). -/
def State.replay (s : State) : Held → State
  | .strand c st => s.replayStrand c st
  | .hostRead a n => s.hostRead a n
  | .hostWrite a bytes => s.hostWrite a bytes
  | .hostLine a => s.hostLine a
  | .inbound off req => s.inbound off req
  | .engine c id reads lands => s.replayEngine c id reads lands
  | .out m => s.send m
  | .write p pa bytes => s.ownWrite p pa bytes
  | .ring p base logn bytes trace => s.ringPut p base logn bytes trace
  | .hostBack line => s.hostBack (s.redirect (128 * line) / 128)
  | .lease c pa => s.prefLine c (s.redirect pa)

/-- A port's state. -/
def State.portAt (s : State) (n : Nat) : Port := s.ports.get n Port.reset

/-- A port's state set. -/
def State.setPort (s : State) (n : Nat) (p : Port) : State := { s with ports := s.ports.set n p }

/-- Is a port present (R1, R411)? -/
def State.portPresent (s : State) (n : Nat) : Bool := decide (n ≤ Config.fabricPorts s.config.variant)

/-- Every message that has left by a port so far. -/
def State.leftBy (s : State) (n : Nat) : List OutMsg := s.sent.filter (fun m => m.port? == some n)

/-- A port with nothing in its ordered queue and its retry buffer (R427). -/
def State.clearedPort (s : State) (n : Nat) : Port :=
  { s.portAt n with ordq := [], stalled := [], acked := (s.leftBy n).length }

/-- A port trains (R411, R412, R457): a supported partner brings the link up; port 0 alone falls back to 68-byte
flits; with both banks failed no port trains. Whether IDE becomes active the manual leaves open (a free value). -/
def State.train (s : State) (port : Nat) (partner : LinkPartner) : State :=
  let p := s.clearedPort port
  let ok : Bool := match partner with
    | .flit256 => true
    | .flit68 => port == 0
    | .unsupported => false
  let fb : Bool := port == 0 && partner == .flit68
  if !s.portPresent port ∨ p.up ∨ s.boot.failed ∨ !s.boot.booted ∨ !ok then s
  else
    let p1 : Port :=
      { p with up := true, chg := false, width := p.maxw, fallbk := fb, ide := bitOf s.freeVal.toNat 0 }
    State.useFree (if fb then { s.setPort port p1 with hostDir := [] } else s.setPort port p1)

/-- LINK_TRAINING (R411, R412, R427, R457): a port trains once bring-up, which trains them in its step 6, is over (R468). -/
def execLinkTraining (port : Nat) (partner : LinkPartner) (s : State) : Host.Outcome State Fault Refusal :=
  .next (if s.boot.ready then s.train port partner else s)

/-- Could a request of a command be in flight on a port (R417, R422, R423)? A copy's while a sector of the side that the
port reaches has still to be read or written; a collective step's until its send is accepted and its chunk has come. -/
def State.usesPort (s : State) (c : Cmd) (port : Nat) : Bool :=
  if c.form = 10 ∨ c.form = 11 then (c.fields.portOut == port && !c.accepted) || (c.fields.portIn == port && c.arrived.isNone)
  else if c.form = 12 then false
  else (c.pendingSide false ++ c.pendingSide true).any (fun a => match s.entryOf c.part a with
    | some e => match s.placeOf c.part e a with
      | .host _ => port == 0
      | .pool pa | .peer pa => decide (1 ≤ port) && bitOf (s.routeOf (fabricWindow pa)).toNat port
      | _ => false
    | none => false)

/-- The first address in host memory of the access that a strand of core c waits for, if it has one. -/
def State.inFlightHost (s : State) (c : Nat) (st : Strand) : Option Nat :=
  let b : State := { s with core := c }
  match (b.me.strand st).cond with
  | .memory i => (b.me.memAddrs i).find? (fun a => match b.locate { r := false, w := false } a with
    | .ok l => (match l.place with
      | .host _ => true
      | _ => false)
    | .error _ => false)
  | _ => none

/-- A command, by core and number, meets an unreachable target, if it is still there (R422, R427). -/
def State.loseCmd (s : State) (core id : Nat) : State :=
  match s.allCmds.find? (fun m => m.core == core && m.id == id) with
  | some c => s.engineStop c (.lost ((s.outstanding c [1, 2, 3]).getD 0))
  | none => s

/-- A strand's access to host memory is lost, if it still waits for one: its node rolls back, the address recorded (R427,
R444). -/
def State.loseAccess (s : State) (c : Nat) (st : Strand) : State :=
  match s.inFlightHost c st with
  | some a => (s.rollbackNode c 0x20 st.num ((s.coreAt c).strand st).pc (BitVec.ofNat 64 a) (some st)).afterEnd (s.coreAt c).node.part
  | none => s

/-- Is a waiting access one of the device's own to its memory, which needs no link once the host holds no line? -/
def Held.own : Held → Bool
  | .write _ _ _ | .ring _ _ _ _ _ => true
  | .strand _ _ | .hostRead _ _ | .hostWrite _ _ | .hostLine _ | .inbound _ _ | .engine _ _ _ _ | .out _ | .hostBack _ | .lease _ _ => false

/-- LINK_DOWN (R427): what its queues and its retry buffer hold goes, but for the device's own writes to its memory, which are
performed; the commands with a request in flight on the port, those
listed and those whose accesses wait in its ordered queue, meet R422; strand accesses in flight to host ranges roll their
nodes back; core after core, so that their records stand in that order (R444). UP clears, and what the host held of device
lines is gone with port 0 (DESIGN CHOICE, log 87). -/
def execLinkDown (port : Nat) (inFlight : List (Nat × Nat)) (s : State) : Host.Outcome State Fault Refusal :=
  let p := s.portAt port
  let listed := inFlight.filterMap (fun e => (s.cmdAt e.1 e.2).bind (fun c =>
    if c.state = .executing ∧ s.usesPort c port then some (c.core, c.id) else none))
  let waiting := p.ordq.filterMap (fun h => match h with
    | .engine core id _ _ => some (core, id)
    | _ => none)
  let lost := listed ++ waiting
  .next (
    if !p.up then s
    else
      let s0 := s.setPort port { s.clearedPort port with up := false, chg := false }
      let s1 : State := if port = 0 then { s0 with hostDir := [] } else s0
      let s1 := ((p.ordq ++ p.stalled).filter Held.own).foldl State.replay s1
      (List.range 640).foldl (fun a c =>
        let b := (lost.filter (fun e => e.1 == c)).foldl (fun b e => b.loseCmd e.1 e.2) a
        if port = 0 then (b.loseAccess c .S).loseAccess c .V else b) s1)

/-- The wider of two width codes does not fit: the narrower one (R424). -/
def narrower (a b : BitVec 2) : BitVec 2 := if a.toNat < b.toNat then b else a

/-- LANE_FAILURE (R424, R426): MAXW falls to the widest width whose lanes all work, and a width change starts. -/
def execLaneFailure (port : Nat) (width : BitVec 2) (s : State) : Host.Outcome State Fault Refusal :=
  let p := s.portAt port
  .next (if !s.portPresent port then s
    else s.setPort port { p with maxw := narrower p.maxw width, reqw := narrower p.reqw (narrower p.maxw width), chg := p.up })

/-- PWID (R424, R426): the requested width, clamped to MAXW; a width change starts. -/
def execPwid (port : Nat) (value : BitVec 64) (s : State) : Host.Outcome State Fault Refusal :=
  let p := s.portAt port
  .next (if !s.portPresent port ∨ s.boot.failed then s
    else s.setPort port { p with reqw := narrower (value.setWidth 2) p.maxw, chg := p.up })

/-- The messages of a port's retry buffer that its partner asks for when the link resumes leave again, in their order; with
the question the partner acknowledges what came before them (R426). -/
def State.resend (s : State) (port : Nat) : State :=
  let kept := s.retryOf port
  match s.around.asks.find? (fun e => e.1 == port) with
  | some e =>
    State.setPort { s with sent := s.sent ++ kept.drop (kept.length - e.2) } port
      { s.portAt port with acked := (s.leftBy port).length }
  | none => s

/-- WIDTH_CHANGE_COMPLETE (R426): the new width is in use; the retry buffer replays what the partner asks for, and the
ordered queue drains in its order. -/
def execWidthChangeComplete (port : Nat) (s : State) : Host.Outcome State Fault Refusal :=
  let p := s.portAt port
  .next (
    if !p.chg then s
    else (p.ordq ++ p.stalled).foldl State.replay
      (State.resend (s.setPort port { p with chg := false, width := narrower p.reqw p.maxw, ordq := [], stalled := [] }) port))

/-- A port's partner acknowledges n messages more, which leave its retry buffer (R426). -/
def State.acknowledge (s : State) (port n : Nat) : State :=
  let p := s.portAt port
  s.setPort port { p with acked := min (p.acked + n) (s.leftBy port).length }

/-- INBP_WRITE (R418): an overlap with another VALID space, or a space past 2^40, leaves INBp and counts PMREJ. -/
def execInbpWrite (p : Nat) (value : BitVec 64) (s : State) : Host.Outcome State Fault Refusal :=
  let v := value.toNat
  let base := field v 30 10 * 2 ^ 30
  let last := base + s.spaceOf p
  let clash := s.inb.any (fun e =>
    let b := field e.2.toNat 30 10 * 2 ^ 30
    e.1 != p && bitOf e.2.toNat 63 && decide (b < last) && decide (base < b + s.spaceOf e.1))
  .next (
    if 24 ≤ p ∨ s.boot.failed then s
    else if bitOf v 63 ∧ (clash ∨ 2 ^ 40 < last) then s.countPF 0x000C
    else { s with inb := s.inb.set p (BitVec.ofNat 64 (field v 63 1 * 2 ^ 63 + base)) })

/-- Do n bytes at a device physical address lie wholly in partition p's channels? -/
def State.inChannels (s : State) (p a n : Nat) : Bool :=
  decide (a + n ≤ 0x5000000000) && s.owns p (a / 2 ^ 29) && s.owns p ((a + n - 1) / 2 ^ 29)

/-- A ring's header at its enabling (R443): PROD, DROP and the device's other bytes zero (DEDUCED, log 26). -/
def State.clearRing (s : State) (p a : Nat) : State := s.writeFull p a (zeros 128)

/-- EQBASE_WRITE (R442, R443): a queue outside its partition's channels leaves EQBASEn and counts PMREJ. -/
def execEqbaseWrite (n : Nat) (value : BitVec 64) (s : State) : Host.Outcome State Fault Refusal :=
  let v := value.toNat
  let a := field v 8 40 * 256
  let was := bitOf (s.eqbase.get n 0).toNat 63
  .next (
    if 25 ≤ n ∨ s.boot.failed then s
    else if bitOf v 63 ∧ n < 24 ∧ !s.inChannels n a 65792 then s.countPF 0x000C
    else
      let s1 : State := { s with eqbase := s.eqbase.set n (BitVec.ofNat 64 (field v 63 1 * 2 ^ 63 + a)) }
      if bitOf v 63 ∧ !was then s1.clearRing n a else s1)

/-- A bank: false is A, true is B. -/
def Boot.bank (b : Boot) (n : Bool) : FlashImage := if n then b.bankB else b.bankA

/-- A bank replaced. -/
def Boot.setBank (b : Boot) (n : Bool) (i : FlashImage) : Boot := if n then { b with bankB := i } else { b with bankA := i }

/-! ## Page migration (R383) -/

/-- Pages that are a migration source or destination already: of a migration under way, or of a redirect in force
(DEDUCED, log 20). -/
def State.takenPages (s : State) : List Nat := s.movingPages ++ s.migration.redirects.flatMap (fun r => [r.1, r.2])

/-- Is a page number a page of present device memory? -/
def State.pageOk (s : State) (page : Nat) : Bool := decide (page < 0x500000) && s.present (page * 65536 / 2 ^ 29)

/-- Is a page mapped by an active entry of some partition? -/
def State.pageMapped (s : State) (page : Nat) : Bool :=
  s.parts.any (fun e => e.2.active.any (fun r => r.2.valid && s.mapsPage e.1 r.2 page))

/-- A migration asked for (R383). One that comes while another is busy leaves MIGSTAT busy (DEDUCED, log 20); one that comes
while a row is spared is refused. -/
def State.migrate (s : State) (src dst : Nat) : State :=
  if s.movingPages ≠ [] then
    { s with migration := { s.migration with sparing := s.migration.sparing.map (fun _ => .refused) } }
  else if !s.pageOk src ∨ !s.pageOk dst ∨ s.takenPages.contains src ∨ s.takenPages.contains dst ∨ s.pageMapped dst then
    { s with migration := { s.migration with st := .refused } }
  else { s with migration := { s.migration with st := .blocked, src := src, dst := dst, queue := [], stalled := [] } }

/-- MIGCMD (R383). -/
def execMigcmd (value : BitVec 64) (s : State) : Host.Outcome State Fault Refusal :=
  .next (if s.boot.failed then s else s.migrate (field value.toNat 40 24) (field value.toNat 16 24))

/-- The committed bytes and poison marks of a page copied (R383). -/
def State.copyPage (s : State) (src dst : Nat) : State :=
  let cells := (s.mem.filter (fun c => c.1 / 65536 == src)).map (fun c => (dst * 65536 + c.1 % 65536, c.2))
  let marks := (s.poison.filter (fun x => x / 4096 == src)).map (fun x => dst * 4096 + x % 4096)
  { s with mem := cells.foldl (fun m c => m.write c.1 c.2) (s.mem.clear (dst * 65536) (dst * 65536 + 65536)),
           poison := marks.foldl setInsert (s.poison.filter (fun x => x / 4096 != dst)) }

/-- An address of the source page moved to the destination, by its unit's number. -/
def movedNum (per src dst n : Nat) : Nat := if n / per = src then dst * per + n % per else n

/-- A node's staged sectors of the page, with the node as their tag (R383). -/
def Node.movePage (nd : Node) (src dst : Nat) : Node :=
  { nd with staged := nd.staged.foldl (fun t e => Table.set t (movedNum 65536 src dst e.1) e.2) [],
            stagedPoison := (nd.stagedPoison.map (movedNum 4096 src dst)).foldl setInsert [] }

/-- What goes with a page but its bytes: staged sectors, with those that stand against a command's reservation (R255), filter
entries and the host directory; its cached lines and their fills go. -/
def State.moveTags (s : State) (src dst : Nat) : State :=
  let off (l : Nat) : Bool := l / 512 != src
  { s with
    cores := s.cores.mapVals (fun _ k => { k with node := k.node.movePage src dst, l1 := k.l1.filter off }),
    l2 := s.l2.mapVals (fun _ l => l.filter off), fills := s.fills.mapVals (fun _ l => l.filter off),
    owners := s.owners.filter (fun e => off e.1),
    engines := s.engines.mapVals (fun _ g =>
      { g with queue := g.queue.map (fun m => { m with newly := m.newly.map (movedNum 4096 src dst) }) }),
    parts := s.parts.mapVals (fun _ v => { v with saved := v.saved.map (fun x => { x with node := x.node.movePage src dst }) }),
    counters := s.counters.mapVals (fun _ k => { k with lines := k.lines.map (movedNum 512 src dst) }),
    hostDir := s.hostDir.map (fun h => { h with line := movedNum 512 src dst h.line }) }

/-- MIGRATION_COPY (R383): BLOCKED to COPYING. -/
def execMigrationCopy (s : State) : Host.Outcome State Fault Refusal :=
  let m := s.migration
  .next (match m.st with
  | .blocked => { s.copyPage m.src m.dst with migration := { m with st := .copying } }
  | _ => s)

/-- MIGRATION_REDIRECT (R383): the copy is complete, with what its sources have taken since; staged sectors and filter
entries are at the destination, and the redirect is in force. A spared row keeps its address (R466). -/
def execMigrationRedirect (s : State) : Host.Outcome State Fault Refusal :=
  let m := s.migration
  .next (match m.st with
  | .copying =>
    if m.sparing.isSome then { s with migration := { m with st := .replay } }
    else
      { (s.copyPage m.src m.dst).moveTags m.src m.dst with
        migration := { m with st := .replay, redirects := m.redirects ++ [(m.src, m.dst)] } }
  | _ => s)

/-- The lists of repairs changed, in force and in the active bank (R466). -/
def State.recordRepair (s : State) (f : Config.Record → Config.Record) : State :=
  let b := s.boot.bank s.boot.active
  { s with config := f s.config, boot := s.boot.setBank s.boot.active { b with record := f b.record } }

/-- MIGRATION_REPLAY (R383): the queued accesses are performed at the destination in their order. With it the sparing of a
row is done, and the row is on its list (R466). -/
def execMigrationReplay (s : State) : Host.Outcome State Fault Refusal :=
  let m := s.migration
  .next (match m.st with
  | .replay =>
    let s1 := match m.sparing with
      | some old => State.recordRepair { s with rowsOn := setInsert s.rowsOn m.src, migration := { m with st := old, sparing := none, queue := [], stalled := [] } }
          (fun r => { r with spareRows := r.spareRows ++ [m.src] })
      | none => { s with migration := { m with st := .done, queue := [], stalled := [] } }
    (m.queue ++ m.stalled).foldl State.replay s1
  | _ => s)

end Sys2Proof.Machine
end

