-- ==== Sys2Proof/Machine/ObjectLoad.lean ====
section
/-! DEFINITION. OBJECT_LOAD: the object container of R94 to R98 and R357, R358, and the steps of R99. -/

namespace Sys2Proof.Machine

/-- One bit of the IEEE 802.3 CRC-32, reflected (R94). -/
def crcBit (c : Nat) : Nat := if c % 2 = 1 then (c / 2) ^^^ 0xEDB88320 else c / 2

/-- The CRC register after one byte. -/
def crcByte (c : Nat) (b : Byte) : Nat :=
  crcBit (crcBit (crcBit (crcBit (crcBit (crcBit (crcBit (crcBit (c ^^^ b.toNat))))))))

/-- The IEEE 802.3 CRC-32 of bytes (R94). -/
def crc32 (b : List Byte) : Nat := b.foldl crcByte 0xFFFFFFFF ^^^ 0xFFFFFFFF

/-- n bytes of a list from an offset. -/
def bytesIn (b : List Byte) (off n : Nat) : List Byte := (b.drop off).take n

/-- A section of an object (R95). -/
structure Section where
  kind  : Nat
  stage : Nat
  align : Nat
  bytes : List Byte
  deriving DecidableEq, Repr

/-- The records of one directory entry of `.pipeline` (R98), when they lie inside the section. -/
def pipeRecords (pl : List Byte) (n size : Nat) : Option (List (List Byte)) :=
  let off := leAt pl (8 * n) 4
  let count := leAt pl (8 * n + 4) 4
  if pl.length < 64 ∨ pl.length < off + count * size then none
  else some ((List.range count).map (fun i => bytesIn pl (off + i * size) size))

/-- Where each record of `.pipeline` starts: a byte offset in the section. -/
def pipeOffsets (pl : List Byte) (n size : Nat) : List Nat :=
  (List.range (leAt pl (8 * n + 4) 4)).map (fun i => leAt pl (8 * n) 4 + i * size)

/-- Step 1 of R99 on the header (R94). A string table that passes the end of the file refuses the object (DESIGN CHOICE,
log 108). -/
def headerOk (b : List Byte) : Bool :=
  decide (64 ≤ b.length) && b.take 4 == [0x53, 0x54, 0x4F, 0x00] && leAt b 4 2 == 1 && leAt b 6 2 == 0 &&
    leAt b 0x27 1 / 4 == 0 && zeroAt b 0x2C 20 &&
    crc32 (b.take 0x28 ++ [0, 0, 0, 0] ++ b.drop 0x2C) == leAt b 0x28 4 &&
    decide (leAt b 0x18 8 + leAt b 0x20 4 ≤ b.length)

/-- The sections, in table order, when the table and each section lie inside the object (R95). -/
def sectionsOf (b : List Byte) : Option (List Section) :=
  let n := leAt b 8 4
  let t := leAt b 0x10 8
  if b.length < t + 32 * n then none
  else
    let es := (List.range n).map (fun i => bytesIn b (t + 32 * i) 32)
    let ok (e : List Byte) : Bool := zeroAt e 0x1C 4 && leAt e 8 8 % 16 == 0 && decide (leAt e 8 8 + leAt e 0x10 8 ≤ b.length)
    if es.all ok then
      some (es.map (fun e => { kind := leAt e 0 2, stage := leAt e 2 2, align := leAt e 0x18 4,
                               bytes := bytesIn b (leAt e 8 8) (leAt e 0x10 8) }))
    else none

/-- Is a section a stream section? -/
def Section.stream (x : Section) : Bool := decide (1 ≤ x.kind) && decide (x.kind ≤ 4)

/-- The counts of R95: every type is known, each stage has one section of each stream, and the rest occur as shown. -/
def countsOk (l : List Section) (stages : Nat) : Bool :=
  let num (k : Nat) : Nat := (l.filter (fun x => x.kind == k)).length
  l.all (fun x => decide (1 ≤ x.kind) && decide (x.kind ≤ 10) && (x.stream || x.stage == 0xFFFF)
      && (!x.stream || (decide (x.stage < stages) && x.bytes.length % 4 == 0 && decide (4 ≤ x.bytes.length)))) &&
    [1, 2, 3, 4].all (fun k => num k == stages &&
      (List.range stages).all (fun g => (l.filter (fun x => x.kind == k && x.stage == g)).length == 1)) &&
    num 5 == 1 && num 6 == 1 && decide (num 7 ≤ 1) && decide (num 8 ≤ 1) && num 9 == 1 && num 10 == 1

/-- The bytes of the first section of a type, or none. -/
def bytesOf (l : List Section) (k : Nat) : List Byte :=
  match l.find? (fun x => x.kind == k) with
  | some x => x.bytes
  | none => []

/-- Step 2 of R99: the header's needs against UCAP (R3, R94). -/
def State.needsOk (s : State) (b : List Byte) : Bool :=
  let v := s.config.variant
  decide (leAt b 0x24 2 ≤ Config.coreCount v) && decide (leAt b 0x26 1 ≤ Config.fabricPorts v) &&
    (!bitOf (leAt b 0x27 1) 0 || decide (0 < Config.solverCount v)) &&
    (!bitOf (leAt b 0x27 1) 1 || decide (0 < Config.collectiveCount v))

/-- Step 3 of R99: every pair of `.tokens` has equal counts (R96). -/
def tokensOk (t : List Byte) (stages : Nat) : Bool :=
  t.length == 48 * stages && (List.range (12 * stages)).all (fun n => leAt t (4 * n) 2 == leAt t (4 * n + 2) 2)

/-- A launch entry within the ranges of R357. -/
def launchRecOk (r : List Byte) : Bool := decide (leAt r 4 1 ≤ 7) && leAt r 5 1 / 4 == 0 && zeroAt r 9 3

/-- A stage entry within the ranges of R357 and R88. A stage may name a queue whose entry gives another launch: the manual
refuses no such entry (DESIGN CHOICE, log 74). -/
def stageRecOk (launches queues : Nat) (r : List Byte) : Bool :=
  let kind := field (leAt r 6 1) 1 2
  let k := leAt r 7 1
  decide (leAt r 4 1 < launches) && decide (leAt r 5 1 < queues) && leAt r 6 1 / 8 == 0 &&
    (match kind with
      | 0 => k == 1
      | 1 => decide (1 ≤ k) && decide (k ≤ 4)
      | 2 => decide (1 ≤ k) && decide (k ≤ 40)
      | _ => false) &&
    decide (leAt r 8 2 ≤ leAt r 0xA 2) && decide (1 ≤ leAt r 0xA 2) && decide (leAt r 0xA 2 ≤ 640) &&
    decide (1 ≤ leAt r 0xC 1) && decide (leAt r 0xD 1 ≤ 4) && zeroAt r 0xE 2 &&
    (List.range 4).all (fun i => if i < leAt r 0xD 1 then decide (leAt r (0x10 + i) 1 < queues) && decide (leAt r (0x14 + i) 1 ≤ 16)
      else leAt r (0x10 + i) 1 == 0xFF)

/-- A queue entry within the ranges of R357. -/
def queueRecOk (launches : Nat) (r : List Byte) : Bool :=
  let z := leAt r 4 1
  decide (16 ≤ z) && decide (z ≤ 128) && z % 16 == 0 && decide (1 ≤ leAt r 5 1) && decide (leAt r 5 1 ≤ 16) &&
    decide (leAt r 6 1 < launches) && zeroAt r 7 9

/-- An item entry within the ranges of R357 and R358, its queue's item size given. ADDR of a late-bound descriptor is a multiple
of 8 before its relocation too (DESIGN CHOICE, log 108). -/
def itemRecOk (sizes : List Nat) (r : List Byte) : Bool :=
  let z := sizes.getD (leAt r 4 2) 0
  let n := leAt r 7 1
  let ds := (List.range n).map (fun i => bytesIn r (0x10 + 16 * i) 16)
  let offs := ds.map (fun d => leAt d 0 1)
  decide (leAt r 4 2 < sizes.length) && decide (leAt r 6 1 ≤ 1) && decide (n ≤ 4) && zeroAt r 8 8 &&
    zeroAt r (0x10 + 16 * n) (64 - 16 * n) && zeroAt r (0x50 + z) (128 - z) && decide offs.Nodup &&
    ds.all (fun d => leAt d 0 1 % 8 == 0 && decide (leAt d 0 1 + 8 ≤ z) && leAt d 1 1 == 0 && leAt d 8 8 % 8 == 0)

/-- A symbol entry within the ranges of R98. -/
def symbolRecOk (r : List Byte) : Bool := decide (leAt r 4 1 ≤ 7) && leAt r 5 1 == 0

/-- A region entry within the ranges of R97 and R85; one with no permission at all passes (DESIGN CHOICE, log 97). -/
def regionRecOk (r : List Byte) : Bool :=
  let z := leAt r 4 1
  decide (16 ≤ z) && decide (z ≤ 40) && zeroAt r 0x20 16 && decide (leAt r 0x18 8 ≤ 2 ^ z) &&
    leAt r 8 8 % 2 ^ z == 0 && (leAt r 6 2 == 0xFFFF || (field (leAt r 5 1) 0 2 == 0 && field (leAt r 5 1) 2 2 != 3))

/-- A counter entry within the ranges of R97 and R86, the log2 sizes of the regions given; a length of 0 is refused (DESIGN
CHOICE, log 97). -/
def counterRecOk (logs : List Nat) (r : List Byte) : Bool :=
  let g := leAt r 4 2
  decide (g < logs.length) && decide (leAt r 6 1 ≤ 4) && leAt r 7 1 == 0 && zeroAt r 0x24 12 &&
    leAt r 8 8 % 128 == 0 && leAt r 0x10 8 % 128 == 0 && decide (0 < leAt r 0x10 8) && decide (0 < leAt r 0x18 8) &&
    decide (leAt r 8 8 + leAt r 0x10 8 ≤ 2 ^ logs.getD g 0) &&
    (decide (2 ≤ leAt r 6 1) || leAt r 0x20 4 == 0)

/-- The tables of an object (R97, R98). -/
structure Tables where
  regions  : List (List Byte)
  counters : List (List Byte)
  launches : List (List Byte)
  stages   : List (List Byte)
  queues   : List (List Byte)
  items    : List (List Byte)
  walks    : List (List Byte)
  params   : List (List Byte)
  symbols  : List (List Byte)
  relocs   : List (List Byte)
  deriving DecidableEq, Repr

/-- Region and counter entries of `.regions` (R97). -/
def regionRecords (g : List Byte) : Option (List (List Byte) × List (List Byte)) :=
  let n := leAt g 0 4
  let m := leAt g 4 4
  if g.length < 16 + 48 * (n + m) ∨ !zeroAt g 8 8 then none
  else some ((List.range n).map (fun i => bytesIn g (16 + 48 * i) 48), (List.range m).map (fun i => bytesIn g (16 + 48 * (n + i)) 48))

/-- The tables as the sections give them. -/
def tablesOf (l : List Section) : Option Tables :=
  let pl := bytesOf l 9
  match regionRecords (bytesOf l 10), pipeRecords pl 0 16, pipeRecords pl 1 32, pipeRecords pl 2 16, pipeRecords pl 3 208,
      pipeRecords pl 4 128, pipeRecords pl 5 16, pipeRecords pl 6 16, pipeRecords pl 7 16 with
  | some (g, m), some la, some st, some qu, some it, some wa, some pa, some sy, some re =>
    some { regions := g, counters := m, launches := la, stages := st, queues := qu, items := it, walks := wa,
           params := pa, symbols := sy, relocs := re }
  | _, _, _, _, _, _, _, _, _ => none

/-- The reserved bytes of a walk descriptor (R343, R344). -/
def walkRecOk (r : List Byte) : Bool :=
  zeroAt r 7 1 && zeroAt r 0x1C 4 && [0x20, 0x40, 0x60].all (fun o => zeroAt r (o + 0x15) 11)

/-- The reserved bytes and bits of the records of `.canvas` (R234). -/
def canvasRecsOk (b : List Byte) : Bool :=
  (List.range (b.length / 128)).all (fun i =>
    let r := bytesIn b (128 * i) 128
    leAt r 0x22 1 / 32 == 0 && zeroAt r 0x24 4 && zeroAt r 0x38 8 && zeroAt r 0x60 32)

/-- A launch holds at most 32 stages and 64 queues (R88). -/
def launchSizesOk (launches : Nat) (stages queues : List (List Byte)) : Bool :=
  (List.range launches).all (fun i =>
    decide (stages.countP (fun r => leAt r 4 1 == i) ≤ 32) && decide (queues.countP (fun r => leAt r 6 1 == i) ≤ 64))

/-- Every entry of the tables is within its ranges, with its reserved bytes zero (R99 step 1; log 29). A counter may chain to
itself here: R339 has `carm` alone refuse that (DESIGN CHOICE, log 73). -/
def Tables.ok (t : Tables) (stages : Nat) : Bool :=
  let sizes := t.queues.map (fun q => leAt q 4 1)
  let initial (q : Nat) : Nat := (t.items.filter (fun r => leAt r 6 1 == 0 && leAt r 4 2 == q)).length
  t.stages.length == stages && decide (t.stages.length ≤ 512) &&
    decide (1 ≤ t.launches.length) && decide (t.launches.length ≤ 16) && t.launches.all launchRecOk &&
    t.stages.all (stageRecOk t.launches.length t.queues.length) && t.queues.all (queueRecOk t.launches.length) &&
    launchSizesOk t.launches.length t.stages t.queues && t.walks.all walkRecOk && t.items.all (itemRecOk sizes) && t.params.all (fun r => zeroAt r 4 4) && t.symbols.all symbolRecOk &&
    t.relocs.all (fun r => leAt r 3 1 == 0) && t.regions.all regionRecOk &&
    t.counters.all (counterRecOk (t.regions.map (fun r => leAt r 4 1))) &&
    (List.range t.queues.length).all (fun q => decide (initial q ≤ 2 ^ leAt (t.queues.getD q []) 5 1)) &&
    t.counters.all (fun r => match leAt r 6 1 with
      | 2 =>
        let it := t.items.getD (leAt r 0x20 4) []
        decide (leAt r 0x20 4 < t.items.length) && leAt it 6 1 == 1 && decide (sizes.getD (leAt it 4 2) 0 ≤ 64)
      | 3 => decide (leAt r 0x20 4 < t.launches.length)
      | 4 => decide (leAt r 0x20 4 < t.counters.length)
      | _ => true)

/-! ## Placement (R85, R99 step 4) -/

/-- The parts of channels that an entry of device memory uses: channel, first offset, end offset (R380). -/
def State.extentsOf (s : State) (p : Nat) (e : RangeEntry) : List (Nat × Nat × Nat) :=
  if e.dram then
    let set := s.channelSet p e
    set.zipIdx.map (fun c =>
      (c.1, e.w2.toNat, e.w2.toNat + (2 ^ e.logsz / 4096 - c.2 + set.length - 1) / set.length * 4096))
  else []

/-- The parts of channels in use: by every partition's tables, by a migration under way and at the new places of migrated pages
(log 29). -/
def State.usedExtents (s : State) : List (Nat × Nat × Nat) :=
  s.parts.flatMap (fun v => ((v.2.shadow ++ v.2.active).filter (fun e => e.2.valid)).flatMap (fun e => s.extentsOf v.1 e.2)) ++
    (s.movingPages ++ s.migration.redirects.map (·.2)).map (fun g => (g * 65536 / 2 ^ 29, g * 65536 % 2 ^ 29, g * 65536 % 2 ^ 29 + 65536))

/-- Does an entry of device memory lie in unused room of its channels? -/
def State.entryFits (s : State) (p : Nat) (e : RangeEntry) : Bool :=
  let used := s.usedExtents
  (s.extentsOf p e).all (fun x => decide (x.2.2 ≤ 2 ^ 29) &&
    used.all (fun u => u.1 != x.1 || decide (u.2.2 ≤ x.2.1) || decide (x.2.2 ≤ u.2.1)))

/-- Has the unit of an entry room for it at some physical base (R85)? -/
def State.unitHasRoom (s : State) (p : Nat) (e : RangeEntry) : Bool :=
  (0 :: s.usedExtents.map (fun u => u.2.2)).any (fun b =>
    decide (b < 2 ^ 29) && s.entryFits p { e with w2 := BitVec.ofNat 64 b })

/-- First channels of a partition's units of an interleave, ascending: its channels, its quads, and the stacks whose
present channels it holds whole (R85; DEDUCED, log 29). -/
def State.unitsOf (s : State) (p ilv : Nat) : List Nat :=
  match ilv with
  | 0 => s.coresOf p
  | 1 => ((s.coresOf p).filter (fun c => c % 4 == 0))
  | 2 => ((List.range 16).filter (fun k =>
      let set := (List.range 640).filter (fun c => c / 40 == k && s.present c)
      set != [] && set.all (s.owns p))).map (· * 40)
  | _ => [0]

/-- An entry's words (R379). -/
def mkEntry (vbase logsz chan low pbase : Nat) : RangeEntry :=
  { w0 := BitVec.ofNat 64 vbase, w1 := BitVec.ofNat 64 (2 ^ 63 + logsz * 2 ^ 50 + chan * 2 ^ 40 + low),
    w2 := BitVec.ofNat 64 pbase, w3 := 0 }

/-- An entry put at the lowest free index of the shadow table, if it passes the checks of activation and lies in unused
room (R99 step 4, R381; log 29). -/
def State.addEntry (s : State) (p : Nat) (e : RangeEntry) : Option State :=
  let t := (s.part p).shadow
  match (List.range 256).find? (fun i => !(t.get i RangeEntry.reset).valid) with
  | none => none
  | some i =>
    if (s.entryReason p ((t.filter (fun o => o.2.valid)).map (·.2)) e).isSome ∨ (e.dram ∧ !s.entryFits p e) then none
    else some (s.updPart p (fun v => { v with shadow := v.shadow.set i e }))

/-- The rotation of R85: for each interleave, how many units have had their turn. -/
abbrev Rotation := Nat × Nat × Nat

/-- The turn of an interleave. -/
def Rotation.turn (r : Rotation) (ilv : Nat) : Nat := if ilv = 0 then r.1 else if ilv = 1 then r.2.1 else r.2.2

/-- The rotation continues behind unit i. -/
def Rotation.next (r : Rotation) (ilv i : Nat) : Rotation :=
  if ilv = 0 then (i + 1, r.2) else if ilv = 1 then (r.1, i + 1, r.2.2) else (r.1, r.2.1, i + 1)

/-- CHAN of a region and the rotation after it: by `on=`, or by the rotation (R85). -/
def State.chooseUnit (s : State) (p on : Nat) (e : RangeEntry) (rot : Rotation) : Option (Nat × Rotation) :=
  let units := s.unitsOf p e.ilv
  let room (c : Nat) : Bool := s.unitHasRoom p { e with w1 := e.w1 + BitVec.ofNat 64 (c * 2 ^ 40) }
  if e.home ≠ 0 ∨ e.ilv = 3 then some (0, rot)
  else if on ≠ 0xFFFF then
    match units[on]? with
    | some c => if room c then some (c, rot) else none
    | none => none
  else
    match (List.range units.length).find? (fun i => room (units.getD ((rot.turn e.ilv + i) % units.length) 0)) with
    | some i =>
      let n := (rot.turn e.ilv + i) % units.length
      some (units.getD n 0, rot.next e.ilv n)
    | none => none

/-- Is a pool or peer range backed by windows of the right KIND (R85, R417)? -/
def State.windowKindOk (s : State) (e : RangeEntry) : Bool :=
  e.home < 2 ||
    (let w := fabricWindow e.w2.toNat
     w == fabricWindow (e.w2.toNat + 2 ^ e.logsz - 1) && bitOf (s.routeOf w).toNat 63 &&
       bitOf (s.routeOf w).toNat 62 == (e.home == 3))

/-- The range entries of the regions, in source order. -/
def State.placeRegions (p : Nat) : List (List Byte) → List Nat → List Nat → Rotation → State → Option (State × List RangeEntry)
  | [], _, _, _, s => some (s, [])
  | r :: t, vb, pb, rot, s =>
    let fixed := leAt r 8 8
    let e0 := mkEntry (if fixed = 0 then vb.headD 0 else fixed) (leAt r 4 1) 0 (leAt r 5 1) (pb.headD 0)
    match pb, s.chooseUnit p (leAt r 6 2) e0 rot with
    | _ :: _, some (c, rot1) =>
      let e := { e0 with w1 := e0.w1 + BitVec.ofNat 64 (c * 2 ^ 40) }
      if s.windowKindOk e then
        match s.addEntry p e with
        | some s1 =>
          match State.placeRegions p t vb.tail pb.tail rot1 s1 with
          | some (s2, es) => some (s2, e :: es)
          | none => none
        | none => none
      else none
    | _, _ => none

/-- log2 of the smallest power of two of at least 64 KiB that holds n bytes (R99). -/
def logFor (n : Nat) : Nat := ((List.range 25).find? (fun i => decide (n ≤ 2 ^ (16 + i)))).map (16 + ·) |>.getD 41

/-- Bytes laid one after another, each at the next multiple of its alignment: where each starts, and the whole. -/
def layOut : List (Nat × List Byte) → Nat → List Nat × List Byte
  | [], _ => ([], [])
  | (a, b) :: t, n =>
    let start := ceilDiv n (max a 1) * max a 1
    let r := layOut t (start + b.length)
    (start :: r.1, List.replicate (start - n) 0 ++ b ++ r.2)

/-! ## Relocation (R98, R126) -/

/-- The field that a relocation of an instruction immediate writes: width, and whether it is signed (R126). -/
def immField : Instr → Option (Nat × Bool)
  | .addImmediate _ _ _ _ | .sltImmediate _ _ _ _ | .ldB _ _ _ _ | .ldH _ _ _ _ | .ldW _ _ _ _ | .ldD _ _ _ _
  | .ldBU _ _ _ _ | .ldHU _ _ _ _ | .ldWU _ _ _ _ | .stB _ _ _ _ | .stH _ _ _ _ | .stW _ _ _ _ | .stD _ _ _ _
  | .ldlu _ _ _ _ | .pref _ _ _ | .resq _ _ _ _ | .jalr _ _ _ _ => some (12, true)
  | .lui _ _ _ => some (17, true)
  | .orsh _ _ _ | .mlih _ _ _ | .qlih _ _ _ => some (16, false)
  | .mli _ _ _ | .qli _ _ _ => some (16, true)
  | .maddi _ _ _ _ | .qaddi _ _ _ _ | .mlds _ _ _ _ | .qlds _ _ _ _ => some (14, true)
  | _ => none

/-- The strand of a stream section's type. -/
def strandOfKind (k : Nat) : Strand := if k = 1 then .S else if k = 2 then .V else if k = 3 then .M else .C

/-- Bytes of a list replaced from an offset, when they lie inside it. -/
def patch (b : List Byte) (off : Nat) (new : List Byte) : Option (List Byte) :=
  if off + new.length ≤ b.length then some (b.take off ++ new ++ b.drop (off + new.length)) else none

/-- One relocation applied to its section (R98, R126): a data field of n bits takes −2^(n−1)..2^n − 1. -/
def relocate (x : Section) (fld off : Nat) (v : Int) : Option (List Byte) :=
  let data (bytes : Nat) : Option (List Byte) :=
    let n := 8 * bytes
    if x.stream ∨ v < -(2 : Int) ^ (n - 1) ∨ (2 : Int) ^ n ≤ v then none
    else patch x.bytes off (leBytes bytes (v % (2 : Int) ^ n).toNat)
  match fld with
  | 1 => data 8
  | 2 => data 4
  | 3 => data 2
  | 4 =>
    if !x.stream ∨ off % 4 ≠ 0 then none
    else
      let w := leAt x.bytes off 4
      match decode (strandOfKind x.kind) (BitVec.ofNat 32 w) with
      | .error _ => none
      | .ok i =>
        match immField i with
        | none => none
        | some (n, sg) =>
          let lo : Int := if sg then -(2 : Int) ^ (n - 1) else 0
          let hi : Int := if sg then (2 : Int) ^ (n - 1) else (2 : Int) ^ n
          if v < lo ∨ hi ≤ v then none
          else patch x.bytes off (leBytes 4 (w / 2 ^ n * 2 ^ n + (v % (2 : Int) ^ n).toNat))
  | _ => none

/-- What a load knows when it relocates. -/
structure Bases where
  regions  : List Nat
  constant : Nat
  counters : List Nat
  queues   : List Nat
  launches : List Nat
  stages   : List Nat
  params   : List Nat
  deriving DecidableEq, Repr

/-- The value of a symbol (R98, R359), or none when its index names nothing; a stage is its index in its launch
(DEDUCED, log 29). -/
def Bases.value (b : Bases) (r : List Byte) : Option Nat :=
  let i := leAt r 6 2
  let v := leAt r 8 8
  match leAt r 4 1 with
  | 0 => some v
  | 1 => b.regions[i]?.map (· + v)
  | 2 => b.counters[i]?
  | 3 => b.queues[i]?
  | 4 => b.stages[i]?
  | 5 => b.launches[i]?
  | 6 => b.params[i]?
  | 7 => some (b.constant + v)
  | _ => none

/-- Every relocation applied, in order. The value plus the addend is 64-bit two's complement (R77). -/
def relocateAll (b : Bases) (syms : List (List Byte)) : List (List Byte) → List Section → Option (List Section)
  | [], l => some l
  | r :: t, l =>
    match l[leAt r 0 2]?, (syms[leAt r 8 4]?).bind b.value with
    | some x, some v =>
      match relocate x (leAt r 2 1) (leAt r 4 4) (signed (((v : Int) + signed (leAt r 12 4) 32) % 2 ^ 64).toNat 64) with
      | some bytes => relocateAll b syms t (l.set (leAt r 0 2) { x with bytes := bytes })
      | none => none
    | _, _ => none

/-! ## The load -/

/-- A region's memory filled: its initial contents, and zero where none are placed (R85), a migrated page at its new place
(R383); a line that the host holds comes back first (R420). -/
def State.fillRegion (s : State) (p : Nat) (e : RangeEntry) (bytes : List Byte) : State :=
  let spans : List (Nat × Nat) :=
    if e.dram then (s.extentsOf p e).map (fun x => (x.1 * 2 ^ 29 + x.2.1, x.1 * 2 ^ 29 + x.2.2))
    else [(e.w2.toNat, e.w2.toNat + 2 ^ e.logsz)]
  let inside (a : Nat) : Bool := match s.origin a with
    | some o => spans.any (fun x => decide (x.1 ≤ o) && decide (o < x.2))
    | none => false
  let b := (s.hostDir.filter (fun h => inside (128 * h.line))).foldl (fun a h => a.hostBack h.line) s
  { b with mem := bytes.zipIdx.foldl (fun m x => Memory.write m (s.redirect (s.physAt p e x.2)) x.1) (b.mem.filter (fun c => !inside c.1)),
           poison := b.poison.filter (fun k => !inside (16 * k)) }

/-- The regions filled from `.data`. Initial contents that pass the end of `.data` are zero there: the manual refuses no such
entry (DESIGN CHOICE, log 72). -/
def State.fillRegions (p : Nat) (data : List Byte) : List (RangeEntry × List Byte) → State → State
  | [], s => s
  | (e, r) :: t, s => State.fillRegions p data t (s.fillRegion p e (bytesIn data (leAt r 0x10 8) (leAt r 0x18 8)))

/-- Late-bound descriptors of an item entry (R358). -/
def lateOf (r : List Byte) : List (List Byte) := (List.range (leAt r 7 1)).map (fun i => bytesIn r (0x10 + 16 * i) 16)

/-- The counters armed (R86, R99 step 6, R330): each in the partition's share, present, free, over device memory. -/
def State.armAll (p : Nat) (t : Tables) (es : List RangeEntry) (b : Bases) : List (List Byte × Nat) → State → Option State
  | [], s => some s
  | (r, c) :: rest, s =>
    match es[leAt r 4 2]? with
    | none => none
    | some e =>
      let lo := e.base + leAt r 8 8
      let lines := s.regionLines p e lo (leAt r 0x10 8)
      if c < 2 ^ 16 ∧ s.present (homeOf c) ∧ s.inShare p c ∧ (s.counter c).armed = false ∧ e.dram ∧ s.regionFree c lines then
        let tgt := leAt r 0x20 4
        let it := t.items.getD tgt []
        let size := leAt (t.queues.getD (leAt it 4 2) []) 4 1
        let arg := match leAt r 6 1 with
          | 2 => b.queues.getD (leAt it 4 2) 0
          | 3 => b.launches.getD tgt 0
          | 4 => b.counters.getD tgt 0
          | _ => 0
        let item := if leAt r 6 1 = 2 then padTo 64 (bytesIn it 0x50 size) else List.replicate 64 0
        let late := if leAt r 6 1 = 2 then lateOf it else []
        State.armAll p t es b rest (s.arm c p lo (leAt r 0x10 8) (leAt r 0x18 8) (leAt r 6 1) arg item lines late)
      else none

/-- May a queue's ring stand at a virtual address (R364): wholly in one DIRECT range of the partition in device memory, on the
stack of the queues' home, clear of the other rings and of the regions that counters count? -/
def State.ringOk (s : State) (p : Nat) (others : List (Nat × Nat)) (a len : Nat) : Bool :=
  let v := s.part p
  let clear (b n : Nat) : Bool := decide (a + len ≤ b) || decide (b + n ≤ a)
  ((v.active ++ v.shadow).any (fun x =>
    let e := x.2
    e.valid && e.direct && e.dram && decide (e.base ≤ a) && decide (a + len ≤ e.base + 2 ^ e.logsz) &&
      (List.range (len / 4096 + 1)).all (fun i =>
        s.physAt p e (min (a + 4096 * i) (a + len - 1) - e.base) / 2 ^ 29 / 40 == s.queueHome p))) &&
    others.all (fun o => clear o.1 o.2) &&
    s.counters.all (fun k => !(k.2.armed && k.2.part == p) || clear k.2.vbase k.2.vlen)

/-- Bytes of a queue's ring (R364). -/
def Queue.ringLen (q : Queue) : Nat := q.size * q.slots.length

/-- The rings of an object's queues stand where the runtime places them, each clear of the partition's other rings (R364,
log 81). -/
def State.ringsOk (s : State) (p : Nat) (rings : List Nat) (queues : List (List Byte)) : Bool :=
  let new := rings.zip (queues.map (fun r => leAt r 4 1 * 2 ^ leAt r 5 1))
  rings.length == queues.length &&
    new.zipIdx.all (fun x =>
      s.ringOk p ((s.part p).queues.map (fun q => (q.2.ring, q.2.ringLen)) ++ new.take x.2) x.1.1 x.1.2)

/-- The partition's mailbox placed, when the runtime places it with this load (R340): its entry, zero bytes, and its
counter, slot 63 of the lowest home agent (R328). -/
def State.placeMailbox (s : State) (p : Nat) : Option (Nat × Nat × Nat) → Option State
  | none => some s
  | some (vbase, chan, pbase) =>
    let e := mkEntry vbase 17 chan 0xD0 pbase
    match s.coresOf p, s.addEntry p e with
    | h :: _, some s1 =>
      let c := 64 * h + 63
      let lines := s1.regionLines p e vbase 65536
      if (s1.counter c).armed ∨ !s1.regionFree c lines then none
      else some ((s1.fillRegion p e []).arm c p vbase 65536 128 5 0 (List.replicate 64 0) lines [])
    | _, _ => none

/-- Are the identifiers that the runtime chose enough, different, 16 bits wide and unused (R359)? -/
def idsOk (ids : List Nat) (n : Nat) (used : Nat → Bool) : Bool :=
  ids.length == n && decide ids.Nodup && ids.all (fun i => decide (i < 2 ^ 16) && !used i)

/-- Gang kind of a stage entry (R357). -/
def gangOfRec (r : List Byte) : GangKind :=
  match field (leAt r 6 1) 1 2 with
  | 0 => .core | 1 => .quad | _ => .stack

/-- A stage of a launch from its entry: queues by identifier, sections by their address in the code region. -/
def stageOfRec (b : Bases) (secs : List (Nat × Nat)) (r : List Byte) : Stage :=
  { input := b.queues.getD (leAt r 5 1) 0,
    outs := (List.range (leAt r 0xD 1)).map (fun i => (b.queues.getD (leAt r (0x10 + i) 1) 0, leAt r (0x14 + i) 1)),
    long := bitOf (leAt r 6 1) 0, kind := gangOfRec r, k := leAt r 7 1, min := leAt r 8 2, max := leAt r 0xA 2,
    weight := leAt r 0xC 1, aging := leAt r 0x18 8, secs := secs }

/-- A launch from its entry: LOADED (R360). -/
def launchOfRec (t : Tables) (b : Bases) (secs : Nat → List (Nat × Nat)) (i : Nat) (r : List Byte) : Launch :=
  let mine (q : Nat) : Bool := leAt (t.queues.getD q []) 6 1 == i
  { state := .loaded, prio := leAt r 4 1, declared := leAt r 4 1, solve := bitOf (leAt r 5 1) 0, coll := bitOf (leAt r 5 1) 1,
    cores := leAt r 6 2, fports := leAt r 8 1,
    stages := (t.stages.zipIdx.filter (fun g => leAt g.1 4 1 == i)).map (fun g => stageOfRec b (secs g.2) g.1),
    queues := ((List.range t.queues.length).filter mine).map (fun q => b.queues.getD q 0),
    ctrs := b.counters,
    init := (t.items.filter (fun x => leAt x 6 1 == 0 && mine (leAt x 4 2))).map (fun x =>
      (b.queues.getD (leAt x 4 2) 0, bytesIn x 0x50 (leAt (t.queues.getD (leAt x 4 2) []) 4 1), lateOf x)),
    done := 0, committed := 0, quiet := none }

/-- A queue from its entry and its ring's place, every slot FREE (R364). -/
def queueOfRec (b : Bases) (r : List Byte) (ring : Nat) : Queue :=
  { launch := b.launches.getD (leAt r 6 1) 0, size := leAt r 4 1, ring := ring,
    slots := List.replicate (2 ^ leAt r 5 1) { st := .free, bytes := [], late := [], since := 0, order := 0, tries := 0 },
    nextOrder := 0 }

/-- Queues and launches entered, with the initial items placed (R99 step 8). -/
def State.enterLaunches (s : State) (p : Nat) (t : Tables) (b : Bases) (rings : List Nat) (secs : Nat → List (Nat × Nat)) :
    Option State :=
  let ls := t.launches.zipIdx.map (fun r => (b.launches.getD r.2 0, launchOfRec t b secs r.2 r.1))
  let s1 := s.updPart p (fun v =>
    { v with queues := t.queues.zipIdx.foldl (fun q r => Table.set q (b.queues.getD r.2 0) (queueOfRec b r.1 (rings.getD r.2 0))) v.queues,
             launches := ls.foldl (fun l e => Table.set l e.1 e.2) v.launches })
  s1.placeInitial p (ls.flatMap (fun e => e.2.init))

/-- Index of each stage within its launch, in the order of `stages=` (R359). -/
def stageIndices (stages : List (List Byte)) : List Nat :=
  stages.zipIdx.map (fun g => (stages.take g.2).countP (fun o => leAt o 4 1 == leAt g.1 4 1))

/-- Steps 4 to 8 of R99, once the tables are known; nothing when a step fails. Relocated words are written before any counter of
the object is armed, so that no counter counts them (DESIGN CHOICE, log 97); the rotation of the units starts anew with each
object (DESIGN CHOICE, log 109). -/
def State.loadTables (s : State) (p : Nat) (req : LoadRequest) (l : List Section) (t : Tables) : Option State :=
  let v := s.part p
  let n := t.regions.length
  let constParts (l : List Section) : List (Nat × List Byte) :=
    (l.filter (fun x => x.kind == 7)).map (fun x => (x.align, x.bytes)) ++ (l.filter (fun x => x.kind == 8)).map (fun x => (x.align, x.bytes))
      ++ ((pipeRecords (bytesOf l 9) 4 128).getD []).map (fun w => (128, w))
  let codeParts (l : List Section) : List (Nat × List Byte) := (l.filter Section.stream).map (fun x => (16, x.bytes))
  let ce := mkEntry (req.vbases.getD n 0) (logFor (layOut (constParts l) 0).2.length) req.constAt.2 (0x90 + req.constAt.1 % 4 * 4)
    (req.pbases.getD n 0)
  let ke := mkEntry (req.vbases.getD (n + 1) 0) (logFor (layOut (codeParts l) 0).2.length) req.codeAt.2 (0xB0 + req.codeAt.1 % 4 * 4)
    (req.pbases.getD (n + 1) 0)
  let bases : List RangeEntry → Bases := fun es =>
    { regions := es.map (fun e => e.base), constant := ce.base, counters := req.counterIds, queues := req.queueIds,
      launches := req.launchIds, stages := stageIndices t.stages,
      params := t.params.zipIdx.map (fun r => match req.params.find? (fun q => q.1 == r.2) with
        | some q => q.2.toNat
        | none => leAt r.1 8 8) }
  if !idsOk req.launchIds t.launches.length (fun i => (v.launches.find i).isSome)
      ∨ !idsOk req.queueIds t.queues.length (fun i => (v.queues.find i).isSome)
      ∨ !idsOk req.counterIds t.counters.length (fun _ => false) ∨ !s.ringsOk p req.rings t.queues then none
  else
    ((State.placeRegions p t.regions req.vbases req.pbases (0, 0, 0) s).bind (fun r =>
      (r.1.addEntry p ce).bind (fun s1 => (s1.addEntry p ke).bind (fun s2 =>
        (s2.placeMailbox p req.mailbox).bind (fun s3 =>
          (relocateAll (bases r.2) t.symbols t.relocs l).bind (fun l1 => (tablesOf l1).bind (fun t1 =>
            let s4 := State.fillRegions p (bytesOf l1 6) (r.2.zip t.regions) s3
            let code := layOut (codeParts l1) 0
            let s5 := (s4.fillRegion p ce (layOut (constParts l1) 0).2).fillRegion p ke code.2
            let starts := ((l1.filter Section.stream).zip code.1)
            let secs (g : Nat) : List (Nat × Nat) := [1, 2, 3, 4].map (fun k =>
              match starts.find? (fun x => x.1.kind == k && x.1.stage == g) with
              | some x => (ke.base + x.2, x.1.bytes.length)
              | none => (0, 0))
            if t1.ok t1.stages.length then
              (State.armAll p t1 r.2 (bases r.2) (t1.counters.zip req.counterIds) s5).bind (fun s6 =>
                s6.enterLaunches p t1 (bases r.2) req.rings secs)
            else none)))))))

/-- The load of R99, all or nothing. -/
def State.load (s : State) (p : Nat) (req : LoadRequest) : Option State :=
  let b := req.bytes
  let stages := leAt b 0xC 4
  if !headerOk b then none
  else
    match sectionsOf b with
    | none => none
    | some l =>
      match tablesOf l with
      | none => none
      | some t =>
        if countsOk l stages ∧ t.ok stages ∧ canvasRecsOk (bytesOf l 7) ∧ s.needsOk b ∧ tokensOk (bytesOf l 5) stages then s.loadTables p req l t
        else none

/-- OBJECT_LOAD (R99): the object's launches become LOADED, or the load is refused and changes nothing. -/
def execObjectLoad (part : Nat) (req : LoadRequest) (s : State) : Host.Outcome State Fault Refusal :=
  match s.load part req with
  | some s1 => .next s1
  | none => .next s

end Sys2Proof.Machine
end

