-- ==== Sys2Proof/Machine/Service.lean ====
section
/-! DEFINITION. Control space (R329, R377, R383, R417, R424, R449, R450, R459), telemetry (R460 to R465), the side-band
controller: boot, bring-up, updates, monitoring, measurements and repairs (R455 to R458, R466 to R468). -/

namespace Sys2Proof.Machine

/-- First address of the control blocks (R377). -/
def blockBase : Nat := 0xFF00800000
/-- First address of the telemetry blocks (R459). -/
def teleBase : Nat := 0xFF00C00000

/-- The telemetry block of a partition changed. -/
def State.updTel (s : State) (p : Nat) (f : Telemetry → Telemetry) : State := s.updPart p (fun v => { v with tel := f v.tel })

/-- Bits of a word kept by a list of fields (low bit, length). -/
def keepFields (w : Word) (fs : List (Nat × Nat)) : Word :=
  BitVec.ofNat 64 ((fs.map (fun f => field w.toNat f.1 f.2 * 2 ^ f.1)).sum)

/-- A word of a range entry. -/
def RangeEntry.word (e : RangeEntry) (i : Nat) : Word :=
  match i with
  | 0 => e.w0
  | 1 => e.w1
  | 2 => e.w2
  | _ => e.w3

/-- A word of a range entry written. -/
def RangeEntry.setWord (e : RangeEntry) (i : Nat) (w : Word) : RangeEntry :=
  match i with
  | 0 => { e with w0 := w }
  | 1 => { e with w1 := w }
  | 2 => { e with w2 := w }
  | _ => { e with w3 := w }

/-- A write into the control block of partition p that has no event of its own (R377); the fields that must be zero are
dropped (DEDUCED, log 27). -/
def Part.blockWrite (v : Part) (off : Nat) (w : Word) : Part :=
  if off < 0x2000 then
    { v with shadow := v.shadow.set (off / 32) ((v.shadow.get (off / 32) RangeEntry.reset).setWord (off % 32 / 8) w) }
  else if 0x4040 ≤ off ∧ off < 0x4060 then { v with brka := vset v.brka ((off - 0x4040) / 8) w }
  else match off with
    | 0x4020 => { v with saveBase := keepFields w [(16, 48)] }
    | 0x4028 => { v with saveCnt := keepFields w [(0, 10)] }
    | 0x4030 => { v with tvecp := keepFields w [(0, 1), (2, 62)] }
    | 0x4060 => { v with brkc := keepFields w [(0, 16)] }
    | _ => v

/-- A write into a telemetry block that has no event of its own (R459, R464). -/
def Telemetry.blockWrite (t : Telemetry) (off : Nat) (w : Word) : Telemetry :=
  if 0x100 ≤ off ∧ off < 0x300 then { t with evsel := t.evsel.set ((off - 0x100) / 8) (field w.toNat 0 16) }
  else match off with
    | 0x008 => { t with sampctl := keepFields w [(8, 24), (0, 4)] }
    | 0x010 => { t with evmask := keepFields w [(0, 3)] }
    | 0x020 => { t with snapctl := keepFields w [(63, 1), (0, 16)], matched := false }
    | _ => t

/-- CONTROL_REGISTER_WRITE (R377, R413, R417, R424, R459): virtual function p and the side-band controller reach the
control block of partition p, the physical function and the side-band controller the package's registers. Registers with
an event of their own, read-only ones and reserved addresses take nothing here. -/
def execControlRegisterWrite (fn : HostFn) (addr : Nat) (value : BitVec 64) (s : State) : Host.Outcome State Fault Refusal :=
  let p := (addr - blockBase) / 0x10000
  let mine : Bool := match fn with
    | .virt q => q == p
    | .newt => true
    | .physical => false
  let package : Bool := match fn with
    | .virt _ => false
    | .newt | .physical => true
  let n := (addr - 0xFF00002000) / 0x100
  .next (
    if addr % 8 ≠ 0 ∨ s.boot.failed then s
    else if blockBase ≤ addr ∧ p < 24 then
      if mine then s.updPart p (fun v => v.blockWrite ((addr - blockBase) % 0x10000) value) else s
    else if !package then s
    else if 0xFF00002000 ≤ addr ∧ n < 13 ∧ addr % 0x100 = 0x10 then
      if s.portPresent n then
        let v := value.toNat
        s.setPort n { s.portAt n with coll := BitVec.ofNat 4 (field v 8 4), copy := BitVec.ofNat 4 (field v 4 4), host := BitVec.ofNat 4 v }
      else s
    else if 0xFF00003000 ≤ addr ∧ addr < 0xFF00003000 + 8 * 240 then
      { s with route := s.route.set ((addr - 0xFF00003000) / 8) (keepFields value [(62, 2), (36, 12), (1, 12)]) }
    else if teleBase ≤ addr ∧ addr < teleBase + 24 * 0x1000 then
      s.updTel ((addr - teleBase) / 0x1000) (fun t => t.blockWrite (addr % 0x1000) value)
    else s)

/-- MIGSTAT (R383), which the sparing of a row leaves as it was (R466). -/
def Migration.stat (m : Migration) : Nat :=
  match m.sparing.getD m.st with
  | .idle => 0
  | .blocked | .copying | .replay => 1
  | .done => 2
  | .refused => 3

/-- A word of a counter's state block (R329). -/
def State.counterWord (s : State) (c off : Nat) : Word :=
  let k := s.counter c
  BitVec.ofNat 64 (if 0x40 ≤ off then leAt k.item (off - 0x40) 8 else match off with
    | 0x00 => k.vbase
    | 0x08 => k.vlen
    | 0x10 => k.total
    | 0x18 => k.count
    | 0x20 => k.phase * 2 ^ 32 + b2n k.armed * 2 ^ 31 + b2n (s.hasWaiters c) * 2 ^ 30 + b2n k.ovfl * 2 ^ 29 + k.part * 2 ^ 24
        + k.waiting.length * 2 ^ 16 + k.action
    | 0x28 => k.arg
    | 0x30 => k.fires
    | _ => 0)

/-- RTSTAT (R382). -/
def Part.rtstat (v : Part) : Nat := b2n v.going * 2 ^ 63 + b2n v.rtRefused * 2 ^ 62 + v.rtReason * 2 ^ 8 + v.rtEntry

/-- PMSTAT (R384). -/
def State.pmstat (s : State) (p : Nat) : Nat :=
  b2n (s.pmBusy p) * 2 ^ 63 + b2n (s.pmPinned p) * 2 ^ 62 + (s.part p).savedN % 2 ^ 16 * 2 ^ 32 + (s.part p).discardedN % 2 ^ 16 * 2 ^ 16

/-- A word of a control block as it reads (R377). -/
def State.blockWord (s : State) (p off : Nat) : Word :=
  let v := s.part p
  if off < 0x2000 then (v.shadow.get (off / 32) RangeEntry.reset).word (off % 32 / 8)
  else if off < 0x4000 then (v.active.get ((off - 0x2000) / 32) RangeEntry.reset).word (off % 32 / 8)
  else if 0x4040 ≤ off ∧ off < 0x4060 then vget v.brka ((off - 0x4040) / 8) 0
  else match off with
    | 0x4008 => BitVec.ofNat 64 v.rtstat
    | 0x4018 => BitVec.ofNat 64 (s.pmstat p)
    | 0x4020 => v.saveBase
    | 0x4028 => v.saveCnt
    | 0x4030 => v.tvecp
    | 0x4060 => v.brkc
    | _ => 0

/-- PSTAT (R424). -/
def Port.pstat (p : Port) : Nat :=
  b2n p.up * 2 ^ 19 + b2n p.chg * 2 ^ 18 + p.width.toNat * 2 ^ 16 + p.maxw.toNat * 2 ^ 14 + b2n p.fallbk * 2 ^ 13 + b2n p.ide * 2 ^ 12
    + p.ordq.length

/-- PKSTAT (R450, R451). -/
def State.pkstat (s : State) : Nat :=
  b2n s.belowFloor * 2 ^ 63 + b2n s.throt * 2 ^ 62 + s.fscale * 2 ^ 32 + s.pavgReading

/-- A word of a telemetry block as it reads (R459, R464). -/
def Telemetry.blockWord (t : Telemetry) (off : Nat) : Word :=
  if 0x100 ≤ off ∧ off < 0x300 then BitVec.ofNat 64 (t.evsel.get ((off - 0x100) / 8) 0)
  else if 0x300 ≤ off ∧ off < 0x500 then BitVec.ofNat 64 (t.pmc.get ((off - 0x300) / 8) 0)
  else match off with
    | 0x000 => t.trctl
    | 0x008 => t.sampctl
    | 0x010 => t.evmask
    | 0x018 => t.cdump
    | 0x020 => t.snapctl
    | 0x030 => t.snaplost
    | 0x038 => t.snapbuf
    | _ => 0

/-- A word of the package's registers, outside the control blocks, as the physical function and Newt read it (R329, R383,
R413, R417, R418, R424, R442, R449, R450, R459, R463). -/
def State.packageWord (s : State) (addr : Nat) : Word :=
  if 0xFF00100000 ≤ addr ∧ addr < 0xFF00100000 + 128 * 40960 then
    s.counterWord ((addr - 0xFF00100000) / 128) ((addr - 0xFF00100000) % 128)
  else if 0xFF00002000 ≤ addr ∧ addr < 0xFF00002000 + 13 * 0x100 then
    let p := s.portAt ((addr - 0xFF00002000) / 0x100)
    BitVec.ofNat 64 (match addr % 0x100 with
      | 0x00 => p.pstat
      | 0x08 => p.reqw.toNat
      | 0x10 => p.coll.toNat * 256 + p.copy.toNat * 16 + p.host.toNat
      | _ => 0)
  else if 0xFF00003000 ≤ addr ∧ addr < 0xFF00003000 + 8 * 240 then s.routeOf ((addr - 0xFF00003000) / 8)
  else if 0xFF00004000 ≤ addr ∧ addr < 0xFF00004000 + 8 * 24 then s.inb.get ((addr - 0xFF00004000) / 8) 0
  else if 0xFF00A00000 ≤ addr ∧ addr < 0xFF00A00000 + 8 * 25 then s.eqbase.get ((addr - 0xFF00A00000) / 8) 0
  else if teleBase ≤ addr ∧ addr < teleBase + 24 * 0x1000 then (s.part ((addr - teleBase) / 0x1000)).tel.blockWord (addr % 0x1000)
  else if 0xFF00C18000 ≤ addr ∧ addr < 0xFF00C18000 + 8 * 0x40 then BitVec.ofNat 64 (s.pfEvents.get ((addr - 0xFF00C18000) / 8) 0)
  else match addr with
    | 0xFF00001008 => BitVec.ofNat 64 s.migration.stat
    | 0xFF00005000 => s.pkcap
    | 0xFF00005008 => BitVec.ofNat 64 s.pkstat
    | _ => 0

/-- A word of control space as a function or Newt reads it: the control block of partition p is reached by virtual function
p and Newt alone (R377), and the rest by the physical function and Newt (R413, R459, R463). -/
def State.controlRead (s : State) (fn : HostFn) (addr : Nat) : Word :=
  let p := (addr - blockBase) / 0x10000
  let inBlock : Bool := decide (blockBase ≤ addr) && decide (p < 24)
  let block := s.blockWord p ((addr - blockBase) % 0x10000)
  match fn with
  | .newt => if inBlock then block else s.packageWord addr
  | .physical => if inBlock then 0 else s.packageWord addr
  | .virt q => if inBlock && p == q then block else 0

/-- A word of BAR2 of virtual function p (R329, R413): the counter blocks of the partition's home agents, 8 KiB each, in
ascending order of channel. -/
def State.bar2Read (s : State) (p off : Nat) : Word :=
  match (s.coresOf p)[off / 8192]? with
  | some c => s.counterWord (64 * c + off % 8192 / 128) (off % 128)
  | none => 0

/-- The vendor DVSEC of a function: UCAP, and a virtual function's partition (R3, R413). -/
def State.dvsec (s : State) (fn : HostFn) : Word × Option Nat :=
  (s.ucap, match fn with
    | .virt p => some p
    | .physical | .newt => none)

/-- The size that the device reports for HDM decoder p, in bytes (R416). -/
def State.decoderSize (s : State) (p : Nat) : Nat := s.spaceOf p

/-! ## Telemetry -/

/-- Is the address of a telemetry area in a partition's channels: the snapshot area whole, the others by ADDR (R459,
R465)? -/
def State.teleOk (s : State) (p off : Nat) (v : Nat) : Bool :=
  s.inChannels p (field v 8 40 * 256) (if off = 0x038 then 44608 else 1)

/-- TELEMETRY_ENABLE_WRITE (R459, R465): a write of TRCTL, CDUMP or SNAPBUF; one that sets EN with an address outside
the partition's channels is discarded and counts PMREJ. -/
def execTelemetryEnableWrite (p off : Nat) (value : BitVec 64) (s : State) : Host.Outcome State Fault Refusal :=
  let v := value.toNat
  let was := bitOf (s.part p).tel.trctl.toNat 63
  .next (
    if 24 ≤ p ∨ s.boot.failed ∨ !(off == 0x000 || off == 0x018 || off == 0x038) then s
    else if bitOf v 63 ∧ !s.teleOk p off v then s.count p 0x000C
    else match off with
      | 0x000 =>
        let s1 := s.updTel p (fun t => { t with trctl := keepFields value [(63, 1), (8, 40), (0, 5)] })
        if bitOf v 63 ∧ !was then s1.clearRing p (field v 8 40 * 256) else s1
      | 0x018 => s.updTel p (fun t =>
        { t with cdump := keepFields value [(63, 1), (8, 40)],
                 dumped := if bitOf t.cdump.toNat 63 then t.dumped else s.gtc / 100000 })
      | _ => s.updTel p (fun t => { t with snapbuf := keepFields value [(63, 1), (8, 40)] }))

/-- COUNTER_DUMP (R460): once in each 100 µs of GTC that has begun since the dump was enabled. -/
def execCounterDump (p : Nat) (s : State) : Host.Outcome State Fault Refusal :=
  let t := (s.part p).tel
  .next (if bitOf t.cdump.toNat 63 ∧ t.dumped < s.gtc / 100000 then
      (s.updTel p (fun t => { t with dumped := s.gtc / 100000 })).writeFull p (field t.cdump.toNat 8 40 * 256) ((List.range 64).flatMap (fun i => leBytes 8 (t.pmc.get i 0)))
    else s)

/-- TRACE_SAMPLE (R459, R461, R462): a strand's condition, PC and word go to its partition's ring, when SAMPCTL samples the
strand and PERIOD cycles have passed since its last sample. -/
def execTraceSample (core : Nat) (st : Strand) (s : State) : Host.Outcome State Fault Refusal :=
  let b : State := { s with core := core }
  let nd := b.me.node
  let t := (s.part nd.part).tel
  let c := t.sampctl.toNat
  let key := 4 * core + st.num
  let due : Bool := match t.sampled.find key with
    | some last => decide (last + field c 8 24 ≤ s.cycle)
    | none => true
  let pc := (b.me.strand st).pc.toNat
  let word := match b.fetch st pc with
    | .word w => w.toNat
    | _ => 0
  .next (if b.me.busy ∧ field c 8 24 ≠ 0 ∧ bitOf c st.num ∧ due then
      (s.updTel nd.part (fun t => { t with sampled := t.sampled.set key s.cycle })).trace nd.part 1 (s.condNow core st) core
        nd.launch nd.stage st.num pc word
    else s)

/-- SNAPSHOT_TRIGGER (R464): from Newt, source 1. A match of SNAPCTL triggers with the count that makes it (`countN`), so
that no turn of its own does. -/
def execSnapshotTrigger (p : Nat) (source : BitVec 8) (s : State) : Host.Outcome State Fault Refusal :=
  .next (if source = 1 ∧ !s.boot.failed then s.snapTrigger p 1 0xFFFF else s)

/-- SNAPSHOT_WRITE_OUT (R465): the latched snapshot goes to SNAPBUF once. -/
def execSnapshotWriteOut (p : Nat) (s : State) : Host.Outcome State Fault Refusal :=
  let t := (s.part p).tel
  .next (match t.snap with
  | some n =>
    if bitOf t.snapbuf.toNat 63 ∧ !n.written then
      (s.updTel p (fun t => { t with snap := some { n with written := true } })).writeFull p (field t.snapbuf.toNat 8 40 * 256) n.bytes
    else s
  | none => s)

/-- SNAPREL (R464): the physical function or Newt writes 1. -/
def execSnaprel (w : SnapRelease) (s : State) : Host.Outcome State Fault Refusal :=
  let may : Bool := match w.fn with
    | .virt _ => false
    | .physical | .newt => true
  .next (if may ∧ bitOf w.value.toNat 0 ∧ !s.boot.failed then s.updTel w.part (fun t => { t with snap := none }) else s)

/-! ## The side-band controller -/

/-- Do both signatures of a bank verify, and is its quota within R328? -/
def bankOk (b : FlashImage) : Bool := b.fwSigOk && b.recSigOk && b.record.parts.all (fun e => decide (e.2.quota ≤ 63))

/-- PLDM codes of what Newt reports (log 28): 1 the other bank booted, 2 both banks failed, 3 ready, 4 an update's
verdict, 5 a retirement refused, 6 a repair exhausted, 7 a step of bring-up failed. -/
def State.pldm (s : State) (code v : Nat) : State := { s with sent := s.sent ++ [.pldm code (BitVec.ofNat 64 v)] }

/-- Booting (R457): the bank that is active now, the other when its signature fails, or none. -/
def State.bootFrom (s : State) (n : Bool) : State :=
  let b := s.boot
  if bankOk (b.bank n) then
    { s with config := (b.bank n).record, boot := { b with active := n, next := n, booted := true, failed := false } }
  else if bankOk (b.bank (!n)) then
    State.pldm { s with config := (b.bank (!n)).record, boot := { b with active := !n, next := !n, booted := true, failed := false } } 1 0
  else State.pldm { s with boot := { b with active := n, next := n, booted := false, failed := true } } 2 0

/-- RESET_BOOT (R457): every register takes its reset value, memory and flash keep what they hold, and the bank that
the last update made active boots, or the other. Lanes that have failed stay failed until the module is replaced, so that MAXW,
the narrowest code whose lanes all work, outlives the reset (R424, R426, R466). -/
def execResetBoot (s : State) : Host.Outcome State Fault Refusal :=
  let r : State :=
    { State.reset with
      agenda := s.agenda, focus := s.focus, round := s.round, free := s.free, mem := s.mem, poison := s.poison, sent := s.sent,
      around := s.around, ports := s.ports.mapVals (fun _ p => { Port.reset with maxw := p.maxw }),
      boot := { s.boot with booted := false, failed := false, ready := false } }
  .next (r.bootFrom s.boot.next)

/-- The pages of a channel. -/
def channelPages (c : Nat) : List Nat := (List.range 8192).map (8192 * c + ·)

/-- The areas that enabled units of the device write by physical address: error queues, trace rings, counter dumps and
snapshots, each with its bytes (R442, R459). -/
def State.deviceAreas (s : State) : List (Nat × Nat) :=
  let area (w : Word) (n : Nat) : List (Nat × Nat) := if bitOf w.toNat 63 then [(field w.toNat 8 40 * 256, n)] else []
  s.eqbase.flatMap (fun e => area e.2 65792) ++ s.parts.flatMap (fun v =>
    let t := v.2.tel
    area t.trctl (256 + 32 * 2 ^ field t.trctl.toNat 0 5) ++ area t.cdump 512 ++ area t.snapbuf 44608)

/-- Is a page in use: mapped by an active entry, part of such an area, held by the host, or with a byte in it that is not zero
or is poisoned (log 25)? -/
def State.pageUsed (s : State) (g : Nat) : Bool :=
  s.pageMapped g || s.deviceAreas.any (fun r => decide (r.1 / 65536 ≤ g) && decide (g ≤ (r.1 + r.2 - 1) / 65536))
    || s.hostDir.any (fun h => h.line / 512 == g) || s.mem.any (fun c => c.1 / 65536 == g) || s.poison.any (fun x => x / 4096 == g)

/-- Free pages of a partition in its other channels, lowest first (DESIGN CHOICE, log 25). -/
def State.freePages (s : State) (p chan : Nat) : List Nat :=
  (((s.coresOf p).filter (fun c => c != chan && !s.config.retired.contains c)).flatMap channelPages).filter (fun g =>
    !s.pageUsed g && !s.takenPages.contains g)

/-- A retired channel is applied again after a reset (R466, R468): its pages are reached at free pages of its partition, as its
retirement left them (DESIGN CHOICE, log 25: at which). -/
def State.applyRetired (s : State) (chan : Nat) : State :=
  match s.partOf chan with
  | none => s
  | some p =>
    { s with migration := { s.migration with
        redirects := s.migration.redirects ++ (channelPages chan).zip (s.freePages p chan) } }

/-- Step 3 of bring-up (R468): the spared rows and the retired channels are applied, every sector of device memory is zero, and
no cache holds anything. -/
def State.zeroDram (s : State) : State :=
  s.config.retired.foldl State.applyRetired
    { s with mem := s.mem.filter (fun c => decide (0x10000000000 ≤ c.1)), poison := s.poison.filter (fun x => decide (0x10000000000 ≤ 16 * x)),
             l2 := [], fills := [], snoop := [], owners := [], rowsOn := s.config.spareRows,
             cores := s.cores.mapVals (fun _ k => { k with l1 := [] }) }

/-- Step 4: the spare map is applied, and every scratchpad and weight buffer is zero. -/
def State.zeroCores (s : State) : State :=
  (s.config.spares.map (·.1)).foldl (fun a c => a.updCore c (fun k => { k with spared := true }))
    { s with cores := s.cores.mapVals (fun _ k => { k with window := [], winPoison := [], wtags := tab 4 (fun _ => 0) }) }

/-- Step 5: PKCAP is 1,700, the floors follow from it, each partition counting CAPSCALE where they are scaled, and the
allotments (R452, R470). -/
def State.programPower (s : State) : State :=
  let s1 := State.scaleFloors { s with pkcap := 1700, capSince := s.gtc, belowFloor := false } 1700
  ((List.range 16).foldl (fun a k => a.setAllotment k (s1.allotmentOf k)) s1).setAllLimits

/-- Step 6: port 0 trains, then the fabric ports in order, each with what it finds at its other end. -/
def State.trainAll (s : State) (partners : List (Nat × LinkPartner)) : State :=
  (List.range (Config.fabricPorts s.config.variant + 1)).foldl (fun a n => match partners.find? (fun e => e.1 == n) with
    | some e => a.train n e.2
    | none => a) s

/-- The steps of bring-up from the n-th on (R468), up to one that fails, which is reported. -/
def State.bringUp (s : State) (fails : Option Nat) (steps : List (Nat × (State → State))) : State :=
  match steps with
  | [] => State.pldm { s with boot := { s.boot with ready := true } } 3 0
  | (n, f) :: rest => if fails = some n then s.pldm 7 n else (f s).bringUp fails rest

/-- POWER_ON_BRING_UP (R468): firmware and record (R457), and then steps 3 to 7 in their order; the ports train with what lies
around the package. -/
def execPowerOnBringUp (s : State) : Host.Outcome State Fault Refusal :=
  .next (
    if s.boot.ready ∨ s.railsOff then s
    else
      let s1 := if s.boot.booted then s else s.bootFrom s.boot.next
      if s1.boot.failed then s1
      else s1.bringUp s.around.flaw [(3, State.zeroDram), (4, State.zeroCores), (5, State.programPower),
        (6, fun a => a.trainAll s.around.ends)])

/-- PLDM_FIRMWARE_UPDATE (R457): the inactive bank is written and verified; it becomes active at the next reset. -/
def execPldmFirmwareUpdate (image : FlashImage) (s : State) : Host.Outcome State Fault Refusal :=
  let n := !s.boot.active
  .next (State.pldm { s with boot := { s.boot.setBank n image with next := if bankOk image then n else s.boot.active } } 4 (b2n (bankOk image)))

/-- Spare cores left, two to a stack (R466). -/
def State.sparesLeft (s : State) : Nat := 32 - s.config.spares.length

/-- The value of sensor n (R455; numbers are the model's, log 28): 0 PAVG, 2 ECCCOR, 3 ECCUNC, 4 spare cores left;
temperatures and any other are readings that no rule computes. -/
def State.sensor (s : State) (n : Nat) : Word :=
  match n with
  | 0 => BitVec.ofNat 64 s.pavgReading
  | 2 => BitVec.ofNat 64 s.ecc.1
  | 3 => BitVec.ofNat 64 s.ecc.2
  | 4 => BitVec.ofNat 64 s.sparesLeft
  | _ => Config.sensorReading n s.free

/-! ## Repairs (R466, R467) -/

/-- The repair of a core under way, with whether the core was held before it. -/
def State.coreRepair? (s : State) (c : Nat) : Option Bool :=
  s.repairs.findSome? (fun r => match r with
    | .core d held => if d = c then some held else none
    | .channel _ => none)

/-- A repair of a core begins, unless it is under way; with both spares of the stack used it is exhausted. -/
def State.beginSpare (s : State) (c : Nat) : State :=
  match s.partOf c with
  | none => s
  | some p =>
    if (s.coreRepair? c).isSome then s
    else if 2 ≤ (s.config.spares.filter (fun e => e.1 / 40 == c / 40)).length then s.pldm 6 c
    else { s with repairs := s.repairs ++ [.core c ((s.part p).holds.contains (.core c))] }

/-- A repair of a core goes on (R466, R467): while a pre-emption of the partition is busy it waits; the core is emptied as by
a core-scope PMCMD with HOLD; once it is empty a spare of its stack takes its place, and the hold ends. COREID, window and
home agent carry over. -/
def State.stepSpare (s : State) (c : Nat) : State :=
  match s.partOf c, s.coreRepair? c with
  | some p, some held =>
    if s.pmBusy p then s
    else if (s.coreAt c).busy then s.preemptScope p (.core c) true false
    else
      let s1 := (s.recordRepair (fun r => { r with spares := r.spares ++ [(c, r.spares.length)] })).updCore c (fun k => { k with spared := true })
      let s2 : State := { s1 with repairs := s1.repairs.erase (.core c held), coreTally := s1.coreTally.set c 0 }
      if held then s2 else s2.updPart p (fun v => { v with holds := v.holds.filter (fun h => h != .core c) })
  | _, _ => s

/-- SPARE_CORE (R466): Newt begins the repair of a core whose rollbacks pass the threshold, and goes on with one under way. -/
def execSpareCore (core : Nat) (s : State) : Host.Outcome State Fault Refusal :=
  .next (if s.boot.failed then s
    else if (s.coreRepair? core).isSome then s.stepSpare core
    else if Config.repairThreshold 0 < s.coreTally.get core 0 then (s.beginSpare core).stepSpare core
    else s)

/-- A row is spared (R466): it is blocked and copied as a page is (R383), and then stands on the spared-row list. -/
def State.spareRow (s : State) (row : Nat) : State :=
  if s.config.spareRows.contains row ∨ s.movingPages ≠ [] ∨ !s.pageOk row then s
  else { s with migration := { s.migration with st := .blocked, src := row, dst := row, sparing := some s.migration.st, queue := [], stalled := [] } }

/-- ROW_SPARING (R466): a row of DRAM whose corrected errors pass the threshold. -/
def execRowSparing (row : Nat) (s : State) : Host.Outcome State Fault Refusal :=
  .next (if !s.boot.failed ∧ Config.repairThreshold 1 < s.rowTally.get row 0 then s.spareRow row else s)

/-- Pages of a channel that no redirect has taken away: every one of them moves at a retirement. -/
def State.livePages (s : State) (chan : Nat) : List Nat :=
  (channelPages chan).filter (fun g => !s.migration.redirects.any (fun r => r.1 == g))

/-- A retirement begins, unless it is under way (R466, R467); without enough free pages, or where a page has been migrated
into the channel and cannot move again (R383), it is refused and reported. -/
def State.beginRetire (s : State) (chan : Nat) : State :=
  match s.partOf chan with
  | none => s
  | some p =>
    if s.config.retired.contains chan ∨ s.repairs.contains (.channel chan) then s
    else if (s.freePages p chan).length < (s.livePages chan).length ∨ s.migration.redirects.any (fun r => r.2 / 8192 == chan) then s.pldm 5 chan
    else { s with repairs := s.repairs ++ [.channel chan] }

/-- A retirement goes on: one more page migrates; with every page away the channel is on the retired list. -/
def State.stepRetire (s : State) (chan : Nat) : State :=
  match s.partOf chan with
  | none => s
  | some p =>
    if !s.repairs.contains (.channel chan) ∨ s.movingPages ≠ [] then s
    else match (s.livePages chan).head? with
      | none =>
        let s1 := s.recordRepair (fun r => { r with retired := r.retired ++ [chan] })
        { s1 with repairs := s1.repairs.erase (.channel chan) }
      | some g => match (s.freePages p chan).head? with
        | some d => s.migrate g d
        | none => State.pldm { s with repairs := s.repairs.erase (.channel chan) } 5 chan

/-- CHANNEL_RETIREMENT (R466, R467): Newt begins the retirement of a channel whose uncorrectable errors pass the threshold, and
goes on with one under way. -/
def execChannelRetirement (chan : Nat) (s : State) : Host.Outcome State Fault Refusal :=
  .next (if s.boot.failed then s
    else if s.repairs.contains (.channel chan) then s.stepRetire chan
    else if Config.repairThreshold 2 < s.chanTally.get chan 0 then (s.beginRetire chan).stepRetire chan
    else s)

/-- PLDM_MONITORING (R455): a sensor read, the PKCAP effecter, or a command for a repair of R466, whatever the tallies. With the
power rails off there is nothing that a repair could act on (R454). -/
def execPldmMonitoring (cmd : PldmCmd) (s : State) : Host.Outcome State Fault Refusal :=
  match cmd with
  | .sensor n => .next (State.useFree { s with sent := s.sent ++ [.pldm (0x100 + n) (s.sensor n)] })
  | .setCap v => .next (s.writeCap v)
  | .repairCore c => .next (if s.railsOff then s else (s.beginSpare c).stepSpare c)
  | .repairRow r => .next (if s.railsOff then s else s.spareRow r)
  | .repairChannel c => .next (if s.railsOff then s else (s.beginRetire c).stepRetire c)
  | .repairLane port width => if s.railsOff then .next s else execLaneFailure port width s

/-- SPDM_MEASUREMENTS (R455, R458): identity (0), firmware (1), configuration record (2), and the spare map and
retired-channel list in force (3), each as the bytes of its signed answer. -/
def execSpdmMeasurements (s : State) : Host.Outcome State Fault Refusal :=
  let r := s.config
  let plain : Config.Record := { r with spares := [], retired := [], spareRows := [] }
  let lists : Config.Record := { Config.Record.default with spares := r.spares, retired := r.retired }
  let fw := (s.boot.bank s.boot.active).firmware
  .next { s with sent := s.sent ++ [
    .spdm 0 (Config.spdmBytes 0 fw plain), .spdm 1 (Config.spdmBytes 1 fw Config.Record.default),
    .spdm 2 (Config.spdmBytes 2 0 plain), .spdm 3 (Config.spdmBytes 3 0 lists)] }

end Sys2Proof.Machine
end

