-- ==== Sys2Proof/Machine/Dispatch.lean ====
section
/-! DEFINITION. One arm per constructor of Instr: the call of its meaning. -/

namespace Sys2Proof.Machine

def exec (i : Instr) (s : State) : Host.Outcome State Fault Refusal :=
  match i with
  | .add t xd xa xb => Sys2Proof.Machine.execAdd t xd xa xb s
  | .sub t xd xa xb => Sys2Proof.Machine.execSub t xd xa xb s
  | .and t xd xa xb => Sys2Proof.Machine.execAnd t xd xa xb s
  | .or t xd xa xb => Sys2Proof.Machine.execOr t xd xa xb s
  | .xor t xd xa xb => Sys2Proof.Machine.execXor t xd xa xb s
  | .sll t xd xa xb => Sys2Proof.Machine.execSll t xd xa xb s
  | .srl t xd xa xb => Sys2Proof.Machine.execSrl t xd xa xb s
  | .sra t xd xa xb => Sys2Proof.Machine.execSra t xd xa xb s
  | .slt t xd xa xb => Sys2Proof.Machine.execSlt t xd xa xb s
  | .sltU t xd xa xb => Sys2Proof.Machine.execSltU t xd xa xb s
  | .min t xd xa xb => Sys2Proof.Machine.execMin t xd xa xb s
  | .minU t xd xa xb => Sys2Proof.Machine.execMinU t xd xa xb s
  | .max t xd xa xb => Sys2Proof.Machine.execMax t xd xa xb s
  | .maxU t xd xa xb => Sys2Proof.Machine.execMaxU t xd xa xb s
  | .mul t xd xa xb => Sys2Proof.Machine.execMul t xd xa xb s
  | .mulh t xd xa xb => Sys2Proof.Machine.execMulh t xd xa xb s
  | .mulhU t xd xa xb => Sys2Proof.Machine.execMulhU t xd xa xb s
  | .div t xd xa xb => Sys2Proof.Machine.execDiv t xd xa xb s
  | .divU t xd xa xb => Sys2Proof.Machine.execDivU t xd xa xb s
  | .rem t xd xa xb => Sys2Proof.Machine.execRem t xd xa xb s
  | .remU t xd xa xb => Sys2Proof.Machine.execRemU t xd xa xb s
  | .clz t xd xa => Sys2Proof.Machine.execClz t xd xa s
  | .ctz t xd xa => Sys2Proof.Machine.execCtz t xd xa s
  | .popc t xd xa => Sys2Proof.Machine.execPopc t xd xa s
  | .fsh t xd xa xb n => Sys2Proof.Machine.execFsh t xd xa xb n s
  | .addImmediate t xd xa imm => Sys2Proof.Machine.execAddImmediate t xd xa imm s
  | .andImmediate t xd xa imm => Sys2Proof.Machine.execAndImmediate t xd xa imm s
  | .orImmediate t xd xa imm => Sys2Proof.Machine.execOrImmediate t xd xa imm s
  | .xorImmediate t xd xa imm => Sys2Proof.Machine.execXorImmediate t xd xa imm s
  | .sllImmediate t xd xa sh => Sys2Proof.Machine.execSllImmediate t xd xa sh s
  | .srlImmediate t xd xa sh => Sys2Proof.Machine.execSrlImmediate t xd xa sh s
  | .sraImmediate t xd xa sh => Sys2Proof.Machine.execSraImmediate t xd xa sh s
  | .sltImmediate t xd xa imm => Sys2Proof.Machine.execSltImmediate t xd xa imm s
  | .bfx t xd xa pos len1 => Sys2Proof.Machine.execBfx t xd xa pos len1 s
  | .bfxU t xd xa pos len1 => Sys2Proof.Machine.execBfxU t xd xa pos len1 s
  | .bfi t xd xa pos len1 => Sys2Proof.Machine.execBfi t xd xa pos len1 s
  | .lui t xd imm => Sys2Proof.Machine.execLui t xd imm s
  | .orsh t xd imm => Sys2Proof.Machine.execOrsh t xd imm s
  | .ldB t xd xa imm => Sys2Proof.Machine.execLdB t xd xa imm s
  | .ldH t xd xa imm => Sys2Proof.Machine.execLdH t xd xa imm s
  | .ldW t xd xa imm => Sys2Proof.Machine.execLdW t xd xa imm s
  | .ldD t xd xa imm => Sys2Proof.Machine.execLdD t xd xa imm s
  | .ldBU t xd xa imm => Sys2Proof.Machine.execLdBU t xd xa imm s
  | .ldHU t xd xa imm => Sys2Proof.Machine.execLdHU t xd xa imm s
  | .ldWU t xd xa imm => Sys2Proof.Machine.execLdWU t xd xa imm s
  | .stB t xs xa imm => Sys2Proof.Machine.execStB t xs xa imm s
  | .stH t xs xa imm => Sys2Proof.Machine.execStH t xs xa imm s
  | .stW t xs xa imm => Sys2Proof.Machine.execStW t xs xa imm s
  | .stD t xs xa imm => Sys2Proof.Machine.execStD t xs xa imm s
  | .ldlu t xd xa imm => Sys2Proof.Machine.execLdlu t xd xa imm s
  | .pref t xa imm => Sys2Proof.Machine.execPref t xa imm s
  | .resq t xd xa imm => Sys2Proof.Machine.execResq t xd xa imm s
  | .amoSwap t xd xa xb scope wide => Sys2Proof.Machine.execAmoSwap t xd xa xb scope wide s
  | .amoAdd t xd xa xb scope wide => Sys2Proof.Machine.execAmoAdd t xd xa xb scope wide s
  | .amoAnd t xd xa xb scope wide => Sys2Proof.Machine.execAmoAnd t xd xa xb scope wide s
  | .amoOr t xd xa xb scope wide => Sys2Proof.Machine.execAmoOr t xd xa xb scope wide s
  | .amoXor t xd xa xb scope wide => Sys2Proof.Machine.execAmoXor t xd xa xb scope wide s
  | .amoMin t xd xa xb scope wide => Sys2Proof.Machine.execAmoMin t xd xa xb scope wide s
  | .amoMax t xd xa xb scope wide => Sys2Proof.Machine.execAmoMax t xd xa xb scope wide s
  | .amoCas t xd xa xb scope wide => Sys2Proof.Machine.execAmoCas t xd xa xb scope wide s
  | .beq t xa xb off => Sys2Proof.Machine.execBeq t xa xb off s
  | .bne t xa xb off => Sys2Proof.Machine.execBne t xa xb off s
  | .blt t xa xb off => Sys2Proof.Machine.execBlt t xa xb off s
  | .bge t xa xb off => Sys2Proof.Machine.execBge t xa xb off s
  | .bltU t xa xb off => Sys2Proof.Machine.execBltU t xa xb off s
  | .bgeU t xa xb off => Sys2Proof.Machine.execBgeU t xa xb off s
  | .jal t xd off => Sys2Proof.Machine.execJal t xd off s
  | .jalr t xd xa imm => Sys2Proof.Machine.execJalr t xd xa imm s
  | .fadd t xd xa xb dbl => Sys2Proof.Machine.execFadd t xd xa xb dbl s
  | .fsub t xd xa xb dbl => Sys2Proof.Machine.execFsub t xd xa xb dbl s
  | .fmul t xd xa xb dbl => Sys2Proof.Machine.execFmul t xd xa xb dbl s
  | .fdiv t xd xa xb dbl => Sys2Proof.Machine.execFdiv t xd xa xb dbl s
  | .fsqrt t xd xa dbl => Sys2Proof.Machine.execFsqrt t xd xa dbl s
  | .fmin t xd xa xb dbl => Sys2Proof.Machine.execFmin t xd xa xb dbl s
  | .fmax t xd xa xb dbl => Sys2Proof.Machine.execFmax t xd xa xb dbl s
  | .fma t xd xa xb dbl => Sys2Proof.Machine.execFma t xd xa xb dbl s
  | .fcmpEq t xd xa xb dbl => Sys2Proof.Machine.execFcmpEq t xd xa xb dbl s
  | .fcmpLt t xd xa xb dbl => Sys2Proof.Machine.execFcmpLt t xd xa xb dbl s
  | .fcmpLe t xd xa xb dbl => Sys2Proof.Machine.execFcmpLe t xd xa xb dbl s
  | .fcvtFromI64 t xd xa dbl rz => Sys2Proof.Machine.execFcvtFromI64 t xd xa dbl rz s
  | .fcvtFromU64 t xd xa dbl rz => Sys2Proof.Machine.execFcvtFromU64 t xd xa dbl rz s
  | .fcvtToI64 t xd xa dbl rz => Sys2Proof.Machine.execFcvtToI64 t xd xa dbl rz s
  | .fcvtToU64 t xd xa dbl rz => Sys2Proof.Machine.execFcvtToU64 t xd xa dbl rz s
  | .fcvtSD t xd xa rz => Sys2Proof.Machine.execFcvtSD t xd xa rz s
  | .fcvtDS t xd xa => Sys2Proof.Machine.execFcvtDS t xd xa s
  | .acwait t xd xa xb => Sys2Proof.Machine.execAcwait t xd xa xb s
  | .acread t xd xa => Sys2Proof.Machine.execAcread t xd xa s
  | .bar t xa xb => Sys2Proof.Machine.execBar t xa xb s
  | .wopen t xd xa => Sys2Proof.Machine.execWopen t xd xa s
  | .wnext t xd xa => Sys2Proof.Machine.execWnext t xd xa s
  | .wdone t xa xb => Sys2Proof.Machine.execWdone t xa xb s
  | .ipub t xa xb => Sys2Proof.Machine.execIpub t xa xb s
  | .solve t xd xa => Sys2Proof.Machine.execSolve t xd xa s
  | .pacq t xa => Sys2Proof.Machine.execPacq t xa s
  | .prel t => Sys2Proof.Machine.execPrel t s
  | .gtc t xd => Sys2Proof.Machine.execGtc t xd s
  | .snap t => Sys2Proof.Machine.execSnap t s
  | .hfence t => Sys2Proof.Machine.execHfence t s
  | .eret t => Sys2Proof.Machine.execEret t s
  | .nendS t => Sys2Proof.Machine.execNendS t s
  | .crd t xd cr => Sys2Proof.Machine.execCrd t xd cr s
  | .cwr t xa cr => Sys2Proof.Machine.execCwr t xa cr s
  | .trap t code => Sys2Proof.Machine.execTrap t code s
  | .vadd t vd va vb ws mask ls => Sys2Proof.Machine.execVadd t vd va vb ws mask ls s
  | .vsub t vd va vb ws mask ls => Sys2Proof.Machine.execVsub t vd va vb ws mask ls s
  | .vmul t vd va vb ws mask ls => Sys2Proof.Machine.execVmul t vd va vb ws mask ls s
  | .vfma t vd va vb mask ls => Sys2Proof.Machine.execVfma t vd va vb mask ls s
  | .vmin t vd va vb ws mask ls => Sys2Proof.Machine.execVmin t vd va vb ws mask ls s
  | .vmax t vd va vb ws mask ls => Sys2Proof.Machine.execVmax t vd va vb ws mask ls s
  | .vabs t vd va ws mask ls => Sys2Proof.Machine.execVabs t vd va ws mask ls s
  | .vneg t vd va ws mask ls => Sys2Proof.Machine.execVneg t vd va ws mask ls s
  | .vdiv t vd va vb ws mask ls => Sys2Proof.Machine.execVdiv t vd va vb ws mask ls s
  | .vrcp t vd va ws mask ls => Sys2Proof.Machine.execVrcp t vd va ws mask ls s
  | .vrsq t vd va ws mask ls => Sys2Proof.Machine.execVrsq t vd va ws mask ls s
  | .vsqrt t vd va ws mask ls => Sys2Proof.Machine.execVsqrt t vd va ws mask ls s
  | .vexp2 t vd va ws mask ls => Sys2Proof.Machine.execVexp2 t vd va ws mask ls s
  | .vlog2 t vd va ws mask ls => Sys2Proof.Machine.execVlog2 t vd va ws mask ls s
  | .vadds t vd va vb ws mask ls => Sys2Proof.Machine.execVadds t vd va vb ws mask ls s
  | .vsubs t vd va vb ws mask ls => Sys2Proof.Machine.execVsubs t vd va vb ws mask ls s
  | .vand t vd va vb ws mask ls => Sys2Proof.Machine.execVand t vd va vb ws mask ls s
  | .vor t vd va vb ws mask ls => Sys2Proof.Machine.execVor t vd va vb ws mask ls s
  | .vxor t vd va vb ws mask ls => Sys2Proof.Machine.execVxor t vd va vb ws mask ls s
  | .vsll t vd va vb ws mask ls => Sys2Proof.Machine.execVsll t vd va vb ws mask ls s
  | .vsrl t vd va vb ws mask ls => Sys2Proof.Machine.execVsrl t vd va vb ws mask ls s
  | .vsra t vd va vb ws mask ls => Sys2Proof.Machine.execVsra t vd va vb ws mask ls s
  | .vsllI t vd va imm ws mask ls => Sys2Proof.Machine.execVsllI t vd va imm ws mask ls s
  | .vsrlI t vd va imm ws mask ls => Sys2Proof.Machine.execVsrlI t vd va imm ws mask ls s
  | .vsraI t vd va imm ws mask ls => Sys2Proof.Machine.execVsraI t vd va imm ws mask ls s
  | .vbfx t vd va vb ws mask ls => Sys2Proof.Machine.execVbfx t vd va vb ws mask ls s
  | .vbfxU t vd va vb ws mask ls => Sys2Proof.Machine.execVbfxU t vd va vb ws mask ls s
  | .vfsh t vd va vb mask ls => Sys2Proof.Machine.execVfsh t vd va vb mask ls s
  | .vpopc t vd va ws mask ls => Sys2Proof.Machine.execVpopc t vd va ws mask ls s
  | .vclz t vd va ws mask ls => Sys2Proof.Machine.execVclz t vd va ws mask ls s
  | .vcmpEq t kd va vb mask ls => Sys2Proof.Machine.execVcmpEq t kd va vb mask ls s
  | .vcmpNe t kd va vb mask ls => Sys2Proof.Machine.execVcmpNe t kd va vb mask ls s
  | .vcmpLt t kd va vb mask ls => Sys2Proof.Machine.execVcmpLt t kd va vb mask ls s
  | .vcmpLe t kd va vb mask ls => Sys2Proof.Machine.execVcmpLe t kd va vb mask ls s
  | .kand t kd ka kb => Sys2Proof.Machine.execKand t kd ka kb s
  | .kor t kd ka kb => Sys2Proof.Machine.execKor t kd ka kb s
  | .kxor t kd ka kb => Sys2Proof.Machine.execKxor t kd ka kb s
  | .knot t kd ka => Sys2Proof.Machine.execKnot t kd ka s
  | .vsel t vd va vb ws mask ls => Sys2Proof.Machine.execVsel t vd va vb ws mask ls s
  | .vmov t vd va ws mask ls => Sys2Proof.Machine.execVmov t vd va ws mask ls s
  | .vbcast t vd va vb ws mask ls => Sys2Proof.Machine.execVbcast t vd va vb ws mask ls s
  | .vperm t vd va vb ws mask ls => Sys2Proof.Machine.execVperm t vd va vb ws mask ls s
  | .vrot t vd va vb ws mask ls => Sys2Proof.Machine.execVrot t vd va vb ws mask ls s
  | .vli t vd imm ws mask => Sys2Proof.Machine.execVli t vd imm ws mask s
  | .vidx t vd ws mask => Sys2Proof.Machine.execVidx t vd ws mask s
  | .vredAdd t vd va ws mask ls => Sys2Proof.Machine.execVredAdd t vd va ws mask ls s
  | .vredMin t vd va ws mask ls => Sys2Proof.Machine.execVredMin t vd va ws mask ls s
  | .vredMax t vd va ws mask ls => Sys2Proof.Machine.execVredMax t vd va ws mask ls s
  | .vscanAdd t vd va ws mask ls => Sys2Proof.Machine.execVscanAdd t vd va ws mask ls s
  | .vcvt t part vd va tag ws mask ls => Sys2Proof.Machine.execVcvt t part vd va tag ws mask ls s
  | .vcvtRz t part vd va tag ws mask ls => Sys2Proof.Machine.execVcvtRz t part vd va tag ws mask ls s
  | .vcvtSr t part vd va tag ws mask ls => Sys2Proof.Machine.execVcvtSr t part vd va tag ws mask ls s
  | .vsplit3 t vd va part ws mask ls => Sys2Proof.Machine.execVsplit3 t vd va part ws mask ls s
  | .vld t vd va tag ws mask ls => Sys2Proof.Machine.execVld t vd va tag ws mask ls s
  | .vst t va vb mask ls => Sys2Proof.Machine.execVst t va vb mask ls s
  | .vldm t vd va tag ws mask ls => Sys2Proof.Machine.execVldm t vd va tag ws mask ls s
  | .vstm t va vb mask ls => Sys2Proof.Machine.execVstm t va vb mask ls s
  | .vgath t vd va tag ws mask ls => Sys2Proof.Machine.execVgath t vd va tag ws mask ls s
  | .vscat t va vb mask ls => Sys2Proof.Machine.execVscat t va vb mask ls s
  | .vldf t vd va code ws mask ls => Sys2Proof.Machine.execVldf t vd va code ws mask ls s
  | .vstf t code va vb mask ls => Sys2Proof.Machine.execVstf t code va vb mask ls s
  | .vpal t va pal ls => Sys2Proof.Machine.execVpal t va pal ls s
  | .vcgen t vd va vb ws mask ls => Sys2Proof.Machine.execVcgen t vd va vb ws mask ls s
  | .vovf t va mask ls => Sys2Proof.Machine.execVovf t va mask ls s
  | .vlsc t => Sys2Proof.Machine.execVlsc t s
  | .vadam t vd va vb mask ls => Sys2Proof.Machine.execVadam t vd va vb mask ls s
  | .vqenc t vd va vb ws mask ls => Sys2Proof.Machine.execVqenc t vd va vb ws mask ls s
  | .vqencPal1 t vd va vb ws mask ls => Sys2Proof.Machine.execVqencPal1 t vd va vb ws mask ls s
  | .vloop t count1 len1 => Sys2Proof.Machine.execVloop t count1 len1 s
  | .nendV t => Sys2Proof.Machine.execNendV t s
  | .mwldSlot t slot code pb => Sys2Proof.Machine.execMwldSlot t slot code pb s
  | .mwldScratchpad t pa code pb => Sys2Proof.Machine.execMwldScratchpad t pa code pb s
  | .mswp t => Sys2Proof.Machine.execMswp t s
  | .mband t bands => Sys2Proof.Machine.execMband t bands s
  | .mslot t slot pa => Sys2Proof.Machine.execMslot t slot pa s
  | .mmf t tile pa pb fmt => Sys2Proof.Machine.execMmf t tile pa pb fmt s
  | .mmb t tile pa pb fmt => Sys2Proof.Machine.execMmb t tile pa pb fmt s
  | .mmw t tile pa pb fmt => Sys2Proof.Machine.execMmw t tile pa pb fmt s
  | .mconst t tile pa pb kind => Sys2Proof.Machine.execMconst t tile pa pb kind s
  | .mconstB t tile pa pb kind => Sys2Proof.Machine.execMconstB t tile pa pb kind s
  | .mzero t tile => Sys2Proof.Machine.execMzero t tile s
  | .macc t tile pa pb => Sys2Proof.Machine.execMacc t tile pa pb s
  | .madr t tile pa pb code => Sys2Proof.Machine.execMadr t tile pa pb code s
  | .madrRz t tile pa pb code => Sys2Proof.Machine.execMadrRz t tile pa pb code s
  | .madrSr t tile pa pb code => Sys2Proof.Machine.execMadrSr t tile pa pb code s
  | .mchk t tile => Sys2Proof.Machine.execMchk t tile s
  | .mbind t hnd pa => Sys2Proof.Machine.execMbind t hnd pa s
  | .mimm t tile hnd pa pb => Sys2Proof.Machine.execMimm t tile hnd pa pb s
  | .mimmHi t tile hnd pa pb => Sys2Proof.Machine.execMimmHi t tile hnd pa pb s
  | .mimmMid t tile hnd pa pb => Sys2Proof.Machine.execMimmMid t tile hnd pa pb s
  | .mimmLo t tile hnd pa pb => Sys2Proof.Machine.execMimmLo t tile hnd pa pb s
  | .mimv t hnd pa pb pc nrhs1 => Sys2Proof.Machine.execMimv t hnd pa pb pc nrhs1 s
  | .mli t pd imm => Sys2Proof.Machine.execMli t pd imm s
  | .mlih t pd imm => Sys2Proof.Machine.execMlih t pd imm s
  | .maddi t pd pa imm => Sys2Proof.Machine.execMaddi t pd pa imm s
  | .madd t pd pa pb => Sys2Proof.Machine.execMadd t pd pa pb s
  | .mmuli t pd pa imm => Sys2Proof.Machine.execMmuli t pd pa imm s
  | .mlds t pd pa imm => Sys2Proof.Machine.execMlds t pd pa imm s
  | .mloop t pa off => Sys2Proof.Machine.execMloop t pa off s
  | .nendM t => Sys2Proof.Machine.execNendM t s
  | .ccopy1d t qb slot sl eng => Sys2Proof.Machine.execCcopy1d t qb slot sl eng s
  | .ccopy2d t qb slot sl eng => Sys2Proof.Machine.execCcopy2d t qb slot sl eng s
  | .ccopy3d t qb slot sl eng => Sys2Proof.Machine.execCcopy3d t qb slot sl eng s
  | .cgath t qb slot sl eng => Sys2Proof.Machine.execCgath t qb slot sl eng s
  | .cscat t qb slot sl eng => Sys2Proof.Machine.execCscat t qb slot sl eng s
  | .cfill t qb slot sl eng => Sys2Proof.Machine.execCfill t qb slot sl eng s
  | .cradd t qb slot sl eng => Sys2Proof.Machine.execCradd t qb slot sl eng s
  | .cfput t qb slot sl eng => Sys2Proof.Machine.execCfput t qb slot sl eng s
  | .cfget t qb slot sl eng => Sys2Proof.Machine.execCfget t qb slot sl eng s
  | .crs t qb slot sl eng => Sys2Proof.Machine.execCrs t qb slot sl eng s
  | .cag t qb slot sl eng => Sys2Proof.Machine.execCag t qb slot sl eng s
  | .carm t qb eng => Sys2Proof.Machine.execCarm t qb eng s
  | .csend t qa eng => Sys2Proof.Machine.execCsend t qa eng s
  | .cfence t => Sys2Proof.Machine.execCfence t s
  | .cpermit t slot n1 => Sys2Proof.Machine.execCpermit t slot n1 s
  | .qli t qd imm => Sys2Proof.Machine.execQli t qd imm s
  | .qlih t qd imm => Sys2Proof.Machine.execQlih t qd imm s
  | .qaddi t qd qa imm => Sys2Proof.Machine.execQaddi t qd qa imm s
  | .qadd t qd qa qb => Sys2Proof.Machine.execQadd t qd qa qb s
  | .qlds t qd qa imm => Sys2Proof.Machine.execQlds t qd qa imm s
  | .qloop t qa off => Sys2Proof.Machine.execQloop t qa off s
  | .nendC t => Sys2Proof.Machine.execNendC t s
  | .heldPush core st => Sys2Proof.Machine.execHeldPush core st s
  | .tokenDeadlock core => Sys2Proof.Machine.execTokenDeadlock core s
  | .trapEntry core st => Sys2Proof.Machine.execTrapEntry core st s
  | .handlerStart core => Sys2Proof.Machine.execHandlerStart core s
  | .nodeCommit core => Sys2Proof.Machine.execNodeCommit core s
  | .commitAcknowledged core => Sys2Proof.Machine.execCommitAcknowledged core s
  | .mPathRetire core weight => Sys2Proof.Machine.execMPathRetire core weight s
  | .planeSwap core => Sys2Proof.Machine.execPlaneSwap core s
  | .paletteCheckEnd core => Sys2Proof.Machine.execPaletteCheckEnd core s
  | .copyAdmission eng idx => Sys2Proof.Machine.execCopyAdmission eng idx s
  | .copyStart eng idx => Sys2Proof.Machine.execCopyStart eng idx s
  | .copyComplete eng idx => Sys2Proof.Machine.execCopyComplete eng idx s
  | .collectiveArrival port msg => Sys2Proof.Machine.execCollectiveArrival port msg s
  | .counterDelivery idx => Sys2Proof.Machine.execCounterDelivery idx s
  | .pendingActionRetry ctr => Sys2Proof.Machine.execPendingActionRetry ctr s
  | .acwaitPoll core => Sys2Proof.Machine.execAcwaitPoll core s
  | .counterDisarm ctr => Sys2Proof.Machine.execCounterDisarm ctr s
  | .walkPrefetchComplete stack ctx point => Sys2Proof.Machine.execWalkPrefetchComplete stack ctx point s
  | .allocateNode stack => Sys2Proof.Machine.execAllocateNode stack s
  | .lateFieldResolve part queue => Sys2Proof.Machine.execLateFieldResolve part queue s
  | .launchStart part => Sys2Proof.Machine.execLaunchStart part s
  | .launchComplete part launch => Sys2Proof.Machine.execLaunchComplete part launch s
  | .preempt part value => Sys2Proof.Machine.execPreempt part value s
  | .release part value => Sys2Proof.Machine.execRelease part value s
  | .nodeSaveComplete core => Sys2Proof.Machine.execNodeSaveComplete core s
  | .saveTimeout core => Sys2Proof.Machine.execSaveTimeout core s
  | .nodeRestore part core => Sys2Proof.Machine.execNodeRestore part core s
  | .go part value => Sys2Proof.Machine.execGo part value s
  | .rangeTableActivation part => Sys2Proof.Machine.execRangeTableActivation part s
  | .migcmd value => Sys2Proof.Machine.execMigcmd value s
  | .migrationCopy => Sys2Proof.Machine.execMigrationCopy s
  | .migrationRedirect => Sys2Proof.Machine.execMigrationRedirect s
  | .migrationReplay => Sys2Proof.Machine.execMigrationReplay s
  | .solveIterationComplete stack order => Sys2Proof.Machine.execSolveIterationComplete stack order s
  | .solveDeadline stack => Sys2Proof.Machine.execSolveDeadline stack s
  | .solveVerifyProduct stack order => Sys2Proof.Machine.execSolveVerifyProduct stack order s
  | .solveFinish stack => Sys2Proof.Machine.execSolveFinish stack s
  | .pacqGrant stack => Sys2Proof.Machine.execPacqGrant stack s
  | .allotmentUpdate => Sys2Proof.Machine.execAllotmentUpdate s
  | .capw value => Sys2Proof.Machine.execCapw value s
  | .halt => Sys2Proof.Machine.execHalt s
  | .thermalThrottle stack temp => Sys2Proof.Machine.execThermalThrottle stack temp s
  | .thermalHalt stack temp => Sys2Proof.Machine.execThermalHalt stack temp s
  | .thermalPowerOff stack temp => Sys2Proof.Machine.execThermalPowerOff stack temp s
  | .rollback core st => Sys2Proof.Machine.execRollback core st s
  | .controlDivergence core st => Sys2Proof.Machine.execControlDivergence core st s
  | .accumulatorScrub core tile => Sys2Proof.Machine.execAccumulatorScrub core tile s
  | .memoryScrub site uncorrectable => Sys2Proof.Machine.execMemoryScrub site uncorrectable s
  | .hostMemoryRead addr len => Sys2Proof.Machine.execHostMemoryRead addr len s
  | .hostMemoryWrite addr bytes => Sys2Proof.Machine.execHostMemoryWrite addr bytes s
  | .hostLineRequest addr => Sys2Proof.Machine.execHostLineRequest addr s
  | .backInvalidateSnoop line bytes => Sys2Proof.Machine.execBackInvalidateSnoop line bytes s
  | .inboundFabricRequest off req => Sys2Proof.Machine.execInboundFabricRequest off req s
  | .fabricCompletionTimeout eng idx => Sys2Proof.Machine.execFabricCompletionTimeout eng idx s
  | .completerAbort eng idx => Sys2Proof.Machine.execCompleterAbort eng idx s
  | .linkTraining port partner => Sys2Proof.Machine.execLinkTraining port partner s
  | .linkDown port inFlight => Sys2Proof.Machine.execLinkDown port inFlight s
  | .laneFailure port width => Sys2Proof.Machine.execLaneFailure port width s
  | .pwid port value => Sys2Proof.Machine.execPwid port value s
  | .widthChangeComplete port => Sys2Proof.Machine.execWidthChangeComplete port s
  | .inbpWrite p value => Sys2Proof.Machine.execInbpWrite p value s
  | .eqbaseWrite n value => Sys2Proof.Machine.execEqbaseWrite n value s
  | .telemetryEnableWrite p off value => Sys2Proof.Machine.execTelemetryEnableWrite p off value s
  | .counterDump p => Sys2Proof.Machine.execCounterDump p s
  | .traceSample core st => Sys2Proof.Machine.execTraceSample core st s
  | .snapshotTrigger p source => Sys2Proof.Machine.execSnapshotTrigger p source s
  | .snapshotWriteOut p => Sys2Proof.Machine.execSnapshotWriteOut p s
  | .snaprel p => Sys2Proof.Machine.execSnaprel p s
  | .controlRegisterWrite fn addr value => Sys2Proof.Machine.execControlRegisterWrite fn addr value s
  | .powerOnBringUp => Sys2Proof.Machine.execPowerOnBringUp s
  | .resetBoot => Sys2Proof.Machine.execResetBoot s
  | .pldmFirmwareUpdate image => Sys2Proof.Machine.execPldmFirmwareUpdate image s
  | .pldmMonitoring cmd => Sys2Proof.Machine.execPldmMonitoring cmd s
  | .spdmMeasurements => Sys2Proof.Machine.execSpdmMeasurements s
  | .spareCore core => Sys2Proof.Machine.execSpareCore core s
  | .rowSparing row => Sys2Proof.Machine.execRowSparing row s
  | .channelRetirement chan => Sys2Proof.Machine.execChannelRetirement chan s
  | .objectLoad part req => Sys2Proof.Machine.execObjectLoad part req s
  | .memoryAccessComplete core st => Sys2Proof.Machine.execMemoryAccessComplete core st s

end Sys2Proof.Machine
end

