-- ==== Sys2Proof/Machine/Turn.lean ====
section
/-! DEFINITION. A turn: which event or strand moves, fetching and decoding an instruction, and what each turn of
the agenda does (R65, R102, R127, R273; log 3). -/

namespace Sys2Proof.Machine

/-- The next event of a core's M paths, if one can take place: retirement at the head, the array queue, the weight
path (R212, R213, R223). -/
def Core.mEvent (k : Core) (c : Nat) : Option Instr :=
  if k.mHead ∨ (k.mPick .array).isSome then some (.mPathRetire c false)
  else match k.mPick .weight with
    | some n => some (if k.isSwap n then .planeSwap c else .mPathRetire c true)
    | none => none

/-- The first internal event of the focus core that can take place, if any: a held push, a handler's start, the
oldest M instruction, a palette check, an acknowledgement (log 3). -/
def State.internalEvent (s : State) : Option Instr :=
  let c := s.focus
  let k := s.coreAt c
  let held := [Strand.S, .V, .M, .C].find? (fun st => match (k.issued st).cond with
    | .pushHold n _ _ => k.canPush n
    | _ => false)
  match held with
  | some st => some (.heldPush c st)
  | none =>
    if k.cHead then some (.heldPush c .C)
    else
    if k.node.phase = .trapEntry then some (.handlerStart c)
    else if k.node.phase = .committing then some (.commitAcknowledged c)
    else if (k.mEvent c).isSome then k.mEvent c
    else if (k.getPal 0).checking ∨ (k.getPal 1).checking then some (.paletteCheckEnd c)
    else if k.node.phase = .running ∧ [Strand.S, .V, .M, .C].all (fun st => (k.strand st).cond == .ended) then
      some (.nodeCommit c)
    else none

/-- The strand after another in the order S, V, M, C (R65). -/
def nextStrand : Strand → Strand
  | .S => .V | .V => .M | .M => .C | .C => .S

/-- The turn that is taken when the agenda lists none (log 3). -/
def State.defaultTurn (s : State) : Turn :=
  match s.internalEvent with
  | some i => { wait := 1, late := false, act := .event i }
  | none => { wait := 1, late := false, act := .strand s.focus s.round }

/-- May the strand of the issuing core issue at its turn (R273, R281, R386)? A frozen or ended strand, one whose
push is held, one that waits for memory, a grant or a phase without a wake, and, once a trap has been raised, a
save asked for or an end of the node, one that stands at a boundary, may not. -/
def State.mayIssue (s : State) (st : Strand) : Bool :=
  let k := s.me
  let t := k.strand st
  let waits := match t.cond with
    | .ended | .ending | .pushHold _ _ _ | .memory _ | .pacq => true
    | .counter _ _ _ => !t.woken
    | _ => false
  !t.frozen && !waits && !(st == .M && k.mTrapHeld) && (k.node.ending.isNone || !s.atBoundary st) &&
    match k.node.phase with
    | .idle | .committing => false
    | .handler => st == .S
    | .trapEntry => !s.atBoundary st
    | .running => k.node.saveAt.isNone || (st == .V && k.loops != []) || !s.atBoundary st

/-- A strand issues the instruction at its PC: a failed fetch traps or rolls back, an unassigned word is the
illegal encoding, cause 0x01 with TVAL the word (R101, R127, R435). -/
def State.strandIssue (s : State) (st : Strand) : Host.Outcome State Fault Refusal :=
  let pc := (s.me.strand st).pc
  match s.fetch st pc.toNat with
  | .fault c => .next (s.trapHere st c pc)
  | .poison _ => .next (s.poisonHere st 0 pc.toNat)
  | .lost => .next (s.hostLost st pc.toNat)
  | .held => .next (s.updMe (fun k => { k with now := { k.now with issued := k.now.issued.erase st } }))
  | .word w =>
    match decode st w with
    | .error _ => .next (s.trapHere st 0x01 (w.setWidth 64))
    | .ok i => exec i s

/-- The turn of a strand of the issuing core: a pending trap is raised at a boundary, a strand that reaches one
after another's trap freezes, and else the next instruction issues. -/
def State.strandTurn (s : State) (st : Strand) : Host.Outcome State Fault Refusal :=
  let t := s.me.strand st
  if t.pending.isSome ∧ t.frozen = false ∧ s.canRaise st then .next (s.raisePending st)
  else if s.mayIssue st then (s.beginIssue st).strandIssue st
  else if s.me.node.phase = .trapEntry then .next (s.freeze st)
  else .next s

/-- The events of the side-band controller, which alone runs with the power rails off (R454, R455, R457, R458). -/
def newtEvent : Instr → Bool
  | .resetBoot | .powerOnBringUp | .pldmFirmwareUpdate _ | .pldmMonitoring _ | .spdmMeasurements => true
  | _ => false

/-- Does a turn go on with the power rails off (R454): the side-band controller's, and what lies outside the package? -/
def Act.unpowered : Act → Bool
  | .event i => newtEvent i || i.stream?.isSome
  | .outside _ _ _ | .hostDirty _ _ | .releaseHeat | .inputPower _ | .surround _ => true
  | .strand _ _ | .residency _ _ _ _ _ | .copyProgress _ _ _ _ | .sendAccepted _ _ | .decoder _ _ | .hostWriteBack _
  | .unload _ _ | .readError _ _ | .solveError _ _ _ | .acknowledged _ _ => false

/-- What a turn of a powered package does. Events alone are taken from the agenda; the words of a stream come from a fetch. -/
def State.powered (s : State) : Act → Host.Outcome State Fault Refusal
  | .strand c st => State.strandTurn { s with core := c } st
  | .event i => if i.stream?.isSome then .next s else exec i s
  | .residency c l1 q l2 fills => .next (s.setResidency c l1 q l2 fills)
  | .copyProgress e i reads lands => .next (s.copyAdvance e i reads lands)
  | .sendAccepted e i => .next (s.acceptSend e i)
  | .outside pa bytes poison => .next (s.outsideWrite pa bytes poison)
  | .decoder p base => .next { s with hdm := match base with
      | some b => s.hdm.set p b
      | none => s.hdm.erase p }
  | .hostDirty line bytes => .next (s.hostDirty line bytes)
  | .hostWriteBack line => .next (s.hostWriteBack line)
  | .unload p lid => .next (s.unload p lid)
  | .readError site uncorrectable => .next (s.readError site uncorrectable)
  | .solveError stack node divergence => .next (s.solveNodeError stack node divergence)
  | .releaseHeat => .next s.releaseHeat
  | .inputPower w => .next { s with pavg := w }
  | .surround x => .next { s with around := x }
  | .acknowledged port n => .next (s.acknowledge port n)

/-- What a turn does. -/
def State.act (s : State) (a : Act) : Host.Outcome State Fault Refusal :=
  if s.railsOff && !a.unpowered then .fault .railsOff else s.powered a

/-- Does one strand's turn come after another's within a cycle: a later core, or a later strand of S, V, M, C on the same
core (R58, R176, R444)? -/
def laterTurn (c : Nat) (st : Strand) (c' : Nat) (st' : Strand) : Bool :=
  decide (c < c') || (c == c' && decide (st.num < st'.num))

/-- Does an act only observe, so that it may fall into a cycle beside other turns (R462, R464)? -/
def observes : Instr → Bool
  | .traceSample _ _ | .snapshotTrigger _ _ => true
  | _ => false

/-- Cycles that pass before a turn (log 66): a strand issues once in a cycle, and within one cycle the strands go in order
of core and then S, V, M, C, so that what R58, R176, R232, R444 and R448 say of one cycle holds; after a retirement from
an M path one other strand of the core may follow in the cycle, which is what R316 speaks of; any other act has its cycle to
itself. -/
def State.waitOf (s : State) (t : Turn) : Nat :=
  let fits : Bool := match t.act with
    | .strand c st => match s.slot with
      | .fresh => true
      | .after c' st' => laterTurn c' st' c st
      | .retired c' => c == c' && st != .M
      | .closed => false
    | .event i => observes i || s.slot == .fresh
    | _ => s.slot == .fresh
  if t.wait = 0 ∧ !fits then 1 else t.wait

/-- What the cycle under way still admits after a turn. -/
def slotAfter (old : CycleSlot) : Act → CycleSlot
  | .strand c st => match old with
    | .retired _ => .closed
    | _ => .after c st
  | .event i => match i with
    | .mPathRetire c _ => .retired c
    | _ => if observes i then old else .closed
  | _ => .closed

/-- A node that was to be discarded and cannot be runs on (R385), with the strands that stopped for the discard. -/
def Core.runOn (k : Core) : Core :=
  if k.node.ending = none then k
  else
    let free (st : Strand) : Bool := k.node.phase == .running || (k.node.phase == .handler && st == .S)
    let k1 := [Strand.S, .V, .M, .C].foldl (fun a st =>
      if free st then a.updStrand st (fun t => { t with frozen := false }) else a) k
    { k1 with node := { k.node with ending := none } }

/-- The node of core c that a rollback or a discard waits for goes, once the strands of its gang have stopped (R278, R284); a
discard meets every member that a pre-emption has asked for (R371, R385). -/
def State.endStopped (s : State) (c : Nat) : State :=
  let nd := (s.coreAt c).node
  let cs := s.gangOf c
  if !cs.all s.atRest then s
  else match nd.ending with
    | some (.rollback cause strand pc addr gtc) => (s.rollbackNow c cause strand pc addr gtc).afterEnd nd.part
    | some .discard =>
      let b := (cs.filter (fun d => (s.coreAt d).node.pm)).foldl State.discardNow s
      (cs.foldl (fun a d => a.updCore d Core.runOn) b).afterEnd nd.part
    | _ => s

/-- What ends a turn: nodes that were to end and have stopped go (R284), and the records that are due enter their queues
(R444). -/
def State.settle (s : State) : State := (s.cores.foldl (fun a e => a.endStopped e.1) s).enterDue

/-- The outcome of a turn. -/
def settled : Host.Outcome State Fault Refusal → Host.Outcome State Fault Refusal
  | .next s => .next s.settle
  | o => o

/-- A turn: its cycles pass, it acts, and what has come to its end is settled. -/
def State.takeTurn (s : State) (t : Turn) : Host.Outcome State Fault Refusal :=
  let b := s.pass (s.waitOf t)
  settled (State.act { b with late := t.late, slot := slotAfter b.slot t.act } t.act)

/-- The virtual address at which `withFetchWord` maps one page of code. -/
def codeBase : Nat := 0x10000

/-- The range entry of that page: DIRECT, R and X, LOCAL on the core's channel (R379). -/
def codeEntry (c : Nat) : RangeEntry :=
  { w0 := BitVec.ofNat 64 codeBase, w1 := BitVec.ofNat 64 (2 ^ 63 + 16 * 2 ^ 50 + c * 2 ^ 40 + 0xB0), w2 := 0, w3 := 0 }

end Sys2Proof.Machine
end

