-- ==== Sys2Proof/Machine/Step.lean ====
section
/-! DEFINITION. One step: the next turn of the agenda, or of the default order when none is listed (log 3). -/

namespace Sys2Proof.Machine

/-- One step of the machine. -/
def step (s : State) : Host.Outcome State Fault Refusal :=
  match s.agenda with
  | t :: rest => State.takeTurn { s with agenda := rest } t
  | [] => State.takeTurn { s with round := nextStrand s.round } s.defaultTurn

/-- The state in which the very next step runs one table word: a node of the focus core whose strand, the one
whose decoder reads the word, stands at a page that the partition's range table maps, and an agenda that gives that
strand the turn (log 11). -/
def State.withFetchWord (s : State) (nbits w : Nat) : State :=
  let c := s.focus
  let p := (s.partOf c).getD 0
  let st := ((decodeTableWord nbits w).bind Instr.stream?).getD .S
  let s1 := s.updPart p (fun v => { v with active := [(0, codeEntry c)] })
  let s2 := s1.updCore c (fun k =>
    { k.setStrand st { StrandSt.idle with pc := BitVec.ofNat 64 codeBase, secBase := codeBase, secLen := 4 } with
      sup := false, now := Now.none, node := { k.node with phase := .running, part := p, saveAt := none, ending := none } })
  { s2 with mem := s2.mem.writeBytes (c * 2 ^ 29) (leBytes 4 w), poison := setErase s2.poison (c * 2 ^ 25),
            slot := .fresh, agenda := [{ wait := 0, late := false, act := .strand c st }], railsOff := false }

end Sys2Proof.Machine
end

