-- ==== Sys2Proof/Safety.lean ====
section
/-! DEFINITION. What a safe step is, when a strand gets an instruction to its effect, and what an instruction of one
core may change: the terms in which the statements speak. -/

namespace Sys2Proof.Machine

/-- A step is safe when it answers a next state: neither a fault nor a refusal. -/
def State.Safe (s : State) : Prop := ∃ t, step s = .next t

/-- The strand st of the issuing core takes an instruction with token fields t past the steps of R128 that come before
its own checks: no token field of S in supervisor mode (R100), no fetch breakpoint (R60), its pop taken; s1 is the state
after the pop. -/
structure State.Issues (s : State) (st : Strand) (t : Tok) (s1 : State) : Prop where
  mode : st = .S → s.me.sup = true → t.pop = 0 ∧ t.push = 0
  unbroken : s.me.fetchBrk st = none
  popped : s.popTok st t = some s1

/-- Apart from the issuing core and the counts of R463 and R464, t is s. -/
structure State.OnlyCore (s t : State) : Prop where
  rest : t = { s with cores := t.cores, parts := t.parts }
  others : ∀ c, c ≠ s.core → t.coreAt c = s.coreAt c
  parts : ∀ p, t.part p = { s.part p with tel := (t.part p).tel }

/-- The same, but for requests to host and pooled memory that have left the module (R415, R417). -/
structure State.OnlyCoreAsked (s t : State) : Prop where
  rest : t = { s with cores := t.cores, parts := t.parts, sent := t.sent, ports := t.ports, onPort := t.onPort }
  others : ∀ c, c ≠ s.core → t.coreAt c = s.coreAt c
  parts : ∀ p, t.part p = { s.part p with tel := (t.part p).tel }

/-- No byte of memory, no poison mark and no counter differs (a form that stores nothing). -/
structure State.SameStore (s t : State) : Prop where
  mem : ∀ a, t.mem.read a = s.mem.read a
  poison : t.poison = s.poison
  window : ∀ a, t.me.window.read a = s.me.window.read a
  staged : t.me.node.staged = s.me.node.staged

/-- An instruction of strand st has retired and the strand stands at a word: no other strand of the core and no token
FIFO but those that it pops and pushes differ (R65, R128). -/
structure State.Retired (s u : State) (st : Strand) (t : Tok) (pc : Word) : Prop where
  pc : (u.me.strand st).pc = pc
  others : ∀ x, x ≠ st → u.me.strand x = s.me.strand x
  tokens : ∀ n, (t.pop ≠ 0 → n ≠ popFifo st t.pop) → (t.push ≠ 0 → n ≠ pushFifo st t.push) → u.me.tokens n = s.me.tokens n

/-- u is s after an instruction of strand st has retired, the strand at pc: the issuing core holds what k holds but for
its token counts, its strands and what its cycle has seen, and nothing else of the machine differs but event counts. -/
structure State.Leaves (s u : State) (st : Strand) (t : Tok) (pc : Word) (k : Core) : Prop where
  retired : s.Retired u st t pc
  me : u.me = { k with tk := u.me.tk, strands := u.me.strands, now := { k.now with popped := u.me.now.popped, pushed := u.me.now.pushed } }
  rest : s.OnlyCore u

/-- The issuing core's node has failed (R283): the core is free, and its launch, if it ran, is FAILED. -/
structure State.NodeFailed (s u : State) : Prop where
  free : (u.coreAt s.core).node.phase = .idle
  launch : ∀ l, s.launch? s.me.node.part s.me.node.launch = some l → l.state = .running →
    ∃ m, u.launch? s.me.node.part s.me.node.launch = some m ∧ m.state = .failed

/-- Of the issuing core's registers, nothing but x registers differs. -/
def Core.OnlyX (k u : Core) : Prop :=
  u = { k with x := u.x, tk := u.tk, strands := u.strands, now := { k.now with popped := u.now.popped, pushed := u.now.pushed } }

/-- The registers of a core that a trap entry leaves as they are (R281): everything a strand computes with. -/
structure Core.SameData (k₀ u : Core) : Prop where
  x : u.x = k₀.x
  v : u.v = k₀.v
  masks : u.k = k₀.k
  p : u.p = k₀.p
  q : u.q = k₀.q
  tiles : u.tiles = k₀.tiles
  live : u.live = k₀.live
  shadow : u.shadow = k₀.shadow
  handles : u.handles = k₀.handles
  pals : u.pals = k₀.pals
  window : u.window = k₀.window
  twin : u.twin = k₀.twin
  bands : u.bands = k₀.bands
  lsc : u.lsc = k₀.lsc
  srseed : u.srseed = k₀.srseed
  ovf : u.ovf = k₀.ovf
  psna : u.psna = k₀.psna
  grant : u.grant = k₀.grant
  lslt : u.lslt = k₀.lslt
  tvec : u.tvec = k₀.tvec

/-- u is s after strand st has trapped with a cause, a value and the PC for the return (R58, R281): the trap registers
written, the mode changed, the strand frozen; registers and memory as they were. -/
structure State.EntersTrap (s u : State) (st : Strand) (cause : BitVec 8) (tval tepc : Word) : Prop where
  tcause : u.me.tcause = BitVec.ofNat 64 (cause.toNat + st.num * 256)
  tval : u.me.tval = tval
  tepc : u.me.tepc = tepc
  psup : u.me.psup = s.me.sup
  sup : u.me.sup = true
  frozen : (u.me.strand st).frozen = true
  entry : u.me.node.phase = .trapEntry
  data : s.me.SameData u.me
  mem : ∀ a, u.mem.read a = s.mem.read a
  staged : u.me.node.staged = s.me.node.staged

/-- The issuing core runs a node of a partition with a handler, in user mode (R59), and its M strand owes no trap of an
earlier cycle, which another strand's trap would let go first (R316). -/
structure State.UserNode (s : State) : Prop where
  running : s.me.node.phase = .running
  handler : s.me.node.handler = true
  user : s.me.sup = false
  settled : ∀ st, s.me.owedBefore s.cycle st = none
  stays : s.me.node.ending = none

end Sys2Proof.Machine
end

