-- ==== Sys2Proof/Rules/Scalar.lean ====
section
/-! DEFINITION. The tables of the scalar chapter as the statements read them: for each instruction its token fields, its
destination and the value that the rule gives (R133 to R151). -/

namespace Sys2Proof.Machine

/-- Number of leading zero bits (R135). -/
def leadingZeros (a : Word) : Nat := ((List.range 64).takeWhile (fun i => !a.getMsbD i)).length

/-- Number of trailing zero bits (R135). -/
def trailingZeros (a : Word) : Nat := ((List.range 64).takeWhile (fun i => !a.getLsbD i)).length

/-- Number of one bits (R135). -/
def oneBits (a : Word) : Nat := ((List.range 64).filter (fun i => a.getLsbD i)).length

/-- The bits of a field of a word that begins at p and holds n bits, in the low bits of a word (R136). -/
def fieldOf (a : Word) (p n : Nat) : Word := (a >>> p) &&& BitVec.ofNat 64 (2 ^ n - 1)

/-- A field with the bits above it equal to its top bit (R136). -/
def fieldSigned (a : Word) (p n : Nat) : Word := (a <<< (64 - p - n)).sshiftRight (64 - n)

/-- xa[n-1:0] written into xd[p+n-1:p] (R136). -/
def fieldPut (d a : Word) (p n : Nat) : Word :=
  (d &&& ~~~(BitVec.ofNat 64 (2 ^ n - 1) <<< p)) ||| ((a &&& BitVec.ofNat 64 (2 ^ n - 1)) <<< p)

/-- Integer arithmetic, shifts, counts, fields and constants (R133 to R137): token fields, xd, and the value of xd. -/
def aluRule : Instr → Option (Tok × BitVec 5 × (Core → Word))
  | .add t xd xa xb => some (t, xd, fun k => k.getX xa + k.getX xb)
  | .sub t xd xa xb => some (t, xd, fun k => k.getX xa - k.getX xb)
  | .and t xd xa xb => some (t, xd, fun k => k.getX xa &&& k.getX xb)
  | .or t xd xa xb => some (t, xd, fun k => k.getX xa ||| k.getX xb)
  | .xor t xd xa xb => some (t, xd, fun k => k.getX xa ^^^ k.getX xb)
  | .sll t xd xa xb => some (t, xd, fun k => k.getX xa <<< ((k.getX xb).setWidth 6).toNat)
  | .srl t xd xa xb => some (t, xd, fun k => k.getX xa >>> ((k.getX xb).setWidth 6).toNat)
  | .sra t xd xa xb => some (t, xd, fun k => (k.getX xa).sshiftRight ((k.getX xb).setWidth 6).toNat)
  | .slt t xd xa xb => some (t, xd, fun k => if (k.getX xa).slt (k.getX xb) then 1 else 0)
  | .sltU t xd xa xb => some (t, xd, fun k => if k.getX xa < k.getX xb then 1 else 0)
  | .min t xd xa xb => some (t, xd, fun k => if (k.getX xa).sle (k.getX xb) then k.getX xa else k.getX xb)
  | .minU t xd xa xb => some (t, xd, fun k => if k.getX xa ≤ k.getX xb then k.getX xa else k.getX xb)
  | .max t xd xa xb => some (t, xd, fun k => if (k.getX xa).sle (k.getX xb) then k.getX xb else k.getX xa)
  | .maxU t xd xa xb => some (t, xd, fun k => if k.getX xa ≤ k.getX xb then k.getX xb else k.getX xa)
  | .mul t xd xa xb => some (t, xd, fun k => k.getX xa * k.getX xb)
  | .mulh t xd xa xb =>
    some (t, xd, fun k => (((k.getX xa).signExtend 128 * (k.getX xb).signExtend 128) >>> 64).setWidth 64)
  | .mulhU t xd xa xb => some (t, xd, fun k => (((k.getX xa).setWidth 128 * (k.getX xb).setWidth 128) >>> 64).setWidth 64)
  | .div t xd xa xb => some (t, xd, fun k => if k.getX xb = 0 then -1 else (k.getX xa).sdiv (k.getX xb))
  | .divU t xd xa xb => some (t, xd, fun k => if k.getX xb = 0 then -1 else k.getX xa / k.getX xb)
  | .rem t xd xa xb => some (t, xd, fun k => if k.getX xb = 0 then k.getX xa else (k.getX xa).srem (k.getX xb))
  | .remU t xd xa xb => some (t, xd, fun k => if k.getX xb = 0 then k.getX xa else k.getX xa % k.getX xb)
  | .clz t xd xa => some (t, xd, fun k => BitVec.ofNat 64 (leadingZeros (k.getX xa)))
  | .ctz t xd xa => some (t, xd, fun k => BitVec.ofNat 64 (trailingZeros (k.getX xa)))
  | .popc t xd xa => some (t, xd, fun k => BitVec.ofNat 64 (oneBits (k.getX xa)))
  | .fsh t xd xa xb n => some (t, xd, fun k => ((k.getX xa ++ k.getX xb) >>> n.toNat).setWidth 64)
  | .addImmediate t xd xa imm => some (t, xd, fun k => k.getX xa + imm.signExtend 64)
  | .andImmediate t xd xa imm => some (t, xd, fun k => k.getX xa &&& imm.setWidth 64)
  | .orImmediate t xd xa imm => some (t, xd, fun k => k.getX xa ||| imm.setWidth 64)
  | .xorImmediate t xd xa imm => some (t, xd, fun k => k.getX xa ^^^ imm.setWidth 64)
  | .sllImmediate t xd xa n => some (t, xd, fun k => k.getX xa <<< n.toNat)
  | .srlImmediate t xd xa n => some (t, xd, fun k => k.getX xa >>> n.toNat)
  | .sraImmediate t xd xa n => some (t, xd, fun k => (k.getX xa).sshiftRight n.toNat)
  | .sltImmediate t xd xa imm => some (t, xd, fun k => if (k.getX xa).slt (imm.signExtend 64) then 1 else 0)
  | .bfx t xd xa p n => some (t, xd, fun k => fieldSigned (k.getX xa) p.toNat (n.toNat + 1))
  | .bfxU t xd xa p n => some (t, xd, fun k => fieldOf (k.getX xa) p.toNat (n.toNat + 1))
  | .bfi t xd xa p n => some (t, xd, fun k => fieldPut (k.getX xd) (k.getX xa) p.toNat (n.toNat + 1))
  | .lui t xd imm => some (t, xd, fun _ => (imm.signExtend 64) <<< 16)
  | .orsh t xd imm => some (t, xd, fun k => (k.getX xd <<< 16) ||| imm.setWidth 64)
  | _ => none

/-- The FP32 value that a word holds in bits [31:0], or its FP64 value (R41, R151). -/
def fpIn (dbl : BitVec 1) (w : Word) : FVal :=
  if dbl = 1 then Fmt.f64.decode w.toNat else Fmt.f32.decode (w.setWidth 32).toNat

/-- A value rounded once to FP32 in bits [31:0] with zero above, or to FP64 (R15, R41, R151). -/
def fpOut (dbl rz : BitVec 1) (v : FVal) : Word :=
  let mode : Rnd := if rz = 1 then .rtz else .rne
  BitVec.ofNat 64 (if dbl = 1 then Fmt.f64.round mode v else Fmt.f32.round mode v)

/-- Scalar floating point (R151): token fields, xd, and the value of xd. -/
def fpRule : Instr → Option (Tok × BitVec 5 × (Core → Word))
  | .fadd t xd xa xb d => some (t, xd, fun k => fpOut d 0 ((fpIn d (k.getX xa)).add (fpIn d (k.getX xb))))
  | .fsub t xd xa xb d => some (t, xd, fun k => fpOut d 0 ((fpIn d (k.getX xa)).sub (fpIn d (k.getX xb))))
  | .fmul t xd xa xb d => some (t, xd, fun k => fpOut d 0 ((fpIn d (k.getX xa)).mul (fpIn d (k.getX xb))))
  | .fdiv t xd xa xb d => some (t, xd, fun k => fpOut d 0 ((fpIn d (k.getX xa)).div (fpIn d (k.getX xb))))
  | .fsqrt t xd xa d => some (t, xd, fun k => fpOut d 0 (fpIn d (k.getX xa)).sqrt)
  | .fmin t xd xa xb d => some (t, xd, fun k => fpOut d 0 ((fpIn d (k.getX xa)).min (fpIn d (k.getX xb))))
  | .fmax t xd xa xb d => some (t, xd, fun k => fpOut d 0 ((fpIn d (k.getX xa)).max (fpIn d (k.getX xb))))
  | .fma t xd xa xb d =>
    some (t, xd, fun k => fpOut d 0 (((fpIn d (k.getX xa)).mul (fpIn d (k.getX xb))).add (fpIn d (k.getX xd))))
  | .fcmpEq t xd xa xb d => some (t, xd, fun k => if (fpIn d (k.getX xa)).eqv (fpIn d (k.getX xb)) then 1 else 0)
  | .fcmpLt t xd xa xb d => some (t, xd, fun k => if (fpIn d (k.getX xa)).lt (fpIn d (k.getX xb)) then 1 else 0)
  | .fcmpLe t xd xa xb d => some (t, xd, fun k => if (fpIn d (k.getX xa)).le (fpIn d (k.getX xb)) then 1 else 0)
  | .fcvtFromI64 t xd xa d rz => some (t, xd, fun k => fpOut d rz (FVal.ofInt (k.getX xa).toInt))
  | .fcvtFromU64 t xd xa d rz => some (t, xd, fun k => fpOut d rz (FVal.ofInt ((k.getX xa).toNat : Int)))
  | .fcvtToI64 t xd xa d rz =>
    some (t, xd, fun k => BitVec.ofInt 64 ((fpIn d (k.getX xa)).toRange (if rz = 1 then .rtz else .rne) (-(2 ^ 63)) (2 ^ 63 - 1)))
  | .fcvtToU64 t xd xa d rz =>
    some (t, xd, fun k => BitVec.ofInt 64 ((fpIn d (k.getX xa)).toRange (if rz = 1 then .rtz else .rne) 0 (2 ^ 64 - 1)))
  | .fcvtSD t xd xa rz => some (t, xd, fun k => fpOut 0 rz (fpIn 1 (k.getX xa)))
  | .fcvtDS t xd xa => some (t, xd, fun k => fpOut 1 0 (fpIn 0 (k.getX xa)))
  | _ => none

/-- Branches (R138): token fields, offset, and whether the branch is taken. -/
def branchRule : Instr → Option (Tok × BitVec 12 × (Core → Prop))
  | .beq t xa xb off => some (t, off, fun k => k.getX xa = k.getX xb)
  | .bne t xa xb off => some (t, off, fun k => k.getX xa ≠ k.getX xb)
  | .blt t xa xb off => some (t, off, fun k => (k.getX xa).toInt < (k.getX xb).toInt)
  | .bge t xa xb off => some (t, off, fun k => (k.getX xb).toInt ≤ (k.getX xa).toInt)
  | .bltU t xa xb off => some (t, off, fun k => (k.getX xa).toNat < (k.getX xb).toNat)
  | .bgeU t xa xb off => some (t, off, fun k => (k.getX xb).toNat ≤ (k.getX xa).toNat)
  | _ => none

/-- Loads (R142): token fields, xd, xa, imm12, bytes, and the extension to 64 bits. -/
def loadRule : Instr → Option (Tok × BitVec 5 × BitVec 5 × BitVec 12 × Nat × (Nat → Word))
  | .ldB t xd xa imm => some (t, xd, xa, imm, 1, fun v => (BitVec.ofNat 8 v).signExtend 64)
  | .ldH t xd xa imm => some (t, xd, xa, imm, 2, fun v => (BitVec.ofNat 16 v).signExtend 64)
  | .ldW t xd xa imm => some (t, xd, xa, imm, 4, fun v => (BitVec.ofNat 32 v).signExtend 64)
  | .ldD t xd xa imm => some (t, xd, xa, imm, 8, fun v => BitVec.ofNat 64 v)
  | .ldBU t xd xa imm => some (t, xd, xa, imm, 1, fun v => BitVec.ofNat 64 v)
  | .ldHU t xd xa imm => some (t, xd, xa, imm, 2, fun v => BitVec.ofNat 64 v)
  | .ldWU t xd xa imm => some (t, xd, xa, imm, 4, fun v => BitVec.ofNat 64 v)
  | _ => none

/-- Stores (R143): token fields, xs, xa, imm12, bytes. -/
def storeRule : Instr → Option (Tok × BitVec 5 × BitVec 5 × BitVec 12 × Nat)
  | .stB t xs xa imm => some (t, xs, xa, imm, 1)
  | .stH t xs xa imm => some (t, xs, xa, imm, 2)
  | .stW t xs xa imm => some (t, xs, xa, imm, 4)
  | .stD t xs xa imm => some (t, xs, xa, imm, 8)
  | _ => none

/-- The signed value of the w low bits of a number. -/
def signedLow (w v : Nat) : Int := (BitVec.ofNat w v).toInt

/-- Atomics (R148): token fields, xd, xa, xb, width bit, and the new word from the width in bits, the old word, xb and
xd, cut to that width. -/
def amoRule : Instr → Option (Tok × BitVec 5 × BitVec 5 × BitVec 5 × BitVec 1 × (Nat → Nat → Nat → Nat → Nat))
  | .amoSwap t xd xa xb _ w => some (t, xd, xa, xb, w, fun _ _ b _ => b)
  | .amoAdd t xd xa xb _ w => some (t, xd, xa, xb, w, fun n old b _ => (old + b) % 2 ^ n)
  | .amoAnd t xd xa xb _ w => some (t, xd, xa, xb, w, fun _ old b _ => old &&& b)
  | .amoOr t xd xa xb _ w => some (t, xd, xa, xb, w, fun _ old b _ => old ||| b)
  | .amoXor t xd xa xb _ w => some (t, xd, xa, xb, w, fun _ old b _ => old ^^^ b)
  | .amoMin t xd xa xb _ w => some (t, xd, xa, xb, w, fun n old b _ => if signedLow n b < signedLow n old then b else old)
  | .amoMax t xd xa xb _ w => some (t, xd, xa, xb, w, fun n old b _ => if signedLow n old < signedLow n b then b else old)
  | .amoCas t xd xa xb _ w => some (t, xd, xa, xb, w, fun _ old b d => if old = d then b else old)
  | _ => none

/-- The limit of a core under the grants that stand (R470 step 5), in tenths less for each thermal step (R454), and 0 under a cap
below the floor or the thermal hold (R453, R454). -/
def State.limitRule (u : State) (c : Nat) : Nat :=
  let m := u.stackPower (c / 40)
  let sum := ((u.stackCores (c / 40)).map (fun d => budget (u.coreAt d).grant.toNat)).sum
  let b := budget (u.coreAt c).grant.toNat
  if u.hot = true ∨ u.belowFloor = true then 0
  else (if sum ≤ 1000 * m.allot then b else b * (1000 * m.allot) / sum) * (10 - min m.steps 10) / 10

/-- u is s after the issuing core has taken a class by an instruction that retires (R162): GRANT and REQ are the class, nothing is
pending, and the limits of its stack's cores follow (R470), those of cores that have never held anything aside; nothing else
differs but token counts, the strand and event counts. -/
structure State.TakesClass (s u : State) (g : BitVec 3) : Prop where
  me : u.me = { s.me with grant := g, req := g, pend := false, limit := u.limitRule s.core, tk := u.me.tk, strands := u.me.strands,
                          now := { s.me.now with popped := u.me.now.popped, pushed := u.me.now.pushed } }
  rest : u = { s with cores := u.cores, parts := u.parts }
  parts : ∀ p, u.part p = { s.part p with tel := (u.part p).tel }
  others : ∀ c, c ≠ s.core → u.coreAt c = { s.coreAt c with limit := (u.coreAt c).limit }
  limits : ∀ c, c ≠ s.core → (u.coreAt c).limit =
    if c / 40 = s.core / 40 ∧ s.cores.find c ≠ none then u.limitRule c else (s.coreAt c).limit

end Sys2Proof.Machine
end

