-- ==== Sys2Proof/Rules/Vector.lean ====
section
/-! DEFINITION. The vector chapter as the statements read it: for each instruction its token fields, its sources with the
tags they accept, its charge, and the elements or lanes of its result (R170 to R209). -/

namespace Sys2Proof.Machine

/-- u is s after a V instruction has retired (R44, R116): the strand goes to the next word, or back to the first word of a
body with passes left, which clears the latches; else the issuing core holds what k holds, but for its tokens, strands,
loops, the record of past V instructions and the window of charges. -/
structure State.LeavesV (s u : State) (t : Tok) (k : Core) : Prop where
  retired : s.Retired u .V t ((loopBack (s.me.strand .V).pc s.me.loops).1.getD ((s.me.strand .V).pc + 4))
  me : u.me = { k with tk := u.me.tk, strands := u.me.strands, loops := u.me.loops, chain := u.me.chain,
                       charges := u.me.charges, lat := u.me.lat,
                       now := { k.now with popped := u.me.now.popped, pushed := u.me.now.pushed } }
  latches : (loopBack (s.me.strand .V).pc s.me.loops).1 = none → u.me.lat = k.lat
  cleared : (loopBack (s.me.strand .V).pc s.me.loops).1 ≠ none → ∀ n, n < 4 → (vget u.me.lat n ⟨VReg.zero, true⟩).valid = false
  rest : s.OnlyCore u

/-- A V instruction gets past the steps that come before its own checks, and extends no chain against R118. -/
structure State.IssuesV (s : State) (i : Instr) (t : Tok) (s1 : State) : Prop where
  issues : s.Issues .V t s1
  chain : s1.me.chainBroken i t = false

/-- The signed or unsigned integer that an element of an integer tag holds (R21). -/
def tagged (tag b : Nat) : Int := if tag = 2 ∨ tag = 5 then (b : Int) else (BitVec.ofNat (tagWidth tag) b).toInt

/-- The w low bits of an integer. -/
def cut (w : Nat) (i : Int) : Nat := (BitVec.ofInt w i).toNat

/-- An integer held to the range of an integer tag (R21). -/
def saturated (tag : Nat) (i : Int) : Int :=
  match tagRange tag with
  | some r => max r.1 (min r.2 i)
  | none => i

/-- An operation on two elements of a tag (R177): floats exactly and then rounded once, integers modulo 2^w. -/
def on2 (fop : FVal → FVal → FVal) (iop : Int → Int → Int) (tag a b : Nat) : Nat :=
  match tagFmt tag with
  | some f => f.round .rne (fop (f.decode a) (f.decode b))
  | none => cut (tagWidth tag) (iop (tagged tag a) (tagged tag b))

/-- An operation on one element (R177): integers saturate. -/
def on1 (fop : FVal → FVal) (iop : Int → Int) (tag a : Nat) : Nat :=
  match tagFmt tag with
  | some f => f.round .rne (fop (f.decode a))
  | none => cut (tagWidth tag) (saturated tag (iop (tagged tag a)))

/-- A saturating operation on two integer elements (R179). -/
def sat2 (iop : Int → Int → Int) (tag a b : Nat) : Nat := cut (tagWidth tag) (saturated tag (iop (tagged tag a) (tagged tag b)))

/-- The fixed pairwise tree of R35: node i of level n + 1 joins nodes 2i and 2i + 1 of level n. -/
def joinTree {α : Type} (op : α → α → α) (f : Nat → α) : Nat → Nat → α
  | 0, i => f i
  | n + 1, i => op (joinTree op f n (2 * i)) (joinTree op f n (2 * i + 1))

/-- A reduction of the elements that a mask enables (R35, R191), for the tags F64, F32, I32 and U32. -/
def reduced (mask : Word) (a : VReg) (fop : FVal → FVal → FVal) (fid : FVal) (iop : Int → Int → Int) (iid : Int × Int → Int) :
    Nat :=
  let t := a.tag.toNat
  let lg := if t = 6 then 5 else 6
  match tagFmt t with
  | some f =>
    joinTree (fun x y => f.round .rne (fop (f.decode x) (f.decode y)))
      (fun e => if elemOn mask t e then a.elem e else f.round .rne fid) lg 0
  | none =>
    cut (tagWidth t) (saturated t (joinTree iop
      (fun e => if elemOn mask t e then tagged t (a.elem e) else iid ((tagRange t).getD (0, 0))) lg 0))

/-- The inclusive prefix sum at an enabled element (R192): from −0 or 0, the enabled elements up to it in order. -/
def prefixSum (mask : Word) (a : VReg) (e : Nat) : Nat :=
  let t := a.tag.toNat
  let es := (List.range (e + 1)).filter (elemOn mask t)
  match tagFmt t with
  | some f => es.foldl (fun s x => f.round .rne ((f.decode s).add (f.decode (a.elem x)))) f.signBit
  | none => cut (tagWidth t) (saturated t ((es.map (fun x => tagged t (a.elem x))).sum))

/-- What a result holds: elements, cut to the width of its tag, or lanes. -/
inductive VVal where
  | elems (f : Core → Nat → Nat)
  | lanes (f : Core → Nat → Lane)

/-- One row of the vector tables: token fields, destination and its write-back bit, sources with the tags they accept
(R172), charge in pJ (R447), tag of the result, and the result. -/
structure VRow where
  t : Tok
  vd : BitVec 5
  ws : BitVec 1
  srcs : Core → List (Src × List Nat)
  cost : Core → Nat
  tag : Core → Nat
  val : VVal

/-- The charge of an element operation by its tag (R447). -/
def chargeOf (tag : Nat) : Nat := if tag = 6 then 120 else if 7 ≤ tag ∧ tag ≤ 11 then 60 else 20

/-- A row of two sources of one tag; a disabled lane receives zero bits (R171). -/
def rowSame2 (t : Tok) (vd va vb : BitVec 5) (ws : BitVec 1) (mask : BitVec 3) (ls : BitVec 2) (tags : List Nat)
    (cost : Nat → Nat) (op : Nat → Nat → Nat → Nat) : VRow :=
  { t := t, vd := vd, ws := ws, srcs := fun k => [(k.va va ls, tags), (k.vb vb ls, [(k.va va ls).tag])],
    cost := fun k => cost (k.va va ls).tag, tag := fun k => (k.va va ls).tag,
    val := .elems (fun k e => if elemOn (k.getK mask) (k.va va ls).tag e then
      op (k.va va ls).tag ((k.va va ls).val.elem e) ((k.vb vb ls).val.elem e) else 0) }

/-- A row of one source, the result under the source's tag. -/
def rowSame1 (t : Tok) (vd va : BitVec 5) (ws : BitVec 1) (mask : BitVec 3) (ls : BitVec 1) (tags : List Nat)
    (cost : Nat → Nat) (op : Nat → Nat → Nat) : VRow :=
  { t := t, vd := vd, ws := ws, srcs := fun k => [(k.va1 va ls, tags)], cost := fun k => cost (k.va1 va ls).tag,
    tag := fun k => (k.va1 va ls).tag,
    val := .elems (fun k e => if elemOn (k.getK mask) (k.va1 va ls).tag e then
      op (k.va1 va ls).tag ((k.va1 va ls).val.elem e) else 0) }

/-- A row of two sources with their own tags, by lanes. -/
def rowLanes2 (t : Tok) (vd va vb : BitVec 5) (ws : BitVec 1) (mask : BitVec 3) (ls : BitVec 2) (ta tb : List Nat)
    (tag : Core → Nat) (f : VReg → VReg → Nat → Lane) : VRow :=
  { t := t, vd := vd, ws := ws, srcs := fun k => [(k.va va ls, ta), (k.vb vb ls, tb)], cost := fun _ => 20, tag := tag,
    val := .lanes (fun k i => if laneOn (k.getK mask) i then f (k.va va ls).val (k.vb vb ls).val i else 0) }

/-- A row of one source, by lanes. -/
def rowLanes1 (t : Tok) (vd va : BitVec 5) (ws : BitVec 1) (mask : BitVec 3) (ls : BitVec 1) (ta : List Nat)
    (tag : Core → Nat) (f : VReg → Nat → Lane) : VRow :=
  { t := t, vd := vd, ws := ws, srcs := fun k => [(k.va1 va ls, ta)], cost := fun _ => 20, tag := tag,
    val := .lanes (fun k i => if laneOn (k.getK mask) i then f (k.va1 va ls).val i else 0) }

/-- A shift (R182): a count at or above the width gives 0, or copies of the top bit. -/
def shifted : ShiftKind → Nat → Nat → Nat → Nat
  | .left, w, a, c => a * 2 ^ c % 2 ^ w
  | .right, _, a, c => a / 2 ^ c
  | .arith, w, a, c => cut w ((BitVec.ofNat w a).toInt / (2 ^ c : Int))

/-- A row of a shift by the low five bits of a count lane. -/
def rowShift (t : Tok) (vd va vb : BitVec 5) (ws : BitVec 1) (mask : BitVec 3) (ls : BitVec 2) (kind : ShiftKind) : VRow :=
  { t := t, vd := vd, ws := ws, srcs := fun k => [(k.va va ls, [0, 1, 2, 3, 4, 5]), (k.vb vb ls, [0, 1, 2])],
    cost := fun _ => 20, tag := fun k => (k.va va ls).tag,
    val := .elems (fun k e =>
      let w := tagWidth (k.va va ls).tag
      if elemOn (k.getK mask) (k.va va ls).tag e then
        shifted kind w ((k.va va ls).val.elem e) (((k.vb vb ls).val.lane (e * w / 32)).toNat % 32) else 0) }

/-- A row of a shift by an immediate. -/
def rowShiftI (t : Tok) (vd va imm : BitVec 5) (ws : BitVec 1) (mask : BitVec 3) (ls : BitVec 1) (kind : ShiftKind) : VRow :=
  rowSame1 t vd va ws mask ls [0, 1, 2, 3, 4, 5] (fun _ => 20) (fun g x => shifted kind (tagWidth g) x imm.toNat)

/-- A row of a reduction: the result in element 0, zero elsewhere, whatever the mask (R191). -/
def rowRed (t : Tok) (vd va : BitVec 5) (ws : BitVec 1) (ls : BitVec 1) (f : Core → VReg → Nat) : VRow :=
  { t := t, vd := vd, ws := ws, srcs := fun k => [(k.va1 va ls, [1, 2, 6, 7])], cost := fun k => chargeOf (k.va1 va ls).tag,
    tag := fun k => (k.va1 va ls).tag, val := .elems (fun k e => if e = 0 then f k (k.va1 va ls).val else 0) }

/-- A row of an F32 function (R32, R180). -/
def rowFn (t : Tok) (vd va : BitVec 5) (ws : BitVec 1) (mask : BitVec 3) (ls : BitVec 1) (f : FVal → Nat) : VRow :=
  rowSame1 t vd va ws mask ls [7] (fun _ => 150) (fun _ x => f (Fmt.f32.decode x))

/-- The tags of element-wise arithmetic (R172). -/
def tagsArith : List Nat := [1, 2, 3, 4, 5, 6, 7, 8, 9]
/-- The integer tags (R172). -/
def tagsInt : List Nat := [1, 2, 3, 4, 5]
/-- RAW, I32, U32 (R172). -/
def tagsWord : List Nat := [0, 1, 2]
/-- Every tag but POISON (R172). -/
def tagsAny : List Nat := [0, 1, 2, 3, 4, 5, 6, 7, 8, 9, 10, 11, 12, 13]

/-- A row of a three-source form whose disabled lanes keep their bits (R171 form 3D): the elements of `vfma` (R178). -/
def rowFma (t : Tok) (vd va vb : BitVec 5) (mask : BitVec 3) (ls : BitVec 2) : VRow :=
  { t := t, vd := vd, ws := 0,
    srcs := fun k => [(k.va va ls, tagsArith), (k.vb vb ls, [(k.va va ls).tag]), (k.srcReg vd 0, [(k.va va ls).tag])],
    cost := fun k => chargeOf (k.va va ls).tag, tag := fun k => (k.va va ls).tag,
    val := .elems (fun k e =>
      let g := (k.va va ls).tag
      let a := (k.va va ls).val.elem e
      let b := (k.vb vb ls).val.elem e
      let d := (k.getV vd).elem e
      if elemOn (k.getK mask) g e then
        match tagFmt g with
        | some f => f.round .rne (((f.decode a).mul (f.decode b)).add (f.decode d))
        | none => cut (tagWidth g) (tagged g a * tagged g b + tagged g d)
      else d) }

/-- The vector instructions that yield a result from registers alone (R177 to R192, R196, R197). -/
def vRow : Instr → Option VRow
  | .vadd t vd va vb ws m ls => some (rowSame2 t vd va vb ws m ls tagsArith chargeOf (on2 FVal.add (· + ·)))
  | .vsub t vd va vb ws m ls => some (rowSame2 t vd va vb ws m ls tagsArith chargeOf (on2 FVal.sub (· - ·)))
  | .vmul t vd va vb ws m ls => some (rowSame2 t vd va vb ws m ls tagsArith chargeOf (on2 FVal.mul (· * ·)))
  | .vfma t vd va vb m ls => some (rowFma t vd va vb m ls)
  | .vmin t vd va vb ws m ls => some (rowSame2 t vd va vb ws m ls tagsArith chargeOf (on2 FVal.min min))
  | .vmax t vd va vb ws m ls => some (rowSame2 t vd va vb ws m ls tagsArith chargeOf (on2 FVal.max max))
  | .vabs t vd va ws m ls => some (rowSame1 t vd va ws m ls tagsArith chargeOf (on1 FVal.abs (fun x => |x|)))
  | .vneg t vd va ws m ls => some (rowSame1 t vd va ws m ls tagsArith chargeOf (on1 FVal.neg (fun x => -x)))
  | .vdiv t vd va vb ws m ls => some (rowSame2 t vd va vb ws m ls [6, 7, 8, 9] (fun _ => 150) (on2 FVal.div (fun _ _ => 0)))
  | .vrcp t vd va ws m ls => some (rowFn t vd va ws m ls (fun v => Fmt.f32.round .rne ((FVal.fin false 1 0).div v)))
  | .vrsq t vd va ws m ls => some (rowFn t vd va ws m ls (fun v => Fmt.f32.round .rne v.rsqrt))
  | .vsqrt t vd va ws m ls => some (rowFn t vd va ws m ls (fun v => Fmt.f32.round .rne v.sqrt))
  | .vexp2 t vd va ws m ls => some (rowFn t vd va ws m ls (FVal.exp2 Fmt.f32))
  | .vlog2 t vd va ws m ls => some (rowFn t vd va ws m ls (FVal.log2 Fmt.f32))
  | .vadds t vd va vb ws m ls => some (rowSame2 t vd va vb ws m ls tagsInt (fun _ => 20) (sat2 (· + ·)))
  | .vsubs t vd va vb ws m ls => some (rowSame2 t vd va vb ws m ls tagsInt (fun _ => 20) (sat2 (· - ·)))
  | .vand t vd va vb ws m ls =>
    some (rowLanes2 t vd va vb ws m ls tagsAny tagsAny (fun k => (k.va va ls).tag) (fun a b i => a.lane i &&& b.lane i))
  | .vor t vd va vb ws m ls =>
    some (rowLanes2 t vd va vb ws m ls tagsAny tagsAny (fun k => (k.va va ls).tag) (fun a b i => a.lane i ||| b.lane i))
  | .vxor t vd va vb ws m ls =>
    some (rowLanes2 t vd va vb ws m ls tagsAny tagsAny (fun k => (k.va va ls).tag) (fun a b i => a.lane i ^^^ b.lane i))
  | .vsll t vd va vb ws m ls => some (rowShift t vd va vb ws m ls .left)
  | .vsrl t vd va vb ws m ls => some (rowShift t vd va vb ws m ls .right)
  | .vsra t vd va vb ws m ls => some (rowShift t vd va vb ws m ls .arith)
  | .vsllI t vd va imm ws m ls => some (rowShiftI t vd va imm ws m ls .left)
  | .vsrlI t vd va imm ws m ls => some (rowShiftI t vd va imm ws m ls .right)
  | .vsraI t vd va imm ws m ls => some (rowShiftI t vd va imm ws m ls .arith)
  | .vbfx t vd va vb ws m ls => some (rowLanes2 t vd va vb ws m ls tagsWord tagsWord (fun _ => 1) (fun a b i =>
      let p := (b.lane i).toNat / 32 % 32
      let n := (b.lane i).toNat % 32 + 1
      BitVec.ofInt 32 (BitVec.ofNat n ((a.lane i).toNat / 2 ^ p)).toInt))
  | .vbfxU t vd va vb ws m ls => some (rowLanes2 t vd va vb ws m ls tagsWord tagsWord (fun _ => 2) (fun a b i =>
      BitVec.ofNat 32 ((a.lane i).toNat / 2 ^ ((b.lane i).toNat / 32 % 32) % 2 ^ ((b.lane i).toNat % 32 + 1))))
  | .vfsh t vd va vb m ls =>
    some { t := t, vd := vd, ws := 0,
           srcs := fun k => [(k.va va ls, tagsWord), (k.vb vb ls, tagsWord), (k.srcReg vd 0, tagsWord)], cost := fun _ => 20,
           tag := fun k => (k.getV vd).tag.toNat,
           val := .lanes (fun k i => if laneOn (k.getK m) i then
             ((((k.va va ls).val.lane i) ++ ((k.getV vd).lane i)) >>> (((k.vb vb ls).val.lane i).toNat % 32)).setWidth 32
             else (k.getV vd).lane i) }
  | .vpopc t vd va ws m ls => some (rowLanes1 t vd va ws m ls [0, 1, 2, 3, 4, 5] (fun _ => 1)
      (fun a i => BitVec.ofNat 32 ((List.range 32).filter (fun n => (a.lane i).getLsbD n)).length))
  | .vclz t vd va ws m ls => some (rowLanes1 t vd va ws m ls [0, 1, 2, 3, 4, 5] (fun _ => 1)
      (fun a i => BitVec.ofNat 32 ((List.range 32).takeWhile (fun n => !(a.lane i).getMsbD n)).length))
  | .vsel t vd va vb ws m ls =>
    some { t := t, vd := vd, ws := ws, srcs := fun k => [(k.va va ls, tagsAny), (k.vb vb ls, [(k.va va ls).tag])],
           cost := fun _ => 20, tag := fun k => (k.va va ls).tag,
           val := .lanes (fun k i => if laneOn (k.getK m) i then (k.va va ls).val.lane i else (k.vb vb ls).val.lane i) }
  | .vmov t vd va ws m ls => some (rowLanes1 t vd va ws m ls tagsAny (fun k => (k.va1 va ls).tag) (fun a i => a.lane i))
  | .vbcast t vd va vb ws m ls =>
    some (rowLanes2 t vd va vb ws m ls tagsAny tagsWord (fun k => (k.va va ls).tag) (fun a b _ => a.lane ((b.lane 0).toNat % 64)))
  | .vperm t vd va vb ws m ls =>
    some (rowLanes2 t vd va vb ws m ls tagsAny tagsWord (fun k => (k.va va ls).tag) (fun a b i => a.lane ((b.lane i).toNat % 64)))
  | .vrot t vd va vb ws m ls =>
    some (rowLanes2 t vd va vb ws m ls tagsAny tagsWord (fun k => (k.va va ls).tag) (fun a b i => a.lane ((i + (b.lane 0).toNat) % 64)))
  | .vli t vd imm ws m =>
    some { t := t, vd := vd, ws := ws, srcs := fun _ => [], cost := fun _ => 20, tag := fun _ => 1,
           val := .lanes (fun k i => if laneOn (k.getK m) i then imm.signExtend 32 else 0) }
  | .vidx t vd ws m =>
    some { t := t, vd := vd, ws := ws, srcs := fun _ => [], cost := fun _ => 20, tag := fun _ => 1,
           val := .lanes (fun k i => if laneOn (k.getK m) i then BitVec.ofNat 32 i else 0) }
  | .vredAdd t vd va ws m ls =>
    some (rowRed t vd va ws ls (fun k a => reduced (k.getK m) a FVal.add (.fin true 0 0) (· + ·) (fun _ => 0)))
  | .vredMin t vd va ws m ls =>
    some (rowRed t vd va ws ls (fun k a => reduced (k.getK m) a FVal.min (.inf false) min (fun r => r.2)))
  | .vredMax t vd va ws m ls =>
    some (rowRed t vd va ws ls (fun k a => reduced (k.getK m) a FVal.max (.inf true) max (fun r => r.1)))
  | .vscanAdd t vd va ws m ls =>
    some { t := t, vd := vd, ws := ws, srcs := fun k => [(k.va1 va ls, [1, 2, 6, 7])], cost := fun k => chargeOf (k.va1 va ls).tag,
           tag := fun k => (k.va1 va ls).tag,
           val := .elems (fun k e => if elemOn (k.getK m) (k.va1 va ls).tag e then prefixSum (k.getK m) (k.va1 va ls).val e else 0) }
  | .vsplit3 t vd va part ws m ls =>
    some { t := t, vd := vd, ws := ws, srcs := fun k => [(k.va1 va ls, [7])], cost := fun k => chargeOf (k.va1 va ls).tag, tag := fun _ => 8,
           val := .elems (fun k e => if e < 64 ∧ laneOn (k.getK m) e then
             let r := split3 (Fmt.f32.decode ((k.va1 va ls).val.elem e))
             if part = 1 then r.1 else if part = 2 then r.2.1 else r.2.2 else 0) }
  | .vcgen t vd va vb ws m ls => some (rowLanes2 t vd va vb ws m ls tagsWord tagsWord (fun _ => 2) (fun a b i =>
      let x := b.lane i * 0x9E3779B9 + a.lane i
      x ^^^ (x >>> 16)))
  | _ => none

/-- Token fields, mask register written, sources, charge and mask of the instructions that write a mask (R186, R187). -/
def kRow : Instr → Option (Tok × BitVec 3 × (Core → List (Src × List Nat)) × (Core → Nat) × (Core → Nat → Bool))
  | .vcmpEq t kd va vb m ls => some (cmpRow t kd va vb m ls FVal.eqv (fun x y => x == y))
  | .vcmpNe t kd va vb m ls => some (cmpRow t kd va vb m ls (fun x y => !x.eqv y) (fun x y => x != y))
  | .vcmpLt t kd va vb m ls => some (cmpRow t kd va vb m ls FVal.lt (fun x y => decide (x < y)))
  | .vcmpLe t kd va vb m ls => some (cmpRow t kd va vb m ls FVal.le (fun x y => decide (x ≤ y)))
  | .kand t kd ka kb => some (t, kd.setWidth 3, fun _ => [], fun _ => 20, fun k i => (k.getK ka).getLsbD i && (k.getK kb).getLsbD i)
  | .kor t kd ka kb => some (t, kd.setWidth 3, fun _ => [], fun _ => 20, fun k i => (k.getK ka).getLsbD i || (k.getK kb).getLsbD i)
  | .kxor t kd ka kb => some (t, kd.setWidth 3, fun _ => [], fun _ => 20, fun k i => (k.getK ka).getLsbD i ^^ (k.getK kb).getLsbD i)
  | .knot t kd ka => some (t, kd.setWidth 3, fun _ => [], fun _ => 20, fun k i => !(k.getK ka).getLsbD i)
  | _ => none
where
  /-- A compare (R186): false for a disabled lane; an F64 element writes both its lanes' bits. -/
  cmpRow (t : Tok) (kd : BitVec 3) (va vb : BitVec 5) (m : BitVec 3) (ls : BitVec 2) (fr : FVal → FVal → Bool)
      (ir : Int → Int → Bool) : Tok × BitVec 3 × (Core → List (Src × List Nat)) × (Core → Nat) × (Core → Nat → Bool) :=
    (t, kd, fun k => [(k.va va ls, [1, 2, 6, 7]), (k.vb vb ls, [(k.va va ls).tag])], fun k => chargeOf (k.va va ls).tag,
      fun k i =>
        let g := (k.va va ls).tag
        let e := if g = 6 then i / 2 else i
        let a := (k.va va ls).val.elem e
        let b := (k.vb vb ls).val.elem e
        elemOn (k.getK m) g e && match tagFmt g with
          | some f => fr (f.decode a) (f.decode b)
          | none => ir (tagged g a) (tagged g b))

/-- A conversion (R193 to R195): token fields, part, destination and its write-back bit, source, mask, target tag, rounding
of an index under SRSEED, and whether the counter of SRSEED advances. -/
structure CvtRow where
  t : Tok
  part : Nat
  vd : BitVec 5
  ws : BitVec 1
  src : Core → Src
  mask : BitVec 3
  dst : BitVec 4
  mode : Word → Nat → Rnd
  advances : Bool

/-- The conversions. -/
def cvtRow : Instr → Option CvtRow
  | .vcvt t n vd va g ws m ls => some ⟨t, n.toNat, vd, ws, fun k => k.va1 va ls, m, g, fun _ _ => .rne, false⟩
  | .vcvtRz t n vd va g ws m ls => some ⟨t, n.toNat, vd, ws, fun k => k.va1 va ls, m, g, fun _ _ => .rtz, false⟩
  | .vcvtSr t n vd va g ws m ls => some ⟨t, n.toNat, vd, ws, fun k => k.va1 va ls, m, g, fun seed e => .sr (srBits seed e), true⟩
  | _ => none

/-- The elements that a conversion goes through: e of R193's loops, 0 to min(Ns, Nt) − 1. -/
def CvtRow.count (r : CvtRow) (src : Nat) : Nat := min (tagCount src) (tagCount r.dst.toNat)

/-- Element d of a conversion whose source is not RAW, before the mask (R193). -/
def CvtRow.elem (r : CvtRow) (seed : Word) (a : VReg) (d : Nat) : Nat :=
  let ns := tagCount a.tag.toNat
  let nt := tagCount r.dst.toNat
  if ns ≤ nt then
    if r.part * ns ≤ d ∧ d < (r.part + 1) * ns then
      conv a.tag.toNat r.dst.toNat (r.mode seed (d - r.part * ns)) (a.elem (d - r.part * ns)) else 0
  else conv a.tag.toNat r.dst.toNat (r.mode seed d) (a.elem (r.part * nt + d))

/-- SRSEED after a conversion (R195). -/
def CvtRow.seed (r : CvtRow) (w : Word) (src : Nat) : Word :=
  if r.advances ∧ src ≠ 0 then w.extractLsb' 32 32 ++ (w.extractLsb' 0 32 + BitVec.ofNat 32 (r.count src)) else w

/-- A load from the scratchpad: token fields, destination, tag, source, mask, alignment, and the offset of a lane from the
address register (R198, R199, R201). -/
structure SpLoad where
  t : Tok
  vd : BitVec 5
  ws : BitVec 1
  tag : BitVec 4
  src : Core → Src
  mask : BitVec 3
  at_ : VReg → Nat → Nat
  align : Nat
  /-- Does the alignment rule hold for the base whatever the mask (R198)? -/
  base : Bool

/-- `vld` and `vgath`. -/
def spLoad : Instr → Option SpLoad
  | .vld t vd va g ws m ls => some ⟨t, vd, ws, g, fun k => k.va1 va ls, m, fun a i => (a.lane 0).toNat + 4 * i, 16, true⟩
  | .vgath t vd va g ws m ls => some ⟨t, vd, ws, g, fun k => k.va1 va ls, m, fun a i => (a.lane i).toNat, 4, false⟩
  | _ => none

/-- A store to the scratchpad: token fields, address source, data source, mask, offset of a lane, alignment. -/
structure SpStore where
  t : Tok
  addr : Core → Src
  data : Core → Src
  mask : BitVec 3
  at_ : VReg → Nat → Nat
  align : Nat
  base : Bool

/-- `vst` and `vscat`. -/
def spStore : Instr → Option SpStore
  | .vst t va vb m ls => some ⟨t, fun k => k.va va ls, fun k => k.vb vb ls, m, fun a i => (a.lane 0).toNat + 4 * i, 16, true⟩
  | .vscat t va vb m ls => some ⟨t, fun k => k.va va ls, fun k => k.vb vb ls, m, fun a i => (a.lane i).toNat, 4, false⟩
  | _ => none

/-- Are the offsets of the enabled lanes aligned, as is a base whatever the mask, and inside the scratchpad (R9, R198)? -/
def spFits (mask : Word) (base : Bool) (align : Nat) (off : Nat → Nat) : Prop :=
  (base = true → off 0 % align = 0) ∧
    ∀ i, i < 64 → laneOn mask i = true → (base = false → off i % align = 0) ∧ off i + 4 ≤ 0x80000

/-- Bits of an element of an MX code: 8, 6 or 4 (R17, R18). -/
def mxBits (code : Nat) : Nat := if code = 2 ∨ code = 3 then 6 else if code = 4 then 4 else 8

/-- Bytes from one block's elements to the next block's (R18). -/
def mxStride (code : Nat) : Nat := if code = 4 then 16 else 32

/-- Element e of an element array at o: bits of the block's little-endian number (R18). -/
def mxElement (m : Memory) (code o e : Nat) : Nat :=
  m.readNat (o + mxStride code * (e / 32)) (4 * mxBits code) / 2 ^ (mxBits code * (e % 32)) % 2 ^ mxBits code

end Sys2Proof.Machine
end

