-- ==== Sys2Proof/Rules/Matrix.lean ====
section
/-! DEFINITION. The matrix chapter as the statements read it: what an issued M instruction leaves, its checks, and the values
of its effects (R212 to R241). -/

namespace Sys2Proof.Machine

/-- u is s after an M instruction has issued into a path (R212, R213): the strand stands at the next word, and the entry
holds the instruction, its PC and push, the registers captured, the band mask and the counter of SRSEED; the issuing core
holds what k holds but for tokens, strands and charges. Its push and its effect come later. -/
structure State.QueuesM (s u : State) (i : Instr) (t : Tok) (p : Path) (regs : List Lane) (k : Core) : Prop where
  me : ∃ e : MEntry, e.path = p ∧ e.instr = i ∧ e.pc = (s.me.strand .M).pc ∧ e.push = t.push ∧ e.r0 = regs.getD 0 0 ∧
    e.r1 = regs.getD 1 0 ∧ e.r2 = regs.getD 2 0 ∧ e.r3 = regs.getD 3 0 ∧ e.bands = s.me.bands ∧ e.seed = s.me.srseed ∧
    e.post = none ∧
    u.me = { k with tk := u.me.tk, strands := u.me.strands, charges := u.me.charges, mq := s.me.mq ++ [e],
                    now := { k.now with popped := u.me.now.popped } }
  pc : (u.me.strand .M).pc = (s.me.strand .M).pc + 4
  ready : (u.me.strand .M).cond = .ready
  others : ∀ x, x ≠ .M → u.me.strand x = s.me.strand x
  tokens : ∀ n, (t.pop ≠ 0 → n ≠ popFifo .M t.pop) → u.me.tokens n = s.me.tokens n
  rest : s.OnlyCore u

/-- One row of the matrix tables: token fields, path, the registers captured, the checks in their order, and what issue
itself changes. -/
structure MRow where
  t : Tok
  path : Path
  regs : Core → List Lane
  chk : State → Check
  now : Core → Core

/-- Rows of `madr` (R232): a stochastic drain reserves 64 numbers for each row. -/
def madrRow (t : Tok) (tile : BitVec 3) (pa pb code : BitVec 4) (sr : Bool) : MRow :=
  { t := t, path := .array, regs := fun k => [k.getP pa, k.getP pb],
    chk := fun s => s.rowsCheck tile pa pb (64 * drainWidth code.toNat),
    now := fun k => if sr then
      { k with srseed := k.srseed.extractLsb' 32 32 ++ (k.srseed.extractLsb' 0 32 + 64 * BitVec.ofNat 32 (rowsOf (k.getP pb))) }
      else k }

/-- The queued M instructions (R213). -/
def mRow : Instr → Option MRow
  | .mwldSlot t slot code pb =>
    some ⟨t, .weight, fun k => [0, k.getP pb], fun s =>
      let tag := vget s.me.wtags slot.toNat 0
      Check.all [Check.trapIf (tag == 0xF) 0x05 (BitVec.ofNat 64 (0x300 + tag.toNat)),
        Check.trapIf (tag != 0 && (decide (6 ≤ code.toNat) || !decide (tag ∈ [8, 9, 10, 11, 4, 12]))) 0x04 (BitVec.ofNat 64 (0x300 + tag.toNat)),
        s.powerCheck (moveCost (mwldMoved code.toNat)), s.me.mwldScale code.toNat pb], id⟩
  | .mwldScratchpad t pa code pb =>
    some ⟨t, .weight, fun k => [k.getP pa, k.getP pb], fun s =>
      Check.all [s.powerCheck (moveCost (mwldMoved code.toNat)), misaligned (spOff (s.me.getP pa)) 16,
        passesEnd [(spOff (s.me.getP pa), mwldBytes code.toNat)], s.me.mwldScale code.toNat pb], id⟩
  | .mslot t _ pa =>
    some ⟨t, .weight, fun k => [k.getP pa], fun s =>
      Check.all [s.powerCheck 640, misaligned (spOff (s.me.getP pa)) 16, passesEnd [(spOff (s.me.getP pa), 8192)]], id⟩
  | .mswp t => some ⟨t, .weight, fun _ => [], fun _ => .pass, id⟩
  | .mmf t tile pa pb f => some ⟨t, .array, fun k => [k.getP pa, k.getP pb], fun s => s.mmCheck .forward tile pa pb f.toNat, id⟩
  | .mmb t tile pa pb f => some ⟨t, .array, fun k => [k.getP pa, k.getP pb], fun s => s.mmCheck .backward tile pa pb f.toNat, id⟩
  | .mmw t tile pa pb f => some ⟨t, .array, fun k => [k.getP pa, k.getP pb], fun s => s.mmCheck .weight tile pa pb f.toNat, id⟩
  | .mconst t tile pa pb kd => some ⟨t, .array, fun k => [k.getP pa, k.getP pb], fun s => s.constCheck tile pa pb kd.toNat, id⟩
  | .mconstB t tile pa pb kd => some ⟨t, .array, fun k => [k.getP pa, k.getP pb], fun s => s.constCheck tile pa pb kd.toNat, id⟩
  | .mzero t _ => some ⟨t, .array, fun _ => [], fun s => s.powerCheck 1280, id⟩
  | .macc t tile pa pb => some ⟨t, .array, fun k => [k.getP pa, k.getP pb], fun s => s.rowsCheck tile pa pb 256, id⟩
  | .madr t tile pa pb code => some (madrRow t tile pa pb code false)
  | .madrRz t tile pa pb code => some (madrRow t tile pa pb code false)
  | .madrSr t tile pa pb code => some (madrRow t tile pa pb code true)
  | .mchk t tile => some ⟨t, .array, fun _ => [], fun s => Check.all [s.me.tileClean tile, s.powerCheck 1280], id⟩
  | .mimm t tile h pa pb => some ⟨t, .array, fun k => [k.getP pa, k.getP pb], fun s => s.mimmCheck tile h pa pb 0, id⟩
  | .mimmHi t tile h pa pb => some ⟨t, .array, fun k => [k.getP pa, k.getP pb], fun s => s.mimmCheck tile h pa pb 1, id⟩
  | .mimmMid t tile h pa pb => some ⟨t, .array, fun k => [k.getP pa, k.getP pb], fun s => s.mimmCheck tile h pa pb 2, id⟩
  | .mimmLo t tile h pa pb => some ⟨t, .array, fun k => [k.getP pa, k.getP pb], fun s => s.mimmCheck tile h pa pb 3, id⟩
  | .mimv t h pa pb pc n =>
    some ⟨t, .array, fun k => [k.getP pa, k.getP pb, k.getP pc, k.getP (pc + 1)], fun s => s.mimvCheck h pa pb pc (n.toNat + 1), id⟩
  | _ => none

/-- The instructions that the M strand executes itself (R213, R224, R240): token fields, what they change, and where the strand
goes. -/
def mParam : Instr → Option (Tok × (Core → Core) × (Core → Word))
  | .mband t bands => some (t, fun k => { k with bands := bands }, fun k => (k.strand .M).pc + 4)
  | .mli t pd imm => some (t, fun k => k.setP pd (imm.signExtend 32), fun k => (k.strand .M).pc + 4)
  | .mlih t pd imm => some (t, fun k => k.setP pd (imm ++ (k.getP pd).extractLsb' 0 16), fun k => (k.strand .M).pc + 4)
  | .maddi t pd pa imm => some (t, fun k => k.setP pd (k.getP pa + imm.signExtend 32), fun k => (k.strand .M).pc + 4)
  | .madd t pd pa pb => some (t, fun k => k.setP pd (k.getP pa + k.getP pb), fun k => (k.strand .M).pc + 4)
  | .mmuli t pd pa imm => some (t, fun k => k.setP pd (k.getP pa * imm.signExtend 32), fun k => (k.strand .M).pc + 4)
  | .mloop t pa off => some (t, fun k => k.setP pa (k.getP pa - 1),
      fun k => if k.getP pa = 1 then (k.strand .M).pc + 4 else (k.strand .M).pc + 4 * off.signExtend 64)
  | _ => none

/-- Entry e is the next of its path to take effect on core c, and nothing waits to retire (R213, R223). -/
structure State.MTurn (s : State) (c : Nat) (p : Path) (e : MEntry) : Prop where
  idle : (s.coreAt c).mHead = false
  next : ∃ n, (s.coreAt c).mPick p = some n ∧ (s.coreAt c).mq[n]? = some e

/-- Products of a stream with the live plane (R225): form, tile, format code. -/
def mmRow : Instr → Option (MmForm × BitVec 3 × Nat)
  | .mmf _ t _ _ f => some (.forward, t, f.toNat)
  | .mmb _ t _ _ f => some (.backward, t, f.toNat)
  | .mmw _ t _ _ f => some (.weight, t, f.toNat)
  | _ => none

/-- The offset of element q of row i of the streamed operand (R225). -/
def streamAt (form : MmForm) (e : MEntry) (w i q : Nat) : Nat :=
  let o := e.r0.toNat % 2 ^ 19
  let st := e.r1.toNat / 2 ^ 16
  if form = .weight then o + q * st + i * w else o + i * st + q * w

/-- The value of the live plane that meets position q for column j (R225). -/
def sideAt (form : MmForm) (p : Plane) (q j : Nat) : Nat :=
  (if form = .backward then vget (vget p.vals j (tab 64 (fun _ => 0))) q 0
   else vget (vget p.vals q (tab 64 (fun _ => 0))) j 0).toNat

/-- The integer of a plane's value under I8 or T2 (R22, R34). -/
def planeInt (tag : BitVec 4) (b : Nat) : Int :=
  if tag = 12 then (if b = 1 then 1 else if b = 3 then -1 else 0) else (BitVec.ofNat 8 b).toInt

/-- Products with a constant matrix (R229): form, tile, kind. -/
def constRow : Instr → Option (MmForm × BitVec 3 × Nat)
  | .mconst _ t _ _ kd => some (.forward, t, kd.toNat)
  | .mconstB _ t _ _ kd => some (.backward, t, kd.toNat)
  | _ => none

/-- Is E[i][q] one (R229)? -/
def constAt (k : Core) (e : MEntry) (kind i q : Nat) : Bool :=
  match kind with
  | 0 => q == i
  | 1 => q == (k.window.read (e.r0.toNat % 2 ^ 19 + i)).toNat % 64
  | 2 => (q : Int) == i + (e.r1.extractLsb' 8 7).toInt
  | _ => true

/-- Implicit products (R237): tile, handle, part. -/
def mimmRow : Instr → Option (BitVec 3 × BitVec 2 × Nat)
  | .mimm _ t h _ _ => some (t, h, 0)
  | .mimmHi _ t h _ _ => some (t, h, 1)
  | .mimmMid _ t h _ _ => some (t, h, 2)
  | .mimmLo _ t h _ _ => some (t, h, 3)
  | _ => none

/-- Does entry (i, q), by offset from two origins, lie within their counts and within the canvas (R218, R237)? -/
def Handle.inside (h : Handle) (rows cols : Lane) (i q : Nat) : Bool :=
  decide (i < rows.toNat / 2 ^ 24 % 64 + 1) && decide (rows.toNat % 2 ^ 24 + i < cvNrows h.record) &&
    decide (q < cols.toNat / 2 ^ 24 % 64 + 1) && decide (cols.toNat % 2 ^ 24 + q < cvNcols h.record)

/-- ENTRY of a canvas under its exception policy, in FP32 bits, its points read by core c's node (R236). -/
def State.entryAt (s : State) (c : Nat) (h : Handle) (rows cols : Lane) (plane : Option Fmt) (i q : Nat) : Nat :=
  let r := h.record
  let row := rows.toNat % 2 ^ 24 + i
  let col := cols.toNat % 2 ^ 24 + q
  let v := Machine.entryOf h { consts := cvConsts r, p := s.pointWords c (cvRows r) (cvDim r) row,
                               q := s.pointWords c (cvCols r) (cvDim r) col, i := row, j := col }
  entryPolicy r v.1 (entryClass v.1 v.2 plane)

/-- Loads of the shadow plane (R219): the window offset of the stored plane, the storage code, and the slot. -/
def mwldRow (e : MEntry) : Option (Nat × Nat × Option Nat) :=
  match e.instr with
  | .mwldSlot _ w code _ => some (0x80000 + 8192 * w.toNat, code.toNat, some w.toNat)
  | .mwldScratchpad _ _ code _ => some (e.r0.toNat % 2 ^ 19, code.toNat, none)
  | _ => none

/-- Bytes of a stored plane (R219). -/
def planeBytes (code : Nat) : Nat :=
  if code < 2 then 8192 else if code = 5 then 1024 else if code = 10 then 2048 else if code = 12 then 5120 else 4096

/-- Element e of a plane stored from window offset o on, its scale bytes from sc on (R19, R22, R219, R220). -/
def planeElem (m : Memory) (code o sc e : Nat) : Nat :=
  if code < 2 then m.readNat (o + 2 * e) 2
  else if code < 5 then m.readNat (o + e) 1
  else if code = 5 then m.readNat (o + e / 4) 1 / 4 ^ (e % 4) % 4
  else if code < 12 then
    Fmt.bf16.round .rne ((e8m0 (m.read (sc + e / 32)).toNat).mul (mxValue (code - 6) (mxElement m (code - 6) o e)))
  else
    let g := e / 4
    let md := (m.read (o + 0x1000 + g)).toNat
    if e % 4 = md % 4 then m.readNat (o + 4 * g) 2 else if e % 4 = md / 4 % 4 then m.readNat (o + 4 * g + 2) 2 else 0

/-- Must byte j of a stored plane, which holds b, not stand there: a reserved T2 code, MXFP6 padding that is not zero, a 2:4
metadata byte against R220 (R221)? -/
def planeBad (code j : Nat) (b : Byte) : Bool :=
  if code = 5 then t2Reserved b
  else if code = 8 ∨ code = 9 then decide (24 ≤ j % 32) && b != 0
  else code == 12 && decide (0x1000 ≤ j) && (decide (16 ≤ b.toNat) || decide (b.toNat / 4 % 4 ≤ b.toNat % 4))

/-- Rounding of a drain (R232). -/
def drainOf : Instr → Option (BitVec 3 × Nat × (Word → Nat → Rnd))
  | .madr _ t _ _ c => some (t, c.toNat, fun _ _ => .rne)
  | .madrRz _ t _ _ c => some (t, c.toNat, fun _ _ => .rtz)
  | .madrSr _ t _ _ c => some (t, c.toNat, fun seed i => .sr (srBits seed i))
  | _ => none

/-- Bytes of a drained element (R232). -/
def drainBytes (code : Nat) : Nat := if code = 0 ∨ code = 5 then 4 else if code = 1 ∨ code = 2 then 2 else 1

end Sys2Proof.Machine
end

