-- ==== Sys2Proof/Rules/Copy.lean ====
section
/-! DEFINITION. The copy chapter as the statements read it: parameters, commands and the fields that R246 fills (R245 to
R271). -/

namespace Sys2Proof.Machine

/-- The C instructions that only change q registers or the PC (R271): token fields, what they change, and where the strand
goes. -/
def cParam : Instr → Option (Tok × (Core → Core) × (Core → Word))
  | .qli t qd imm => some (t, fun k => k.setQ qd (imm.signExtend 32), fun k => (k.strand .C).pc + 4)
  | .qlih t qd imm => some (t, fun k => k.setQ qd (imm ++ (k.getQ qd).extractLsb' 0 16), fun k => (k.strand .C).pc + 4)
  | .qaddi t qd qa imm => some (t, fun k => k.setQ qd (k.getQ qa + imm.signExtend 32), fun k => (k.strand .C).pc + 4)
  | .qadd t qd qa qb => some (t, fun k => k.setQ qd (k.getQ qa + k.getQ qb), fun k => (k.strand .C).pc + 4)
  | .qloop t qa off => some (t, fun k => k.setQ qa (k.getQ qa - 1),
      fun k => if k.getQ qa = 1 then (k.strand .C).pc + 4 else (k.strand .C).pc + 4 * off.signExtend 64)
  | _ => none

/-- The commands that a block of q registers fills (R246): token fields, FORM, qb, slot, SL, engine code. -/
def cCmd : Instr → Option (Tok × Nat × BitVec 4 × BitVec 4 × BitVec 1 × BitVec 3)
  | .ccopy1d t qb slot sl eng => some (t, 1, qb, slot, sl, eng)
  | .ccopy2d t qb slot sl eng => some (t, 2, qb, slot, sl, eng)
  | .ccopy3d t qb slot sl eng => some (t, 3, qb, slot, sl, eng)
  | .cgath t qb slot sl eng => some (t, 4, qb, slot, sl, eng)
  | .cscat t qb slot sl eng => some (t, 5, qb, slot, sl, eng)
  | .cfill t qb slot sl eng => some (t, 6, qb, slot, sl, eng)
  | .cradd t qb slot sl eng => some (t, 7, qb, slot, sl, eng)
  | .cfput t qb slot sl eng => some (t, 8, qb, slot, sl, eng)
  | .cfget t qb slot sl eng => some (t, 9, qb, slot, sl, eng)
  | .crs t qb slot sl eng => some (t, 10, qb, slot, sl, eng)
  | .cag t qb slot sl eng => some (t, 11, qb, slot, sl, eng)
  | .carm t qb eng => some (t, 12, qb, 0, 0, eng)
  | _ => none

/-- The forms that use the CTL and LEN fields and the argument words (R246, R260 to R266). -/
def usesLen (form : Nat) : Prop := form ∉ [4, 5]
/-- AUX. -/
def usesAux (form : Nat) : Prop := form ∈ [3, 4, 5, 7, 10, 12]
/-- CNT. -/
def usesCnt (form : Nat) : Prop := form ∈ [2, 3, 4, 5, 12]
/-- A1 and A2. -/
def usesA12 (form : Nat) : Prop := form ∈ [2, 3, 4, 5, 10, 11, 12]
/-- A3 and A4. -/
def usesA34 (form : Nat) : Prop := form = 3

/-- The fields that R246 gives a command from the block of q registers at qb; a field that the form does not use is zero. -/
structure Cmd.FromBlock (m : Cmd) (f : Nat) (q : BitVec 4 → Lane) (slot : BitVec 4) (sl : BitVec 1) : Prop where
  form : m.form = f
  src : m.src = q 1 ++ q 0
  dst : m.dst = q 3 ++ q 2
  len : (usesLen f → m.len = (q 4).toNat % 2 ^ 24) ∧ (¬ usesLen f → m.len = 0)
  aux : (usesAux f → m.aux = (q 4).toNat / 2 ^ 24) ∧ (¬ usesAux f → m.aux = 0)
  wait : m.wait = (q 5).extractLsb' 0 8
  sig : m.sig = (q 5).extractLsb' 8 8
  cnt : (usesCnt f → m.cnt = (q 5).toNat / 2 ^ 16) ∧ (¬ usesCnt f → m.cnt = 0)
  args : (usesA12 f → m.a1 = q 6 ∧ m.a2 = q 7) ∧ (¬ usesA12 f → m.a1 = 0 ∧ m.a2 = 0)
  more : (usesA34 f → m.a3 = q 8 ∧ m.a4 = q 9) ∧ (¬ usesA34 f → m.a3 = 0 ∧ m.a4 = 0)
  slot : m.slot = if sl = 1 then some slot.toNat else none

/-- The engine that an issued command goes to (R121): the one coded, or under code 7 the one of the stack's six with the
fewest commands that have not started, the lowest number of them. -/
def State.EngineFor (s : State) (eng : BitVec 3) (e : Nat) : Prop :=
  (eng ≠ 7 → e = 6 * (s.core / 40) + eng.toNat) ∧
  (eng = 7 → ∃ i, i < 6 ∧ e = 6 * (s.core / 40) + i ∧
    ∀ j, j < 6 → s.queueLen e ≤ s.queueLen (6 * (s.core / 40) + j) ∧ (s.queueLen (6 * (s.core / 40) + j) = s.queueLen e → i ≤ j))

/-- u is s after command m has been handed to engine e by a C instruction that has not completed (R247, R248): the command
stands last in that engine, every other engine is as it was, and the instruction keeps its place in the order of
retirement. -/
structure State.HandsOff (s u : State) (t : Tok) (e : Nat) (m : Cmd) : Prop where
  queue : (u.engines.get e Engine.reset).queue = (s.engines.get e Engine.reset).queue ++ [m]
  engines : ∀ x, x ≠ e → u.engines.get x Engine.reset = s.engines.get x Engine.reset
  owner : m.core = s.core ∧ m.part = s.me.node.part ∧ m.id = s.me.node.nextOp ∧ m.state = .queued
  order : ∃ o : COut, u.me.cout = s.me.cout ++ [o] ∧ o.id = m.id ∧ o.done = false ∧ o.fence = false ∧ o.last = false ∧
    o.push = t.push ∧ o.pc = (s.me.strand .C).pc
  pc : (u.me.strand .C).pc = (s.me.strand .C).pc + 4
  others : ∀ x, x ≠ .C → u.me.strand x = s.me.strand x
  me : u.me = { s.me with tk := u.me.tk, strands := u.me.strands, cout := u.me.cout,
                          now := { s.me.now with popped := u.me.now.popped },
                          node := { s.me.node with nextOp := s.me.node.nextOp + 1, reserved := s.me.node.reserved + m.reserve } }
  cores : ∀ c, c ≠ s.core → u.coreAt c = s.coreAt c
  rest : u = { s with cores := u.cores, engines := u.engines }

/-- u is s after a C instruction that has stalled (R247, R269): nothing differs but its strand's condition. -/
structure State.StallsC (s u : State) (c : Cond) : Prop where
  cond : (u.me.strand .C).cond = c
  pc : (u.me.strand .C).pc = (s.me.strand .C).pc
  me : u.me = { s.me with tk := u.me.tk, strands := u.me.strands, now := { s.me.now with popped := u.me.now.popped } }
  engines : u.engines = s.engines
  rest : s.OnlyCore u

/-- R260, R261: what a command moves, in the order of its loops: where bytes come from, where they go, and how many they are. -/
def Cmd.spans (m : Cmd) : List (Int × Int × Nat) :=
  let s : Int := (m.src.toNat : Int)
  let d : Int := (((if m.slot = none then 0 else m.land) + m.dst.toNat : Nat) : Int)
  let row (z y : Nat) : Int × Int × Nat :=
    (s + (z : Int) * m.a3.toInt + (y : Int) * m.a1.toInt, d + (z : Int) * m.a4.toInt + (y : Int) * m.a2.toInt, m.len + 1)
  match m.form with
  | 2 => (List.range (m.cnt + 1)).map (row 0)
  | 3 => (List.range (m.aux + 1)).flatMap (fun z => (List.range (m.cnt + 1)).map (row z))
  | 4 => m.idx.zipIdx.map (fun e => (s + (e.1 * m.a2.toNat : Nat), d + (e.2 * 2 ^ m.aux : Nat), 2 ^ m.aux))
  | 5 => m.idx.zipIdx.map (fun e => (s + (e.2 * 2 ^ m.aux : Nat), d + (e.1 * m.a2.toNat : Nat), 2 ^ m.aux))
  | _ => [(s, d, m.len + 1)]

/-- R259: of the moves that write a destination byte, the last one, whose byte remains. -/
def Cmd.lastSpan (m : Cmd) (a : Nat) : Option (Int × Int × Nat) :=
  (m.spans.filter (fun e => decide (e.2.1 ≤ (a : Int)) && decide ((a : Int) < e.2.1 + e.2.2))).getLast?

/-- A command writes into destination sector x. -/
def Cmd.Touches (m : Cmd) (x : Nat) : Prop := ∃ a, (m.lastSpan a).isSome = true ∧ a / 16 = x

/-- R260 to R262, R265: the byte that a move brings to destination address a: of the source sector that was read, of the
pattern, or of the incoming chunk. -/
def Cmd.brings (m : Cmd) (e : Int × Int × Nat) (a : Nat) : Byte :=
  let k := ((a : Int) - e.2.1).toNat
  let x := (e.1 + k).toNat
  if m.form = 6 then BitVec.ofNat 8 (m.src.toNat / 2 ^ (8 * (k % 8)))
  else if m.form = 10 ∨ m.form = 11 then ((m.arrived.map (·.bytes)).getD []).getD k 0
  else ((m.grabbed.get (x / 16) []).getD (x % 16) (0, false)).1

/-- R263: bytes of an element. -/
def sumBytes (aux : Nat) : Nat := if aux = 1 ∨ aux = 2 then 2 else 4

/-- R263: the sum of two elements of format AUX. -/
def sumOf (aux d v : Nat) : Nat :=
  match aux with
  | 0 => Fmt.f32.round .rne ((Fmt.f32.decode d).add (Fmt.f32.decode v))
  | 1 => Fmt.bf16.round .rne ((Fmt.bf16.decode d).add (Fmt.bf16.decode v))
  | 2 => Fmt.f16.round .rne ((Fmt.f16.decode d).add (Fmt.f16.decode v))
  | _ => (BitVec.ofInt 32 (max (-2 ^ 31) (min (2 ^ 31 - 1) ((BitVec.ofNat 32 d).toInt + (BitVec.ofNat 32 v).toInt)))).toNat

/-- R260 to R265: what stands at destination address a after a command, whose last move there is e: the byte that comes, or its
share of the sum of the element that stood there and the one that comes. -/
def Cmd.leaves (m : Cmd) (old : Nat → Byte) (e : Int × Int × Nat) (a : Nat) : Byte :=
  if m.form = 7 ∨ m.form = 10 then
    let w := sumBytes m.aux
    let i := ((a : Int) - e.2.1).toNat % w
    let word (f : Nat → Byte) : Nat := leNat ((List.range w).map (fun j => f (a - i + j)))
    BitVec.ofNat 8 (sumOf m.aux (word old) (word (m.brings e)) / 2 ^ (8 * i))
  else m.brings e a

/-- R257, R258, R264: where a command's source sector x lies: the scratchpad alias, but for `cfget`, or what a range that it may
read, and that answers, maps. -/
def State.SourceAt (s : State) (m : Cmd) (x : Nat) (q : Place) : Prop :=
  (0xFFFFFFFFFFF80000 ≤ 16 * x ∧ 16 * x < 2 ^ 64 ∧ m.form ≠ 9 ∧ q = .scratch (16 * x - 0xFFFFFFFFFFF80000)) ∨
    (16 * x < 0xFFFFFFFFFFF80000 ∧ ∃ e, s.engineLoc m false (16 * x) = .ok (e, q))

end Sys2Proof.Machine
end

