-- ==== Sys2Proof/Rules/Events.lean ====
section
/-! DEFINITION. Events as the statements read them: what ends a node and when its strands let it go, what a rollback
leaves, what an item's return is, and how a strand stands (R275, R278, R284, R285, R371, R439, R441). -/

namespace Sys2Proof.Machine

/-- How a strand stands for token deadlock: its field of TVAL and the PC of its stalled instruction (R275, R276), for the
conditions that involve no copy. -/
def StrandSt.Stands (t : StrandSt) (f : Nat) (pc : Word) : Prop :=
  match t.cond with
  | .popStall n => f = n ∧ pc = t.pc
  | .pushHold n p _ => f = 16 + n ∧ pc = p
  | .ended => f = 31 ∧ pc = t.pc - 4
  | _ => False

/-- The token that strand x waits for has not come, and the room that its held push waits for has not appeared (R275). -/
def Core.Stuck (k : Core) (x : Strand) : Prop :=
  (∀ n, (k.strand x).cond = .popStall n → k.tokens n = 0) ∧
  ∀ n pc last, (k.strand x).cond = .pushHold n pc last → k.windowOf n ≤ k.tokens n

/-- No copy command, matrix operation, prefetch or solve of core c's node is under way. -/
structure State.Quiet (s : State) (c : Nat) : Prop where
  cmds : ∀ e ∈ s.engines, ∀ m ∈ e.2.queue, m.core ≠ c
  mq : (s.coreAt c).mq = []
  prefetches : ∀ f ∈ s.prefetches, f.core ≠ some c
  solving : (s.coreAt c).node.solving = none

/-- Core c's node has ended (R285): four strands ended with no trap to take, and no operation of it under way. -/
structure State.Ends (s : State) (c : Nat) : Prop where
  running : (s.coreAt c).node.phase = .running
  stays : (s.coreAt c).node.ending = none
  ended : ∀ st, ((s.coreAt c).strand st).cond = .ended ∧ ((s.coreAt c).strand st).pending = none
  cout : (s.coreAt c).cout = []
  quiet : s.Quiet c

/-- A launch that runs in s is FAILED in u (R360). -/
def State.FailsLaunch (s u : State) (p lid : Nat) : Prop :=
  ∀ l, s.launch? p lid = some l → l.state = .running → ∃ m, u.launch? p lid = some m ∧ m.state = .failed

/-- The item of a node that has gone is READY again in its slot, with so many attempts more (R371, R441). -/
def State.ItemReturns (s u : State) (nd : Node) (more : Nat) : Prop :=
  ∀ g q sl, s.stageOf nd.part nd.launch nd.stage = some g → s.queue? nd.part g.input = some q → q.slots[nd.slot]? = some sl →
    ∃ r, u.queue? nd.part g.input = some r ∧ r.slots[nd.slot]? = some { sl with st := .ready, tries := sl.tries + more }

/-- Core c's node may go at once, but for a strand that stops in its instruction: nothing else is to end it, and its strands
stand at boundaries or are frozen (R278, R284). -/
structure State.CanGo (s : State) (c : Nat) (stops : Option Strand) : Prop where
  stays : (s.coreAt c).node.ending = none
  rest : ∀ x, stops ≠ some x → ((s.coreAt c).strand x).frozen = true ∨ State.atBoundary { s with core := c } x = true

/-- Core c's node is rolled back in u: it has gone, or it is to go, once each of its strands has come to its next boundary
(R284, R439). -/
def State.RollsBack (u : State) (c : Nat) : Prop :=
  (u.coreAt c).node.phase = .idle ∨ ∃ cause strand pc addr gtc, u.endingOf c = some (.rollback cause strand pc addr gtc)

/-- The node of core c is under way: it runs, takes a trap, or runs its handler. -/
def Core.UnderWay (k : Core) : Prop := k.node.phase ≠ .idle ∧ k.node.phase ≠ .committing

/-- u is s after one count of an event in partition p (R463): each counter that selects the event has counted it, and nothing
else differs but what a snapshot trigger latches (R464). -/
structure State.Counted (s u : State) (p ev : Nat) : Prop where
  counters : ((s.part p).tel.evsel.map (·.1)).Nodup → ∀ i, (u.part p).tel.pmc.get i 0 =
    if (i, ev) ∈ (s.part p).tel.evsel then ((s.part p).tel.pmc.get i 0 + 1) % 2 ^ 64 else (s.part p).tel.pmc.get i 0
  part : u.part p = { s.part p with tel := (u.part p).tel }
  others : ∀ q, q ≠ p → u.part q = s.part q
  rest : u = { s with parts := u.parts }

/-- A collective command that waits for a chunk at a port (R423). -/
def Cmd.PostedAt (m : Cmd) (port : Nat) : Prop :=
  (m.form = 10 ∨ m.form = 11) ∧ m.state = .executing ∧ m.arrived = none ∧ m.fields.portIn = port

/-- Bytes that an agent wrote at a virtual address of partition p stand in u, wherever one entry of device memory of s maps
all of them, each to a place of its own (R380). -/
def State.Lands (s u : State) (p a : Nat) (bytes : List Byte) : Prop :=
  ∀ e, (∀ i, i < bytes.length → s.entryOf p (a + i) = some e) → e.home = 0 → e.win = false → e.base % 4096 = 0 →
    (∀ i j, i < bytes.length → j < bytes.length →
      s.physAt p e (a + i - e.base) = s.physAt p e (a + j - e.base) → i = j) →
    ∀ (i : Nat) (h : i < bytes.length), u.mem.read (s.physAt p e (a + i - e.base)) = bytes[i]

end Sys2Proof.Machine
end

