-- ==== Sys2Proof/Certificates/Slice0/Obligations.lean ====
section
/-! DEFINITION. The statements, each a proposition about the model that formalises rules of the spec. -/

section

open Sys2Proof Sys2Proof.Machine

/-! ## The machine and its words -/

/-- R101, R127, R128 and log 3: the turn of a strand whose fetched word decodes to an instruction runs that instruction;
a word that decodes to none is the illegal encoding, cause 0x01, with TVAL the word; a fetch that fails raises its cause
with TVAL the PC (log 31). Around exec a step lets the turn's cycles pass, one at least where the cycle under way has no
place left for the strand (log 66), and recalls the word's line if the host holds it (R420); the meaning itself moves the
PC; after it, what has come to its end is settled, which changes nothing where no node is to end (R284) and no error record is
due (R444). -/
def Obligations.StrandTurnRunsDecodedWord : Prop :=
  (∀ (s : State) (n : Nat) (late : Bool) (c : Nat) (st : Strand) (rest : List Turn),
    let t : Turn := { wait := n, late := late, act := .strand c st }
    let s0 : State := { s with agenda := rest }
    let p := s0.pass (s0.waitOf t)
    let a : State := { p with late := late, slot := slotAfter p.slot (.strand c st), core := c }
    let b := a.beginIssue st
    s.agenda = t :: rest → s.railsOff = false → a.mayIssue st = true → (a.me.strand st).pending = none →
    (∀ w i, b.fetch st (b.me.strand st).pc.toNat = .word w → decode st w = .ok i → step s = settled (exec i b)) ∧
    (∀ w r, b.fetch st (b.me.strand st).pc.toNat = .word w → decode st w = .error r →
      step s = .next (b.trapHere st 0x01 (w.setWidth 64)).settle) ∧
    (∀ cause, b.fetch st (b.me.strand st).pc.toNat = .fault cause →
      step s = .next (b.trapHere st cause (b.me.strand st).pc).settle) ∧
    (s.hostDir = [] → b.me = { a.me with now := { a.me.now with issued := st :: a.me.now.issued } } ∧ b.mem = s.mem)) ∧
  (∀ (s : State) (n : Nat) (late : Bool) (c : Nat) (st : Strand),
    (n ≠ 0 → s.waitOf { wait := n, late := late, act := .strand c st } = n) ∧
    (s.slot = .fresh → s.waitOf { wait := n, late := late, act := .strand c st } = n) ∧
    (∀ st', s.slot = .after c st' → st.num ≤ st'.num → s.waitOf { wait := 0, late := late, act := .strand c st } = 1)) ∧
  (∀ s : State, s.due = [] → (∀ c, (s.coreAt c).node.ending = none) → s.settle = s)

/-- Log 3 (the model's own agenda): a turn that names an event runs that event after its cycles have passed; a stream
instruction is never run from the agenda; with nothing listed, the default turn is taken; what has come to its end after the
event is settled. R454 and the dispatcher: every
instruction and event answers a next state; a step faults only with the power rails off, and no step refuses. -/
def Obligations.EventTurnRunsEvent : Prop :=
  (∀ (s : State),
    (∀ (n : Nat) (late : Bool) (i : Instr) (rest : List Turn),
      s.agenda = { wait := n, late := late, act := .event i } :: rest → i.stream? = none →
      s.railsOff = false ∨ newtEvent i = true →
      let s0 : State := { s with agenda := rest }
      let p := s0.pass (s0.waitOf { wait := n, late := late, act := .event i })
      step s = settled (exec i { p with late := late, slot := slotAfter p.slot (.event i) })) ∧
    (∀ (n : Nat) (late : Bool) (i : Instr) (rest : List Turn),
      s.agenda = { wait := n, late := late, act := .event i } :: rest → i.stream? ≠ none →
      let s0 : State := { s with agenda := rest }
      let p := s0.pass (s0.waitOf { wait := n, late := late, act := .event i })
      step s = .next (State.settle { p with late := late, slot := slotAfter p.slot (.event i) })) ∧
    (s.agenda = [] → step s = State.takeTurn { s with round := nextStrand s.round } s.defaultTurn)) ∧
  ((∀ (i : Instr) (s : State), ∃ u, exec i s = .next u) ∧
  (∀ (s : State) (r : Refusal), step s ≠ .refused r) ∧
  (∀ (s : State) (f : Fault), step s = .fault f → s.railsOff = true ∧ f = .railsOff))

/-- R103 to R122: words written out from the encoding tables of the four streams decode to what they stand for, and
words outside the maps decode to nothing. -/
def Obligations.WordsDecode : Prop :=
  decode .S 0x00461100 = .ok (.add ⟨0, 0⟩ 3 1 2) ∧ decode .S 0x08885FF8 = .ok (.blt ⟨0, 0⟩ 4 5 0xFF8) ∧
  decode .S 0x00CE20C4 = .ok (.fsh ⟨0, 0⟩ 7 2 1 4) ∧ decode .S 0x0310710B = .ok (.bfx ⟨0, 0⟩ 8 7 4 11) ∧
  decode .S 0x0A061107 = .ok (.fma ⟨0, 0⟩ 3 1 2 0) ∧ decode .S 0x0C460002 = .ok (.crd ⟨0, 0⟩ 3 2) ∧
  decode .V 0x1085080A = .ok (.vfma ⟨0, 1⟩ 5 1 0 2 2) ∧ decode .M 0x01522800 = .ok (.mmf ⟨0, 0⟩ 2 4 5 0) ∧
  decode .C 0x10401C00 = .ok (.ccopy1d ⟨0, 1⟩ 0 0 0 7) ∧ decode .S 0 = .error .unassigned ∧
  decode .V 0 = .error .unassigned ∧ decode .M 0 = .error .unassigned ∧ decode .C 0 = .error .unassigned

/-- R103 to R122 (kind encoding): for every well-formed instruction of a stream, at every value its fields admit, the
stream's decoder reads the instruction back from its encoded word. -/
def Obligations.DecodeOfEncode : Prop :=
  ∀ (i : Instr) (st : Strand), i.stream? = some st → i.wellFormed = true → decode st (encode i) = .ok i

/-- R101: the assigned words are exactly the encodings of well-formed instructions: a word that decodes is the encoding
of what it decodes to, so a reserved bit or an unassigned function is never taken for a neighbour. -/
def Obligations.OnlyEncodingsDecode : Prop :=
  ∀ (st : Strand) (w : BitVec 32) (i : Instr), decode st w = .ok i →
    encode i = w ∧ i.wellFormed = true ∧ i.stream? = some st

/-- The values after reset. The spec's register tables give: TVEC, TCAUSE, TEPC, TVAL and TSTAT 0 (R58), TWIN all windows
16 and TKCNT 0 (R66), ASH band 0 (R62), LSC (R38), SRSEED 0 (R63), VSTAT and PSNA 0 (R61), PCLS 0 (R64), the landing
slots 0 (R69), the breakpoints 0 (R60), counters 0 (R329), a range table of invalid entries (R379), TRCTL.LOGN 10 (R459), every
port down with PARB 4, 2, 2 (R424), the package cap 1,700 W (R449) and PAVG 0 (R450). The model's own choice is that, before
the bring-up of R468, every byte of memory of every kind reads 0 and none is poisoned (log 5), and that no node is under way
and no queue of a port holds an access (log 4). -/
def Obligations.ResetValues : Prop :=
  (∀ c, let k := State.reset.coreAt c
    k.tvec = 0 ∧ k.tcause = 0 ∧ k.tepc = 0 ∧ k.tval = 0 ∧ k.tstat = 0 ∧ (∀ n, n < 12 → k.windowOf n = 16) ∧ k.tkcnt = 0 ∧
    k.bands = 1 ∧ k.lsc = 0x00000000000F0000 ∧ k.srseed = 0 ∧ k.vstat = 0 ∧ k.psna = 0 ∧ k.pcls = 0 ∧
    (∀ n, vget k.lslt n 0 = 0) ∧ (∀ n, vget k.brka n 0 = 0) ∧ k.brkc = 0 ∧ k.node.phase = .idle) ∧
  (∀ n, State.reset.counter n = Counter.reset) ∧
  (∀ p, (State.reset.part p).active = [] ∧ (State.reset.part p).tel.trctl = 10) ∧
  (∀ n, let p := State.reset.portAt n
    p.up = false ∧ p.coll = 4 ∧ p.copy = 2 ∧ p.host = 2 ∧ p.ordq = []) ∧ State.reset.pavg = 0 ∧
  (∀ a, State.reset.mem.read a = 0) ∧ State.reset.poison = [] ∧ State.reset.pkcap = 1700

/-- Memory (log 5): a read gives the byte last written there, a write leaves every other byte alone, and every memory
operation keeps the canonical form, which reset memory has. -/
def Obligations.MemoryReadsWhatWasWritten : Prop :=
  (∀ (m : Memory) (a : Nat) (b : Byte), (m.write a b).read a = b) ∧
  (∀ (m : Memory) (a k : Nat) (b : Byte), k ≠ a → (m.write a b).read k = m.read k) ∧
  (∀ (m : Memory) (a k : Nat) (bs : List Byte), m.wf = true →
    (m.writeBytes a bs).wf = true ∧
    (m.writeBytes a bs).read k = if h : a ≤ k ∧ k - a < bs.length then bs[k - a]'h.2 else m.read k) ∧
  (∀ (m : Memory) (lo hi k : Nat), m.wf = true →
    (m.clear lo hi).wf = true ∧ (m.clear lo hi).read k = if lo ≤ k ∧ k < hi then 0 else m.read k) ∧
  State.reset.mem.wf = true

/-! ## Tokens -/

/-- R65: the twelve FIFOs are numbered by ordered pair, and the token fields name streams counted forward in the order
S, V, M, C, S. -/
def Obligations.TokenFieldsNameFifos : Prop :=
  ([Strand.S, .V, .M, .C].flatMap (fun st => [pushFifo st 1, pushFifo st 2, pushFifo st 3])
    = [0, 1, 2, 3, 4, 5, 6, 7, 8, 9, 10, 11]) ∧
  ([Strand.S, .V, .M, .C].flatMap (fun st => [popFifo st 1, popFifo st 2, popFifo st 3])
    = [5, 7, 9, 8, 10, 0, 11, 1, 3, 2, 4, 6])

/-- R66, R67 and R128: a scalar instruction without memory access takes one token from the FIFO that it pops, and its push
adds one to its FIFO, unless the FIFO, by its count at the start of the cycle, holds its window of tokens: then the push is
held and the count stands. R128 step 2: a scalar instruction without memory access whose pop finds its FIFO empty at the
start of the cycle stalls and changes nothing but its strand's condition. A token pushed in a cycle is not popped in it, and
the room that a pop frees takes no push in it; when the cycle is over both are there. -/
def Obligations.TokensPopAndPush : Prop :=
  (∀ (i : Instr) (t : Tok) (xd : BitVec 5) (f : Core → Word) (s s1 : State),
    aluRule i = some (t, xd, f) → i.wellFormed = true → s.Issues .S t s1 → (s.me.strand .S).popped = none →
    ∃ u, exec i s = .next u ∧
      (t.pop ≠ 0 → s.me.tokens (popFifo .S t.pop) ≠ 0 ∧
        u.me.tokens (popFifo .S t.pop) = s.me.tokens (popFifo .S t.pop) - 1) ∧
      (t.push ≠ 0 → s.me.canPush (pushFifo .S t.push) = true →
        u.me.tokens (pushFifo .S t.push) = s.me.tokens (pushFifo .S t.push) + 1 ∧ (u.me.strand .S).cond = .ready) ∧
      (t.push ≠ 0 → s.me.canPush (pushFifo .S t.push) = false →
        u.me.tokens (pushFifo .S t.push) = s.me.tokens (pushFifo .S t.push) ∧
        (u.me.strand .S).cond = .pushHold (pushFifo .S t.push) (s.me.strand .S).pc false)) ∧
  (∀ (i : Instr) (t : Tok) (xd : BitVec 5) (f : Core → Word) (s : State),
    aluRule i = some (t, xd, f) ∨ fpRule i = some (t, xd, f) → s.me.sup = false → s.me.fetchBrk .S = none →
    t.pop ≠ 0 → (s.me.strand .S).popped = none → s.me.canPop (popFifo .S t.pop) = false →
    ∃ u, exec i s = .next u ∧ (u.me.strand .S).cond = .popStall (popFifo .S t.pop) ∧
      (u.me.strand .S).pc = (s.me.strand .S).pc ∧ u.me = { s.me with strands := u.me.strands } ∧ s.OnlyCore u ∧
      (∀ x, x ≠ .S → u.me.strand x = s.me.strand x)) ∧
  (∀ (k : Core) (n : Nat), n < 12 →
    (k.now = Now.none → (k.canPop n = true ↔ k.tokens n ≠ 0) ∧ (k.canPush n = true ↔ k.tokens n < k.windowOf n)) ∧
    (k.pushInto n).canPop n = k.canPop n ∧ (k.tokens n ≠ 0 → (k.popFrom n).canPush n = k.canPush n) ∧
    (k.pushInto n).tokens n = k.tokens n + 1 ∧ (k.popFrom n).tokens n = k.tokens n - 1) ∧
  (∀ (s : State) (n c : Nat), n ≠ 0 → ((s.pass n).coreAt c).now = Now.none ∧ ((s.pass n).coreAt c).tk = (s.coreAt c).tk)


/-! ## Scalar instructions -/

/-- R133 to R137: every integer, bit-field and constant instruction completes: xd takes the value of the rule (a write of x0
is discarded, R129), the strand goes to the next word, and no other register, flag, strand, byte of memory or counter
differs. R151: every scalar floating-point instruction completes with the value of the rule in xd, and no operation traps on
a value. -/
def Obligations.ScalarResultsComplete : Prop :=
  (∀ (i : Instr) (t : Tok) (xd : BitVec 5) (f : Core → Word) (s s1 : State),
    aluRule i = some (t, xd, f) → i.wellFormed = true → s.Issues .S t s1 →
    ∃ u, exec i s = .next u ∧ s.Retired u .S t ((s.me.strand .S).pc + 4) ∧ s.OnlyCore u ∧ s.SameStore u ∧
      s.me.OnlyX u.me ∧ (∀ r, r ≠ xd → u.me.getX r = s.me.getX r) ∧ (xd ≠ 0 → u.me.getX xd = f s.me)) ∧
  (∀ (i : Instr) (t : Tok) (xd : BitVec 5) (f : Core → Word) (s s1 : State),
    fpRule i = some (t, xd, f) → s.Issues .S t s1 →
    ∃ u, exec i s = .next u ∧ s.Retired u .S t ((s.me.strand .S).pc + 4) ∧ s.OnlyCore u ∧ s.SameStore u ∧
      s.me.OnlyX u.me ∧ (∀ r, r ≠ xd → u.me.getX r = s.me.getX r) ∧ (xd ≠ 0 → u.me.getX xd = f s.me))

/-- R138: the branches set the PC to PC + 4 × off12 when the comparison holds and to PC + 4 otherwise, and write no
register. -/
def Obligations.BranchesGoToTarget : Prop :=
  ∀ (i : Instr) (t : Tok) (off : BitVec 12) (c : Core → Prop) (s s1 : State),
    branchRule i = some (t, off, c) → s.Issues .S t s1 →
    ∃ u, exec i s = .next u ∧ s.OnlyCore u ∧ s.SameStore u ∧ s.me.OnlyX u.me ∧ u.me.x = s.me.x ∧
      (c s.me → s.Retired u .S t ((s.me.strand .S).pc + 4 * off.signExtend 64)) ∧
      (¬ c s.me → s.Retired u .S t ((s.me.strand .S).pc + 4))

/-- R139: `jal` and `jalr` link PC + 4 and go to their targets, `jalr` reading xa before it writes xd; a target of `jalr`
that is no multiple of 4 traps with cause 0x08 and TVAL the target, and has no effect. -/
def Obligations.JumpsLinkAndGo : Prop :=
  ∀ (t : Tok) (xd xa : BitVec 5) (off : BitVec 17) (imm : BitVec 12) (s s1 : State), s.Issues .S t s1 →
    (∃ u, exec (.jal t xd off) s = .next u ∧ s.Retired u .S t ((s.me.strand .S).pc + 4 * off.signExtend 64) ∧
      s.OnlyCore u ∧ s.SameStore u ∧ s.me.OnlyX u.me ∧ (∀ r, r ≠ xd → u.me.getX r = s.me.getX r) ∧
      (xd ≠ 0 → u.me.getX xd = (s.me.strand .S).pc + 4)) ∧
    ((s.me.getX xa + 4 * imm.signExtend 64).toNat % 4 = 0 →
      ∃ u, exec (.jalr t xd xa imm) s = .next u ∧ s.Retired u .S t (s.me.getX xa + 4 * imm.signExtend 64) ∧
        s.OnlyCore u ∧ s.SameStore u ∧ s.me.OnlyX u.me ∧ (∀ r, r ≠ xd → u.me.getX r = s.me.getX r) ∧
        (xd ≠ 0 → u.me.getX xd = (s.me.strand .S).pc + 4)) ∧
    (s.UserNode → (s.me.getX xa + 4 * imm.signExtend 64).toNat % 4 ≠ 0 →
      ∃ u, exec (.jalr t xd xa imm) s = .next u ∧
        s.EntersTrap u .S 0x08 (s.me.getX xa + 4 * imm.signExtend 64) (s.me.strand .S).pc)

/-- R140, R142, R415, R417, R420: a load from an aligned, translated, readable place that memory answers at once writes the
extended little-endian value to xd, a line of it that the host holds having been recalled with the host's bytes; where the
host holds none, no byte of memory, no poison mark and no staged byte differs, and no other register does. Unless the core's
caches hold the line, a read of host memory leaves by port 0 as a request with the host address, and one of pooled memory by
its window's port with the target and the offset; that the request and its answer are one step is the model's choice (log 94).
-/
def Obligations.LoadsExtendMemory : Prop :=
  ∀ (i : Instr) (t : Tok) (xd xa : BitVec 5) (imm : BitVec 12) (n : Nat) (ext : Nat → Word) (s s1 : State) (l : Loc),
    loadRule i = some (t, xd, xa, imm, n, ext) → s.Issues .S t s1 →
    (s.me.getX xa + imm.signExtend 64).toNat % n = 0 →
    s1.locate needR (s.me.getX xa + imm.signExtend 64).toNat = .ok l → s1.accessWaits l.place = false →
    s1.hostGone l.place = false →
    let b := s1.askPlace s1.core n l.place
    (∀ j, j < n → b.placePoison b.core l.place j = false) →
    s1.me.dataBrk (s.me.getX xa + imm.signExtend 64).toNat n = none →
    ∃ u, exec i s = .next u ∧ s.Retired u .S t ((s.me.strand .S).pc + 4) ∧ s.me.OnlyX u.me ∧ b.SameStore u ∧
      ((∀ h ∈ s.hostDir, ∀ pa, l.place = .dram pa → h.line ∉ linesOf pa n) → s.SameStore u) ∧
      (∀ pa, l.place = .host pa → 0x10000000000 ≤ pa → pa < 0x100000000000 → s.cachedBy s.core (pa / 128) = false →
        u.sent = s.sent ++ [.hostRead (pa - 0x10000000000) n]) ∧
      (∀ pa m, l.place = .pool pa → 0x100000000000 ≤ pa → s.cachedBy s.core (pa / 128) = false →
        s.portOf (fabricWindow pa) = some m → (s.ports.get m Port.reset).up = true →
        u.sent = s.sent ++ [.fabricRead m (s.pbridOf (fabricWindow pa)) (pa % 2 ^ 40) n]) ∧
      u.counters = s.counters ∧ (∀ r, r ≠ xd → u.me.getX r = s.me.getX r) ∧
      (xd ≠ 0 → u.me.getX xd = ext (leNat ((List.range n).map (fun j => b.placeByte b.core l.place j))))

/-- R140, R141, R143, R148, R149: a load or store whose address is no multiple of its size traps with cause 0x08; an aligned
one outside the scratchpad alias that no VALID entry maps traps with cause 0x06, and one whose entry lacks the needed
permission with cause 0x07, before anything that its place would raise (DEDUCED, log 100); any other failure of the
translation traps with its own cause; a store that would pass the 2 MiB of staged bytes traps with cause 0x0E. An atomic traps
in the same way, for R and W permission; through an entry that maps an on-chip window it traps with cause 0x07, whatever the
offset in the window, and on a range whose home is peer with cause 0x07, whatever its fabric window (DEDUCED, log 102). TVAL is
the address, and nothing is read or written. -/
def Obligations.AccessFaultsTrap : Prop :=
  (∀ (i : Instr) (t : Tok) (xa : BitVec 5) (imm : BitVec 12) (n : Nat) (need : Need) (s s1 : State),
    ((∃ xd ext, loadRule i = some (t, xd, xa, imm, n, ext)) ∧ need = needR ∨
      (∃ xs, storeRule i = some (t, xs, xa, imm, n)) ∧ need = needW) →
    s.Issues .S t s1 → s.UserNode →
    ((s.me.getX xa + imm.signExtend 64).toNat % n ≠ 0 →
      ∃ u, exec i s = .next u ∧ s.EntersTrap u .S 0x08 (s.me.getX xa + imm.signExtend 64) (s.me.strand .S).pc) ∧
    (∀ c, (s.me.getX xa + imm.signExtend 64).toNat % n = 0 →
      s1.locate need (s.me.getX xa + imm.signExtend 64).toNat = .error c →
      ∃ u, exec i s = .next u ∧ s.EntersTrap u .S c (s.me.getX xa + imm.signExtend 64) (s.me.strand .S).pc) ∧
    (let a := (s.me.getX xa + imm.signExtend 64).toNat
     let entries := (s.part s.me.node.part).active
     a % n = 0 → a < 0xFFFFFFFFFFF80000 →
     ((∀ e ∈ entries, e.2.maps a = false) →
       ∃ u, exec i s = .next u ∧ s.EntersTrap u .S 0x06 (s.me.getX xa + imm.signExtend 64) (s.me.strand .S).pc) ∧
     (∀ j e, entries.find? (fun x => x.2.maps a) = some (j, e) → (need.r = true ∧ e.r = false ∨ need.w = true ∧ e.w = false) →
       ∃ u, exec i s = .next u ∧ s.EntersTrap u .S 0x07 (s.me.getX xa + imm.signExtend 64) (s.me.strand .S).pc)) ∧
    (∀ l, need = needW → (s.me.getX xa + imm.signExtend 64).toNat % n = 0 →
      s1.locate needW (s.me.getX xa + imm.signExtend 64).toNat = .ok l → s1.overflows l n = true →
      ∃ u, exec i s = .next u ∧ s.EntersTrap u .S 0x0E (s.me.getX xa + imm.signExtend 64) (s.me.strand .S).pc)) ∧
  (∀ (i : Instr) (t : Tok) (xd xa xb : BitVec 5) (w : BitVec 1) (f : Nat → Nat → Nat → Nat → Nat) (n : Nat) (s s1 : State),
    amoRule i = some (t, xd, xa, xb, w, f) → s.Issues .S t s1 → s.UserNode → n = (if w = 1 then 8 else 4) →
    let a := (s.me.getX xa).toNat
    let traps (c : BitVec 8) : Prop := ∃ u, exec i s = .next u ∧ s.EntersTrap u .S c (s.me.getX xa) (s.me.strand .S).pc
    (a % n ≠ 0 → traps 0x08) ∧
    (a % n = 0 → a < 0xFFFFFFFFFFF80000 →
      ((∀ e ∈ (s.part s.me.node.part).active, e.2.maps a = false) → traps 0x06) ∧
      ∀ j e, (s.part s.me.node.part).active.find? (fun x => x.2.maps a) = some (j, e) →
        (e.r = false ∨ e.w = false ∨ e.win = true ∨ (∃ pa, s1.placeOf s.me.node.part e a = .peer pa) → traps 0x07) ∧
        ∀ c, e.win = false → s1.locate needRW a = .error c → traps c))

/-- R143, R150, R380, R420: a store of the n low bytes of xs completes. In the scratchpad alias exactly those n bytes of the
window change; in a window range those n bytes of the named core's window change, and no other byte of any core's window, and
the node is pinned; in a STAGED range they are the node's alone and memory keeps every byte; in a DIRECT range those n bytes of
memory change, the node is pinned, and no other byte differs but those of a touched line that the host held and gives back. The
place stored to is the one that the address xa + imm resolves to with W permission. -/
def Obligations.StoresWriteTheirBytes : Prop :=
  ∀ (i : Instr) (t : Tok) (xs xa : BitVec 5) (imm : BitVec 12) (n : Nat) (s s1 : State) (l : Loc),
    storeRule i = some (t, xs, xa, imm, n) → s.Issues .S t s1 →
    (s.me.getX xa + imm.signExtend 64).toNat % n = 0 →
    s1.locate needW (s.me.getX xa + imm.signExtend 64).toNat = .ok l → s1.accessWaits l.place = false →
    s1.hostGone l.place = false → s1.overflows l n = false →
    s1.me.dataBrk (s.me.getX xa + imm.signExtend 64).toNat n = none →
    ∃ u, exec i s = .next u ∧ s.Retired u .S t ((s.me.strand .S).pc + 4) ∧ u.me.x = s.me.x ∧ u.me.v = s.me.v ∧
      u.me.tiles = s.me.tiles ∧
      (∀ off, l.place = .scratch off →
        (∀ k, u.mem.read k = s.mem.read k) ∧
        ∀ k, u.me.window.read k = if off ≤ k ∧ k < off + n then (s.me.getX xs).extractLsb' (8 * (k - off)) 8 else s.me.window.read k) ∧
      (∀ d off, l.place = .window d off →
        (∀ k, u.mem.read k = s.mem.read k) ∧ u.me.node.pinned = true ∧
        (∀ c, c ≠ d → (u.coreAt c).window = (s.coreAt c).window) ∧
        ∀ k, (u.coreAt d).window.read k =
          if off ≤ k ∧ k < off + n then (s.me.getX xs).extractLsb' (8 * (k - off)) 8 else (s.coreAt d).window.read k) ∧
      (∀ pa, l.place.pa? = some pa → l.direct = false →
        (∀ k, u.mem.read k = s.mem.read k) ∧ (∀ k, u.me.window.read k = s.me.window.read k) ∧
        ∀ k, u.nodeByte s.core k = if pa ≤ k ∧ k < pa + n then (s.me.getX xs).extractLsb' (8 * (k - pa)) 8 else s.nodeByte s.core k) ∧
      (∀ pa, l.place.pa? = some pa → l.direct = true →
        u.me.node.pinned = true ∧ (∀ k, u.me.window.read k = s.me.window.read k) ∧
        (∀ k, pa ≤ k → k < pa + n → u.mem.read k = (s.me.getX xs).extractLsb' (8 * (k - pa)) 8) ∧
        ∀ k, (k < pa ∨ pa + n ≤ k) → (∀ h ∈ s.hostDir, h.line ∈ linesOf pa n → h.line ≠ k / 128) →
          u.mem.read k = s.mem.read k)

/-- R148 to R150, R420: an atomic on device memory reads the old word, a line of it that the host holds having been recalled,
writes the new one there and nowhere else, at once whatever the range's mode, and gives xd the old word sign-extended; its
scope changes none of this. On a host-home range that port 0 reaches, and on a pool-home range, it does the same, whatever it
sends. On the scratchpad alias it acts on the core's own scratchpad, and memory, the node's staged bytes and its pinning stay.
-/
def Obligations.AtomicsReadModifyWrite : Prop :=
  (∀ (i : Instr) (t : Tok) (xd xa xb : BitVec 5) (w : BitVec 1) (f : Nat → Nat → Nat → Nat → Nat) (n : Nat) (s s1 : State)
    (off : Nat) (direct : Bool),
    amoRule i = some (t, xd, xa, xb, w, f) → s.Issues .S t s1 → n = (if w = 1 then 8 else 4) →
    (s.me.getX xa).toNat % n = 0 → s1.locate needRW (s.me.getX xa).toNat = .ok { place := .scratch off, direct := direct } →
    off / 16 ∉ s.me.winPoison → s1.me.dataBrk (s.me.getX xa).toNat n = none →
    ∃ u, exec i s = .next u ∧ s.Retired u .S t ((s.me.strand .S).pc + 4) ∧ s.OnlyCore u ∧
      (∀ r, r ≠ xd → u.me.getX r = s.me.getX r) ∧
      (xd ≠ 0 → u.me.getX xd = (BitVec.ofNat (8 * n) (s.me.window.readNat off n)).signExtend 64) ∧
      (∀ k, (k < off ∨ off + n ≤ k) → u.me.window.read k = s.me.window.read k) ∧
      u.me.window.readBytes off n = leBytes n (f (8 * n) (s.me.window.readNat off n)
        ((s.me.getX xb).toNat % 2 ^ (8 * n)) ((s.me.getX xd).toNat % 2 ^ (8 * n))) ∧ u.me.node = s.me.node) ∧
  (∀ (i : Instr) (t : Tok) (xd xa xb : BitVec 5) (w : BitVec 1) (f : Nat → Nat → Nat → Nat → Nat) (n : Nat) (s s1 : State)
    (q : Place) (pa : Nat) (direct : Bool),
    q = .host pa ∨ q = .pool pa → amoRule i = some (t, xd, xa, xb, w, f) → s.Issues .S t s1 → n = (if w = 1 then 8 else 4) →
    (s.me.getX xa).toNat % n = 0 → s1.locate needRW (s.me.getX xa).toNat = .ok { place := q, direct := direct } →
    s1.accessWaits q = false → s1.hostGone q = false → pa / 16 ∉ s.poison → s1.me.dataBrk (s.me.getX xa).toNat n = none →
    ∃ u, exec i s = .next u ∧ s.Retired u .S t ((s.me.strand .S).pc + 4) ∧
      (∀ r, r ≠ xd → u.me.getX r = s.me.getX r) ∧
      (xd ≠ 0 → u.me.getX xd = (BitVec.ofNat (8 * n) (s.mem.readNat pa n)).signExtend 64) ∧
      ((∀ h ∈ s.hostDir, h.line ∉ linesOf pa n) → ∀ k, (k < pa ∨ pa + n ≤ k) → u.mem.read k = s.mem.read k) ∧
      u.mem.readBytes pa n = leBytes n (f (8 * n) (s.mem.readNat pa n)
        ((s.me.getX xb).toNat % 2 ^ (8 * n)) ((s.me.getX xd).toNat % 2 ^ (8 * n))) ∧
      (direct = true → u.me.node.pinned = true) ∧ (direct = false → u.me.node.pinned = s.me.node.pinned) ∧
      u.me.node.staged = s.me.node.staged ∧ (∀ k, u.me.window.read k = s.me.window.read k)) ∧
  ∀ (i : Instr) (t : Tok) (xd xa xb : BitVec 5) (w : BitVec 1) (f : Nat → Nat → Nat → Nat → Nat) (n : Nat) (s s1 : State)
    (pa : Nat) (direct : Bool),
    amoRule i = some (t, xd, xa, xb, w, f) → s.Issues .S t s1 → n = (if w = 1 then 8 else 4) →
    (s.me.getX xa).toNat % n = 0 → s1.locate needRW (s.me.getX xa).toNat = .ok { place := .dram pa, direct := direct } →
    s1.accessWaits (.dram pa) = false →
    let b := s1.askPlace s1.core n (.dram pa)
    pa / 16 ∉ b.poison → s1.me.dataBrk (s.me.getX xa).toNat n = none →
    ∃ u, exec i s = .next u ∧ s.Retired u .S t ((s.me.strand .S).pc + 4) ∧
      (∀ r, r ≠ xd → u.me.getX r = s.me.getX r) ∧
      (xd ≠ 0 → u.me.getX xd = (BitVec.ofNat (8 * n) (b.mem.readNat pa n)).signExtend 64) ∧
      (∀ k, (k < pa ∨ pa + n ≤ k) → u.mem.read k = b.mem.read k) ∧
      ((∀ h ∈ s.hostDir, h.line ∉ linesOf pa n) → b.mem = s.mem) ∧
      u.mem.readBytes pa n = leBytes n (f (8 * n) (b.mem.readNat pa n)
        ((s.me.getX xb).toNat % 2 ^ (8 * n)) ((s.me.getX xd).toNat % 2 ^ (8 * n))) ∧
      (direct = true → u.me.node.pinned = true) ∧ (direct = false → u.me.node.pinned = s.me.node.pinned) ∧
      u.me.node.staged = s.me.node.staged ∧ ∀ k, u.me.window.read k = s.me.window.read k

/-- R145: `ldlu` loads eight bytes as `ld.d` does and withdraws every staged byte of the node in the 128-byte line of a STAGED
device address; elsewhere it only loads. R146, R147, R415, R420: `pref` changes no register and never traps, whatever its
address; it retires unless the queue of what holds its request back is full, and changes no byte where the host does not hold
its line. DEDUCED (log 32): the lease stands when `pref` retires, where nothing holds the request back and a link reaches the
line's home, and a misaligned address is no case of its own, so that the line of any address is then in the core's L1, and in
its home slice or on the way there. `resq` writes a sample with BAD alone for an address that does not translate or is not
readable, SP alone in the scratchpad alias, and FILL, L2 and L1 of the address's line otherwise. -/
def Obligations.CacheHintsComplete : Prop :=
  (∀ (t : Tok) (xd xa : BitVec 5) (imm : BitVec 12) (s s1 : State) (l : Loc),
    s.Issues .S t s1 → (s.me.getX xa + imm.signExtend 64).toNat % 8 = 0 →
    s1.locate needR (s.me.getX xa + imm.signExtend 64).toNat = .ok l → s1.accessWaits l.place = false →
    s1.hostGone l.place = false →
    let b := s1.askPlace s1.core 8 l.place
    (∀ j, j < 8 → b.placePoison b.core l.place j = false) →
    s1.me.dataBrk (s.me.getX xa + imm.signExtend 64).toNat 8 = none →
    ∃ u, exec (.ldlu t xd xa imm) s = .next u ∧ s.Retired u .S t ((s.me.strand .S).pc + 4) ∧
      (∀ r, r ≠ xd → u.me.getX r = s.me.getX r) ∧ (∀ k, u.mem.read k = b.mem.read k) ∧
      (xd ≠ 0 → u.me.getX xd = BitVec.ofNat 64 (leNat ((List.range 8).map (fun j => b.placeByte b.core l.place j)))) ∧
      (∀ pa, l.place = .dram pa → l.direct = false →
        u.me.node.staged = s.me.node.staged.filter (fun e => e.1 / 128 != pa / 128)) ∧
      ((∀ pa, l.place ≠ .dram pa) ∨ l.direct = true → u.me.node.staged = s.me.node.staged)) ∧
  (∀ (t : Tok) (xd xa : BitVec 5) (imm : BitVec 12) (s s1 : State), s.Issues .S t s1 →
    (let line := s1.sampleLine (s.me.getX xa + imm.signExtend 64).toNat
     let gate (l : Nat) : Gate := s1.gate s.core (homePlace (128 * l))
     ((∀ l, line = some l → s1.accepts (gate l) = true) →
      ∃ u, exec (.pref t xa imm) s = .next u ∧ s.Retired u .S t ((s.me.strand .S).pc + 4) ∧ u.me.x = s.me.x ∧
        ((∀ h ∈ s.hostDir, line ≠ some h.line) → s.SameStore u) ∧
        ∀ l, line = some l → gate l = .clear → s1.admits s.core l = true →
          l ∈ u.me.l1 ∧ (sliceOf s.core l ≠ none → u.inL2 s.core l = true ∨ u.filling s.core l = true)) ∧
     (∀ l, line = some l → s1.accepts (gate l) = false →
      ∃ u, exec (.pref t xa imm) s = .next u ∧ (u.me.strand .S).pc = (s.me.strand .S).pc ∧ u.me.x = s.me.x ∧
        (u.me.strand .S).cond = .memory (.pref t xa imm) ∧ s.SameStore u)) ∧
    (∃ u, exec (.resq t xd xa imm) s = .next u ∧ s.Retired u .S t ((s.me.strand .S).pc + 4) ∧ s.SameStore u ∧
      (∀ r, r ≠ xd → u.me.getX r = s.me.getX r) ∧
      (xd ≠ 0 → aliasBase ≤ (s.me.getX xa + imm.signExtend 64).toNat → u.me.getX xd = 8) ∧
      (xd ≠ 0 → (s.me.getX xa + imm.signExtend 64).toNat < aliasBase →
        let a := (s.me.getX xa + imm.signExtend 64).toNat
        (s1.locate needR a = .error 0x06 ∨ (∃ e, s1.entryOf s1.me.node.part a = some e ∧ e.r = false) →
          u.me.getX xd = BitVec.ofNat 64 (2 ^ 63)) ∧
        ∀ line, s1.sampleLine a = some line → u.me.getX xd = BitVec.ofNat 64
          ((if s1.filling s.core line then 4 else 0) + (if s1.inL2 s.core line then 2 else 0) +
            (if s1.me.l1.contains line then 1 else 0)))))

/-- R154: `acread` writes the counter's phase to xd[63:32] and its count, saturated at 0xFFFF_FFFF, to xd[31:0]. R153: `acwait`
whose phase has been reached writes the phase observed and retires; else the strand waits where it stands. R155: `bar` whose
phase has been reached writes nothing and retires at once; a first arrival whose delivery does not complete the phase writes {
p, COREID.CORE, GTC } into the participant's sector of device memory, and the strand waits for the phase; a poison mark on that
sector rolls nothing back (DESIGN CHOICE, log 99). -/
def Obligations.CountersAndBarrierComplete : Prop :=
  (∀ (t : Tok) (xd xa xb : BitVec 5) (s s1 : State), s.Issues .S t s1 →
    s1.counterCheckArmed s1.me.node.part (s.me.getX xa).toNat = none →
    (∃ u, exec (.acread t xd xa) s = .next u ∧ s.Retired u .S t ((s.me.strand .S).pc + 4) ∧ s.SameStore u ∧
      u.counters = s.counters ∧ (∀ r, r ≠ xd → u.me.getX r = s.me.getX r) ∧
      (xd ≠ 0 → u.me.getX xd = BitVec.ofNat 64 ((s1.counter (s.me.getX xa).toNat).phase * 2 ^ 32
        + min (s1.counter (s.me.getX xa).toNat).count 0xFFFFFFFF))) ∧
    ((s.me.getX xb).toNat < 2 ^ 32 → reached (s1.counter (s.me.getX xa).toNat).phase (s.me.getX xb).toNat = true →
      ∃ u, exec (.acwait t xd xa xb) s = .next u ∧ s.Retired u .S t ((s.me.strand .S).pc + 4) ∧ s.SameStore u ∧
        u.counters = s.counters ∧ (∀ r, r ≠ xd → u.me.getX r = s.me.getX r) ∧
        (xd ≠ 0 → u.me.getX xd = BitVec.ofNat 64 (s1.counter (s.me.getX xa).toNat).phase)) ∧
    ((s.me.getX xb).toNat < 2 ^ 32 → reached (s1.counter (s.me.getX xa).toNat).phase (s.me.getX xb).toNat = false →
      ∃ u since, exec (.acwait t xd xa xb) s = .next u ∧ (u.me.strand .S).pc = (s.me.strand .S).pc ∧
        (u.me.strand .S).cond = .counter (s.me.getX xa).toNat (s.me.getX xb).toNat since ∧ u.me.x = s.me.x)) ∧
  (∀ (t : Tok) (xa xb : BitVec 5) (s s1 : State) (pa : Nat) (d : Bool), s.Issues .S t s1 →
    s1.barCheck (s.me.getX xa) (s.me.getX xb) = .pass →
    s1.locate needW (s.me.getX xa).toNat = .ok { place := .dram pa, direct := d } → s1.accessWaits (.dram pa) = false →
    s1.me.dataBrk (s.me.getX xa).toNat 16 = none →
    let p := (s.me.getX xb).toNat / 2 ^ 32
    let b := s1.recallBytes pa 16
    (reached (s1.counter ((s.me.getX xb).toNat % 2 ^ 16)).phase p = true →
      ∃ u, exec (.bar t xa xb) s = .next u ∧ s.Retired u .S t ((s.me.strand .S).pc + 4) ∧ u.me.x = s.me.x ∧
        u.counters = s.counters ∧ ((∀ h ∈ s.hostDir, h.line ∉ linesOf pa 16) → s.SameStore u ∧ s.OnlyCore u)) ∧
    (reached (s1.counter ((s.me.getX xb).toNat % 2 ^ 16)).phase p = false → pa < 0x10000000000 →
      (s.me.strand .S).cond = .ready → b.mem.readNat pa 4 ≠ p →
      ∃ u since, exec (.bar t xa xb) s = .next u ∧ (u.me.strand .S).pc = (s.me.strand .S).pc ∧ u.me.x = s.me.x ∧
        (u.me.strand .S).cond = .counter ((s.me.getX xb).toNat % 2 ^ 16) p since ∧
        u.mem.readBytes pa 16 = leBytes 4 p ++ leBytes 4 s.core ++ leBytes 8 s.gtc ∧
        ∀ k, (k < pa ∨ pa + 16 ≤ k) → u.mem.read k = b.mem.read k))

/-! ## Control registers, traps and the package's services -/

/-- R163, R165, R164, R160: `gtc` gives xd the global time; `hfence` only retires, since in the model every earlier access of
the strand has been performed when it issues (DESIGN CHOICE, log 75); `snap` retires and leaves a snapshot latched; `nend`
retires, and ends its strand unless its push is held. None of them writes anything else of the core. -/
def Obligations.ClockFenceSnapEnd : Prop :=
  ∀ (t : Tok) (xd : BitVec 5) (s s1 : State), s.Issues .S t s1 →
    (∃ u, exec (.gtc t xd) s = .next u ∧
      s.Leaves u .S t ((s.me.strand .S).pc + 4) (s.me.setX xd (BitVec.ofNat 64 s.gtc))) ∧
    (∃ u, exec (.hfence t) s = .next u ∧ s.Leaves u .S t ((s.me.strand .S).pc + 4) s.me) ∧
    (∃ u, exec (.snap t) s = .next u ∧ s.Leaves u .S t ((s.me.strand .S).pc + 4) s.me ∧
      (u.part s.me.node.part).tel.snap ≠ none) ∧
    (∃ u, exec (.nendS t) s = .next u ∧ s.Leaves u .S t ((s.me.strand .S).pc + 4) s.me ∧
      (t.push = 0 → (u.me.strand .S).cond = .ended))

/-- R162, R446, R470: `pacq` of a class at or below the grant takes the class at once, GRANT and REQ both; of a higher class
it records the request, joins its stack's queue last and waits, and no other core and no other stack differs; of a number
above 7 it traps with cause 0x0A and TVAL the operand. `prel` gives the class up. Where a class is taken, the limits of the
stack's cores follow by step 5 of R470, and nothing else of any core differs but that the instruction has retired. -/
def Obligations.ClassRequests : Prop :=
  ∀ (t : Tok) (xa : BitVec 5) (s s1 : State), s.Issues .S t s1 →
    (∃ u, exec (.prel t) s = .next u ∧ s.Retired u .S t ((s.me.strand .S).pc + 4) ∧ s.SameStore u ∧ s.TakesClass u 0) ∧
    ((s.me.getX xa).toNat ≤ s.me.grant.toNat →
      ∃ u, exec (.pacq t xa) s = .next u ∧ s.Retired u .S t ((s.me.strand .S).pc + 4) ∧ s.SameStore u ∧
        s.TakesClass u ((s.me.getX xa).setWidth 3)) ∧
    (s.me.grant.toNat < (s.me.getX xa).toNat → (s.me.getX xa).toNat ≤ 7 →
      ∃ u, exec (.pacq t xa) s = .next u ∧ (u.me.strand .S).cond = .pacq ∧ (u.me.strand .S).pc = (s.me.strand .S).pc ∧
        (∀ x, x ≠ .S → u.me.strand x = s.me.strand x) ∧
        u.me = { s.me with req := (s.me.getX xa).setWidth 3, pend := true, tk := u.me.tk, strands := u.me.strands,
                           now := { s.me.now with popped := u.me.now.popped } } ∧
        u = { s with cores := u.cores, power := u.power } ∧ (∀ c, c ≠ s.core → u.coreAt c = s.coreAt c) ∧
        (∀ k, k ≠ s.core / 40 → u.stackPower k = s.stackPower k) ∧
        (let m := s.stackPower (s.core / 40)
         u.stackPower (s.core / 40) = { m with arrivals := m.arrivals + 1, queue := m.queue ++
           [{ core := s.core, cls := (s.me.getX xa).toNat, order := m.arrivals, counted := false }] })) ∧
    (s.UserNode → 7 < (s.me.getX xa).toNat →
      ∃ u, exec (.pacq t xa) s = .next u ∧ s.EntersTrap u .S 0x0A (s.me.getX xa) (s.me.strand .S).pc)

/-- R54, R55, R166: `crd` of a listed register that the mode may read gives xd its value and writes nothing else; of an
unlisted number it is an illegal encoding; of a register that only supervisor mode reads it traps with cause 0x03 in user
mode (TVAL is a free value, log 6). Each number reads its own register: UCAP with the fields of the variant (R3), COREID, GTC,
NODE (R57), the trap registers (R58), TWIN, TKCNT with the counts at the start of the cycle (R66, R67), ASH, LSC, SRSEED, VSTAT
and PSNA (R61), PCLS (R64), the landing slots and the breakpoints. -/
def Obligations.ControlRegisterReads : Prop :=
  ∀ (t : Tok) (xd : BitVec 5) (cr : BitVec 12) (s s1 : State), s.Issues .S t s1 →
    (WellFormed.crListed cr.toNat = true → crReadable s.me.sup cr.toNat = true →
      ∃ u, exec (.crd t xd cr) s = .next u ∧
        s.Leaves u .S t ((s.me.strand .S).pc + 4) (s.me.setX xd (s1.crValue cr.toNat))) ∧
    (WellFormed.crListed cr.toNat = false → s.UserNode →
      ∃ u, exec (.crd t xd cr) s = .next u ∧
        s.EntersTrap u .S 0x01 ((encode (.crd t xd cr)).setWidth 64) (s.me.strand .S).pc) ∧
    (WellFormed.crListed cr.toNat = true → crReadable s.me.sup cr.toNat = false → s.UserNode →
      ∃ u, exec (.crd t xd cr) s = .next u ∧ s.EntersTrap u .S 0x03 s.freeVal (s.me.strand .S).pc) ∧
    s1.crValue 0x001 = s1.coreid ∧ s1.crValue 0x002 = BitVec.ofNat 64 s1.gtc ∧ s1.crValue 0x010 = s.me.tvec ∧
    s1.crValue 0x011 = s.me.tcause ∧ s1.crValue 0x012 = s.me.tepc ∧ s1.crValue 0x013 = s.me.tval ∧
    s1.crValue 0x020 = s.me.twin ∧ s1.crValue 0x031 = s.me.lsc ∧ s1.crValue 0x032 = s.me.srseed ∧
    s1.crValue 0x034 = s.me.psna ∧ s1.crValue 0x064 = s.me.brkc ∧
    (s.config.variant = .tb640 → (s1.crValue 0x000).toNat =
      1 * 2 ^ 40 + 640 * 2 ^ 30 + 16 * 2 ^ 25 + 12 * 2 ^ 21 + 12 * 2 ^ 17 + 0x3FF) ∧
    (s.config.variant = .tb512 → (s1.crValue 0x000).toNat =
      2 * 2 ^ 40 + 512 * 2 ^ 30 + 16 * 2 ^ 25 + 8 * 2 ^ 21 + 8 * 2 ^ 17 + 0xFF) ∧
    (s.config.variant = .tb384 → (s1.crValue 0x000).toNat = 3 * 2 ^ 40 + 384 * 2 ^ 30 + 4 * 2 ^ 21 + 0x3F) ∧
    s1.crValue 0x003 = BitVec.ofNat 64 (s.me.node.launch * 2 ^ 48 + s.me.node.stage * 2 ^ 40 + s.me.node.itemOff) ∧
    (s1.crValue 0x014).toNat = (if s.me.psup then 2 else 0) + (if s.me.sup then 1 else 0) ∧
    (∀ n, n < 12 → (s1.crValue 0x021).toNat / 2 ^ (5 * n) % 32 = (s.me.tokens n + s.me.pops n - s.me.pushes n) % 32) ∧
    s1.crValue 0x030 = s.me.bands.setWidth 64 ∧
    (s1.crValue 0x033).toNat = 16 * s.me.psns.toNat + (if s.me.psnv then 8 else 0) + (if (s.me.getPal 1).valid then 4 else 0) +
      (if (s.me.getPal 0).valid then 2 else 0) + (if s.me.ovf then 1 else 0) ∧
    (s1.crValue 0x040).toNat = (if s.me.pend then 64 else 0) + 8 * s.me.req.toNat + s.me.grant.toNat ∧
    (∀ n, n < 16 → s1.crValue (0x050 + n) = vget s.me.lslt n 0) ∧ (∀ n, n < 4 → s1.crValue (0x060 + n) = vget s.me.brka n 0)

/-- R38, R55 to R70, R166: `cwr` of a listed register that the mode may write retires, and as the cycle ends that register's
writable fields change and nothing else does: the fields of each register, exponents of LSC clamped into −126 to 127, PERMIT
of a landing slot kept or cleared. A write that would enable a landing slot is refused exactly when SIZE is 0, the slot passes
the scratchpad's end, or it overlaps another enabled slot (R70): cause 0x07 (TVAL is a free value, log 6); a register that the
mode may not write traps with cause 0x03. -/
def Obligations.ControlRegisterWrites : Prop :=
  (∀ (t : Tok) (xa : BitVec 5) (cr : BitVec 12) (s s1 : State), s.Issues .S t s1 →
    (WellFormed.crListed cr.toNat = true → crWritable s.me.sup cr.toNat = true →
      (0x050 ≤ cr.toNat → cr.toNat ≤ 0x05F → s.me.slotRefused (cr.toNat - 0x050) (s.me.getX xa) = false) →
      ∃ u, exec (.cwr t xa cr) s = .next u ∧
        s.Leaves u .S t ((s.me.strand .S).pc + 4) (s.me.writeNext cr (s.me.getX xa))) ∧
    (WellFormed.crListed cr.toNat = true → crWritable s.me.sup cr.toNat = true → 0x050 ≤ cr.toNat → cr.toNat ≤ 0x05F →
      s.me.slotRefused (cr.toNat - 0x050) (s.me.getX xa) = true → s.UserNode →
      ∃ u, exec (.cwr t xa cr) s = .next u ∧ s.EntersTrap u .S 0x07 s.freeVal (s.me.strand .S).pc) ∧
    (WellFormed.crListed cr.toNat = true → crWritable s.me.sup cr.toNat = false → s.UserNode →
      ∃ u, exec (.cwr t xa cr) s = .next u ∧ s.EntersTrap u .S 0x03 s.freeVal (s.me.strand .S).pc) ∧
    (WellFormed.crListed cr.toNat = false → s.UserNode →
      ∃ u, exec (.cwr t xa cr) s = .next u ∧
        s.EntersTrap u .S 0x01 ((encode (.cwr t xa cr)).setWidth 64) (s.me.strand .S).pc)) ∧
  (∀ (k : Core) (cr : BitVec 12) (w : Word), (k.writeNext cr w).endCycle = { k.crWrite cr.toNat w with now := Now.none }) ∧
  (∀ (s : State) (n c : Nat), n ≠ 0 → (s.pass n).coreAt c = (s.coreAt c).endCycle) ∧
  (∀ (k : Core) (i : Nat) (w : Word), let base (v : Word) : Nat := v.toNat / 2 ^ 4 % 2 ^ 15
    let size (v : Word) : Nat := v.toNat / 2 ^ 19 % 2 ^ 16
    (w.getLsbD 63 = false → k.slotRefused i w = false) ∧
    (w.getLsbD 63 = true → (k.slotRefused i w = true ↔ size w = 0 ∨ 32768 < base w + size w ∨
      ∃ j, j < 16 ∧ j ≠ i ∧ (vget k.lslt j 0).getLsbD 63 = true ∧ base w < base (vget k.lslt j 0) + size (vget k.lslt j 0) ∧
        base (vget k.lslt j 0) < base w + size w))) ∧
  (∀ (k : Core) (w : Word), ∃ v : Word, k.crWrite 0x031 w = { k with lsc := v } ∧ v.extractLsb' 60 4 = w.extractLsb' 60 4 ∧
    v.extractLsb' 56 4 = 0 ∧ v.extractLsb' 24 32 = w.extractLsb' 24 32 ∧
    ∀ i, i < 3 → (v.extractLsb' (8 * i) 8).toInt = max (-126) (min 127 (w.extractLsb' (8 * i) 8).toInt)) ∧
  ∀ (k : Core) (w : Word),
    k.crWrite 0x010 w = { k with tvec := w &&& ~~~3 } ∧ k.crWrite 0x011 w = { k with tcause := w &&& 0xFFF } ∧
    k.crWrite 0x012 w = { k with tepc := w } ∧ k.crWrite 0x013 w = { k with tval := w } ∧
    k.crWrite 0x014 w = { k with psup := w.getLsbD 1 } ∧ k.crWrite 0x020 w = { k with twin := w &&& 0xFFFFFFFFFFFF } ∧
    k.crWrite 0x030 w = { k with bands := w.setWidth 4 } ∧ k.crWrite 0x032 w = { k with srseed := w } ∧
    k.crWrite 0x033 w = { k with ovf := w.getLsbD 0, psnv := w.getLsbD 3, psns := w.extractLsb' 4 2 } ∧
    k.crWrite 0x034 w = { k with psna := w } ∧ k.crWrite 0x064 w = { k with brkc := w &&& 0xFFFF } ∧
    (∀ n, n < 4 → k.crWrite (0x060 + n) w = { k with brka := vset k.brka n w }) ∧
    ∀ n, n < 16 → ∃ v : Word, k.crWrite (0x050 + n) w = { k with lslt := vset k.lslt n v } ∧
      v.getLsbD 63 = w.getLsbD 63 ∧ v.extractLsb' 4 31 = w.extractLsb' 4 31 ∧ v.extractLsb' 0 4 = 0 ∧ v.extractLsb' 51 12 = 0 ∧
      v.extractLsb' 35 16 = if w.getLsbD 63 then (vget k.lslt n 0).extractLsb' 35 16 else 0

/-- R58, R167, R281: `trap` retires, and its node then takes the trap: cause 0x13, TVAL the code, TEPC the next word. With
no handler (R59), or in supervisor mode (R282), the node fails instead. R100, R101, R282: a scalar word with a token field
set, in supervisor mode, is an illegal encoding, and a trap in supervisor mode fails the node. The model's choice is that the
entry takes place at once although the instruction's push is held (DESIGN CHOICE, log 78). -/
def Obligations.TrapInstructionTraps : Prop :=
  (∀ (t : Tok) (code : BitVec 12) (s s1 : State), s.Issues .S t s1 →
    (s.UserNode → ∃ u, exec (.trap t code) s = .next u ∧
      s.EntersTrap u .S 0x13 (code.setWidth 64) ((s.me.strand .S).pc + 4)) ∧
    (s.me.sup = true ∨ s.me.node.handler = false → ∃ u, exec (.trap t code) s = .next u ∧ s.NodeFailed u)) ∧
  (∀ (i : Instr) (t : Tok) (xd : BitVec 5) (f : Core → Word) (s : State),
    aluRule i = some (t, xd, f) ∨ fpRule i = some (t, xd, f) → s.me.sup = true → s.me.node.phase = .handler →
    t.pop ≠ 0 ∨ t.push ≠ 0 → ∃ u, exec i s = .next u ∧ s.NodeFailed u)

/-- R168, R281, R283: `eret` in the handler returns: the mode is the one that PSUP holds, the latches are cleared, every
strand is released, the trapping strand resumes at TEPC, and the S strand, if another strand trapped, stands where it was
frozen; how long a strand has stood counts from here (R275); after a cause that R283 calls a program error the node fails. In
user mode `eret` traps with cause 0x03 (TVAL is a free value, log 6). -/
def Obligations.EretReturns : Prop :=
  ∀ (t : Tok) (s s1 : State), s.Issues .S t s1 →
    (∀ i, s.me.sup = true → s.me.node.trap = some i → programError i.cause = false →
      ∃ u, exec (.eret t) s = .next u ∧ u.me.sup = s.me.psup ∧ u.me.node.phase = .running ∧
        (u.me.strand s.me.node.trapper).pc = s.me.tepc ∧ (∀ x, (u.me.strand x).frozen = false) ∧
        (∀ n, n < 4 → (vget u.me.lat n ⟨VReg.zero, true⟩).valid = false) ∧
        (s.me.node.trapper ≠ .S → u.me.strand .S = { s.me.node.sSaved with frozen := false, since := s.cycle }) ∧
        (∀ x, (u.me.strand x).since = s.cycle) ∧
        u.me.x = s.me.x ∧ u.me.v = s.me.v ∧ u.me.tiles = s.me.tiles ∧ u.me.tcause = s.me.tcause ∧ u.me.tval = s.me.tval ∧
        s.SameStore u ∧ s.OnlyCore u) ∧
    (∀ i, s.me.sup = true → s.me.node.trap = some i → programError i.cause = true →
      ∃ u, exec (.eret t) s = .next u ∧ s.NodeFailed u) ∧
    (s.UserNode → ∃ u, exec (.eret t) s = .next u ∧ s.EntersTrap u .S 0x03 s.freeVal (s.me.strand .S).pc)

/-! ## Walks, items and solves -/

/-- R156, R342, R345, R420: `wopen` of a descriptor that, as it is read, passes its checks, when nothing holds its reads back,
takes the lowest context of its stack that is not OPEN, gives xd its handle, and marks as visited the points whose bits the
bitmap holds; with four OPEN contexts xd is all ones and no context differs. Lines that the host holds of what is read are
recalled first; where it holds none, no byte differs. -/
def Obligations.WalkOpens : Prop :=
  ∀ (t : Tok) (xd xa : BitVec 5) (s s1 : State), s.Issues .S t s1 →
    let p := s.me.node.part
    let b := (s1.askVirt p (s.me.getX xa).toNat 128).wopenRecall (s.me.getX xa)
    let d := b.virtBytes p (s.me.getX xa).toNat 128
    s1.wopenAddr (s.me.getX xa) = .pass → s1.late = false → s1.unitHeld (.wopen t xd xa) = false →
    b.wopenRead (s.me.getX xa) = .pass →
    (s1.freeContext (s.core / 40) = none →
      ∃ u, exec (.wopen t xd xa) s = .next u ∧ s.Retired u .S t ((s.me.strand .S).pc + 4) ∧ s.me.OnlyX u.me ∧
        (∀ r, r ≠ xd → u.me.getX r = s.me.getX r) ∧ (xd ≠ 0 → u.me.getX xd = -1) ∧ (∀ j, u.walk j = s.walk j) ∧
        (s.hostDir = [] → s.OnlyCoreAsked u ∧ s.SameStore u)) ∧
    (∀ i, s1.freeContext (s.core / 40) = some i →
      ∃ u, exec (.wopen t xd xa) s = .next u ∧ s.Retired u .S t ((s.me.strand .S).pc + 4) ∧ s.me.OnlyX u.me ∧
        (s.hostDir = [] → s.SameStore u) ∧
        (∀ r, r ≠ xd → u.me.getX r = s.me.getX r) ∧ (xd ≠ 0 → u.me.getX xd = BitVec.ofNat 64 (s.core / 40 * 256 + i)) ∧
        (∀ j, j ≠ 4 * (s.core / 40) + i → u.walk j = s.walk j) ∧
        (let w := u.walk (4 * (s.core / 40) + i)
         w.part = s.me.node.part ∧ w.launch = s.me.node.launch ∧ w.desc = d ∧ w.cursor = wFirst d ∧ w.revisit = [] ∧
         w.forced = [] ∧ w.points = (b.bitmapPoints p d).map (fun n => (n, .visited)) ∧
         (w.state = .closed ↔ (b.bitmapPoints p d).length = wNpts d) ∧ w.state ≠ .free))

/-- R157, R348, R349: `wnext`, when nothing holds its reads back, on a closed walk gives all ones and changes nothing else; on
an open one a point that it gives is ISSUED to the core and joins the points of its node; a point at the head of FORCED goes
first; and a free or foreign handle, or a 65th point of a node, traps with cause 0x10 and TVAL the handle. R158: `wdone` marks
a point that the node holds; the mark is the node's alone, so the walk is untouched; a point that it does not hold, or has
marked, traps with cause 0x10 and TVAL the point. R159: `ipub` keeps with the node a copy of the item's bytes from the
scratchpad, as they stand also in a poisoned sector (DESIGN CHOICE, log 99); the traps of its checks, in order: 0x08 for an
address that is no multiple of 16, 0x07 for an output that the stage lacks, 0x06 for bytes past the scratchpad's end, 0x0E
past the output's count (TVAL is a free value, log 6). -/
def Obligations.WalkPointsAndItems : Prop :=
  (∀ (t : Tok) (xd xa : BitVec 5) (s s1 : State), s.Issues .S t s1 →
    (s1.wnextCheck (s.me.getX xa) = .pass → s1.late = false → s1.unitHeld (.wnext t xd xa) = false →
      (s.walk (walkKey (s.me.getX xa).toNat)).state = .closed →
      ∃ u, exec (.wnext t xd xa) s = .next u ∧
        s.Leaves u .S t ((s.me.strand .S).pc + 4) (s.me.setX xd (BitVec.ofNat 64 allVisited))) ∧
    (s1.wnextCheck (s.me.getX xa) = .pass → s1.late = false → s1.unitHeld (.wnext t xd xa) = false →
      (s.walk (walkKey (s.me.getX xa).toNat)).state ≠ .closed →
      ∃ u n, exec (.wnext t xd xa) s = .next u ∧ s.Retired u .S t ((s.me.strand .S).pc + 4) ∧
        (∀ r, r ≠ xd → u.me.getX r = s.me.getX r) ∧ (xd ≠ 0 → u.me.getX xd = BitVec.ofNat 64 n) ∧
        (s.hostDir = [] → u.mem = s.mem) ∧
        (n ≠ allVisited → n ≠ noPointNow →
          (u.walk (walkKey (s.me.getX xa).toNat)).points.find n = some (.issued s.core) ∧
          u.me.node.points = s.me.node.points ++ [⟨(s.me.getX xa).toNat, n, false⟩]) ∧
        ∀ pt rest, (s.walk (walkKey (s.me.getX xa).toNat)).deferrals = [] →
          (s.walk (walkKey (s.me.getX xa).toNat)).forced = pt :: rest →
          (s.walk (walkKey (s.me.getX xa).toNat)).issuedCount < 4096 → n = pt) ∧
    (s.UserNode →
      (let h := s.me.getX xa
       let w := s.walk (walkKey h.toNat)
       16 * 256 ≤ h.toNat ∨ 4 ≤ h.toNat % 256 ∨ w.state = .free ∨ w.part ≠ s.me.node.part ∨ w.launch ≠ s.me.node.launch ∨
         w.state = .opened ∧ 64 ≤ s.me.node.points.length) →
      ∃ u, exec (.wnext t xd xa) s = .next u ∧ s.EntersTrap u .S 0x10 (s.me.getX xa) (s.me.strand .S).pc)) ∧
  (∀ (t : Tok) (xa xb : BitVec 5) (s s1 : State), s.Issues .S t s1 →
    ((∃ e ∈ s.me.node.points, e.handle = (s.me.getX xa).toNat ∧ e.point = (s.me.getX xb).toNat ∧ e.done = false) →
      ∃ u, exec (.wdone t xa xb) s = .next u ∧
        s.Leaves u .S t ((s.me.strand .S).pc + 4) { s.me with node := { s.me.node with
          points := s.me.node.points.map (fun e =>
            if e.handle = (s.me.getX xa).toNat ∧ e.point = (s.me.getX xb).toNat then { e with done := true } else e) } }) ∧
    ((∀ e ∈ s.me.node.points, e.handle = (s.me.getX xa).toNat → e.point = (s.me.getX xb).toNat → e.done = true) →
      s.UserNode →
      ∃ u, exec (.wdone t xa xb) s = .next u ∧ s.EntersTrap u .S 0x10 (s.me.getX xb) (s.me.strand .S).pc)) ∧
  (∀ (t : Tok) (xa xb : BitVec 5) (s s1 : State), s.Issues .S t s1 →
    let a := (s.me.getX xa).toNat
    let x := (s.me.getX xb).toNat
    (∀ o, a % 16 = 0 → s.outs[x]? = some o → a + s.outSize x ≤ 0x80000 →
      (s.me.node.items.filter (fun e => e.out == x)).length < o.2 →
      ∃ u, exec (.ipub t xa xb) s = .next u ∧
        s.Leaves u .S t ((s.me.strand .S).pc + 4) { s.me with node := { s.me.node with
          items := s.me.node.items ++ [{ out := x, bytes := s.me.window.readBytes a (s.outSize x) }] } }) ∧
    (s.UserNode → ∀ c : BitVec 8,
      (a % 16 ≠ 0 ∧ c = 0x08 ∨
       a % 16 = 0 ∧ s.outs[x]? = none ∧ c = 0x07 ∨
       a % 16 = 0 ∧ (s.outs[x]?).isSome ∧ 0x80000 < a + s.outSize x ∧ c = 0x06 ∨
       a % 16 = 0 ∧ a + s.outSize x ≤ 0x80000 ∧ c = 0x0E ∧
         ∃ o, s.outs[x]? = some o ∧ o.2 ≤ (s.me.node.items.filter (fun e => e.out == x)).length) →
      ∃ u, exec (.ipub t xa xb) s = .next u ∧ s.EntersTrap u .S c s.freeVal (s.me.strand .S).pc))

/-- R161, R395: a `solve` whose record, as the controller reads it, passes its checks, when nothing holds its reads back, is
accepted, and xd is 0, when the controllers of its stack and of every stack it names are idle: its own then works on the
record for the node, and the others are reserved for it; else xd is 1 and no controller differs. The model's own reading is
that x_0 is what XVEC holds at acceptance, although R409 lets a write that races with the solve be seen (DEDUCED, log 57), and
that poison among the bytes read at acceptance ends the solve with status 8 at once, as a fault of R410 (DEDUCED, log 14). -/
def Obligations.SolveAcceptsOrRefuses : Prop :=
  ∀ (t : Tok) (xd xa : BitVec 5) (s s1 : State), s.Issues .S t s1 → Config.solverCount s.config.variant ≠ 0 →
    let a := s1.solveRecall s.me.node.part (s.me.getX xa).toNat
    let r := (a.solveReads s.me.node.part (s.me.getX xa).toNat).foldl (fun b e => b.askVirt s.me.node.part e.1 e.2) a
    s1.solveAddr (s.me.getX xa) = .pass → s1.late = false → s1.unitHeld (.solve t xd xa) = false →
    r.solveRead (s.me.getX xa) = .pass →
    let h := r.virtBytes s.me.node.part (s.me.getX xa).toNat 128
    let k := s.core / 40
    ((∃ j, (j = k ∨ j ∈ svStackList h) ∧ (s.solver j).phase ≠ .idle) →
      ∃ u, exec (.solve t xd xa) s = .next u ∧ s.Retired u .S t ((s.me.strand .S).pc + 4) ∧ s.me.OnlyX u.me ∧
        (∀ r, r ≠ xd → u.me.getX r = s.me.getX r) ∧ (xd ≠ 0 → u.me.getX xd = 1) ∧ (∀ j, u.solver j = s.solver j) ∧
        (s.hostDir = [] → s.OnlyCoreAsked u ∧ s.SameStore u)) ∧
    ((∀ j, j = k ∨ j ∈ svStackList h → (s.solver j).phase = .idle) →
      ∃ u, exec (.solve t xd xa) s = .next u ∧ s.Retired u .S t ((s.me.strand .S).pc + 4) ∧
        (∀ r, r ≠ xd → u.me.getX r = s.me.getX r) ∧ (xd ≠ 0 → u.me.getX xd = 0) ∧
        ((u.solver k).phase = .start ∨ (u.solver k).phase = .finishing ∧ (u.solver k).status = 8) ∧
        (u.solver k).addr = (s.me.getX xa).toNat ∧ (u.solver k).head = h ∧ (u.solver k).core = s.core ∧
        (u.solver k).part = s.me.node.part ∧ (u.solver k).gtcAcc = s.gtc ∧
        (u.solver k).x0 = (if svX0Zero h then [] else r.virtBytes s.me.node.part (svX h) (4 * svN h)) ∧
        (∀ j, j ≠ k → j ∈ svStackList h → u.solver j = { Solver.reset with phase := .reserved k }) ∧
        (∀ j, j ≠ k → j ∉ svStackList h → u.solver j = s.solver j) ∧ u.me.node.solving = some k ∧ u.me.v = s.me.v)

/-! ## Vector instructions -/

/-- R177 to R192, R196, R197: every vector instruction that computes its result from registers completes once its chain,
sources and charge pass: the result, with the tag and the elements or lanes that its row gives, goes to the latches and,
unless suppressed, to vd (R44); nothing else of the core or the machine differs. -/
def Obligations.VectorResultsComplete : Prop :=
  ∀ (i : Instr) (r : VRow) (s s1 : State), vRow i = some r → s.IssuesV i r.t s1 →
    srcChecks (r.srcs s.me) = .pass → s1.powerCheck (r.cost s.me) = .pass →
    ∃ u v, exec i s = .next u ∧ s.LeavesV u r.t (s.me.yieldV r.vd r.ws v) ∧ v.tag = BitVec.ofNat 4 (r.tag s.me) ∧
      match r.val with
      | .elems f => ∀ e, e < tagCount (r.tag s.me) → v.elem e = f s.me e % 2 ^ tagWidth (r.tag s.me)
      | .lanes f => ∀ n, n < 64 → v.lane n = f s.me n

/-- R44: a vector result moves each latch to the next place, enters lat0 as valid, and goes to its register unless its
write-back bit suppresses it. -/
def Obligations.LatchesShift : Prop :=
  ∀ (k : Core) (vd : BitVec 5) (ws : BitVec 1) (r : VReg),
    let u := k.yieldV vd ws r
    vget u.lat 0 Latch.cleared = ⟨r, true⟩ ∧ (∀ n, n < 3 → vget u.lat (n + 1) Latch.cleared = vget k.lat n Latch.cleared) ∧
    u.getV vd = (if ws = 1 then k.getV vd else r) ∧ (∀ x, x ≠ vd → u.getV x = k.getV x) ∧
    u = { k with v := u.v, lat := u.lat }

/-- R173, R174, R25: before anything else of its own, a vector instruction refuses its sources in operand order: a cleared
latch, then a source tagged POISON, with cause 0x05, then a tag outside the accepted set, with cause 0x04; TVAL holds the
operand's code in bits [11:8] and its tag in bits [3:0]; nothing is written. -/
def Obligations.VectorSourcesChecked : Prop :=
  ∀ (i : Instr) (r : VRow) (s s1 : State), vRow i = some r → s.IssuesV i r.t s1 → s.UserNode → s1.vInside = none →
    let l := r.srcs s.me
    (∀ e, l.find? (fun e => e.1.cleared) = some e →
      ∃ u, exec i s = .next u ∧
        s.EntersTrap u .V 0x05 (BitVec.ofNat 64 (e.1.code * 256 + e.1.val.tag.toNat)) (s.me.strand .V).pc) ∧
    (∀ e, (∀ x ∈ l, x.1.cleared = false) → l.find? (fun e => e.1.val.tag == 0xF) = some e →
      ∃ u, exec i s = .next u ∧
        s.EntersTrap u .V 0x05 (BitVec.ofNat 64 (e.1.code * 256 + 0xF)) (s.me.strand .V).pc) ∧
    (∀ e, (∀ x ∈ l, x.1.cleared = false ∧ x.1.val.tag ≠ 0xF) → l.find? (fun e => !e.2.contains e.1.val.tag.toNat) = some e →
      ∃ u, exec i s = .next u ∧
        s.EntersTrap u .V 0x04 (BitVec.ofNat 64 (e.1.code * 256 + e.1.val.tag.toNat)) (s.me.strand .V).pc)

/-- R187 and R186: `kand`, `kor`, `kxor` and `knot` combine whole masks bit by bit, and the compares write a bit for each
lane, every bit of the mask register being written; no vector result is yielded, so the latches stay, and nothing else
changes. k0 reads as all ones, also after any write of a mask. No word that names k0 as its destination decodes, so that it
is an illegal encoding (R43, R101). -/
def Obligations.MaskInstructionsComplete : Prop :=
  (∀ (i : Instr) (t : Tok) (kd : BitVec 3) (srcs : Core → List (Src × List Nat)) (cost : Core → Nat) (f : Core → Nat → Bool)
    (s s1 : State),
    kRow i = some (t, kd, srcs, cost, f) → s.IssuesV i t s1 → srcChecks (srcs s.me) = .pass →
    s1.powerCheck (cost s.me) = .pass →
    ∃ u w, exec i s = .next u ∧ s.LeavesV u t (s.me.setK kd w) ∧ ∀ n, n < 64 → w.getLsbD n = f s.me n) ∧
  (∀ k : Core, k.getK 0 = BitVec.allOnes 64 ∧ ∀ (n : BitVec 3) (w : Word), (k.setK n w).getK 0 = BitVec.allOnes 64) ∧
  (∀ (w : BitVec 32) (i : Instr), decode .V w = .ok i → ∀ r, kRow i = some r → r.2.1 ≠ 0)

/-- R193 to R195: a conversion of an accepted pair of tags and part gives each enabled element the converted value and every
other element zero bits; a RAW source is retagged lane for lane; `.sr` alone advances SRSEED; an enabled reserved T2 code
tags the result POISON. A pair, ratio or part that R193 and R194 refuse traps with cause 0x04, the part of
`vcvt` with the TVAL of R193 and not that of R174 (DESIGN CHOICE, log 101). -/
def Obligations.ConversionsComplete : Prop :=
  ∀ (i : Instr) (r : CvtRow) (s s1 : State), cvtRow i = some r → s.IssuesV i r.t s1 → r.dst.toNat < 14 →
    srcChecks [(r.src s.me, tagsAny)] = .pass →
    let a := (r.src s.me).val
    let g := a.tag.toNat
    let ratio := max (tagCount g) (tagCount r.dst.toNat) / min (tagCount g) (tagCount r.dst.toNat)
    let m := s.me.getK r.mask
    (g = 0 → r.part = 0 → s1.powerCheck (max (chargeOf 0) (chargeOf r.dst.toNat)) = .pass →
      ∃ u v, exec i s = .next u ∧ s.LeavesV u r.t (s.me.yieldV r.vd r.ws v) ∧ v.tag = r.dst ∧
        ∀ n, n < 64 → v.lane n = if laneOn m (if r.dst = 6 then n / 2 * 2 else n) then a.lane n else 0) ∧
    (g ≠ 0 → cvtPair g r.dst.toNat = true → ratio ≤ 4 → r.part < ratio →
      s1.powerCheck (max (chargeOf g) (chargeOf r.dst.toNat)) = .pass → cvtReserved m a r.dst.toNat r.part = false →
      ∃ u v, exec i s = .next u ∧
        s.LeavesV u r.t (Core.yieldV { s.me with srseed := r.seed s.me.srseed g } r.vd r.ws v) ∧ v.tag = r.dst ∧
        ∀ e, e < tagCount r.dst.toNat → v.elem e =
          if elemOn m r.dst.toNat e then r.elem s.me.srseed a e % 2 ^ tagWidth r.dst.toNat else 0) ∧
    (g ≠ 0 → cvtPair g r.dst.toNat = true → ratio ≤ 4 → r.part < ratio →
      s1.powerCheck (max (chargeOf g) (chargeOf r.dst.toNat)) = .pass → cvtReserved m a r.dst.toNat r.part = true →
      ∃ u, exec i s = .next u ∧ s.Retired u .V r.t ((loopBack (s.me.strand .V).pc s.me.loops).1.getD ((s.me.strand .V).pc + 4)) ∧
        (r.ws = 0 → (u.me.getV r.vd).tag = 0xF) ∧ (∀ x, x ≠ r.vd → u.me.getV x = s.me.getV x) ∧ u.me.psna = s.me.psna) ∧
    (s.UserNode → s1.vInside = none →
      (if g = 0 then r.part ≠ 0 else cvtPair g r.dst.toNat = false ∨ 4 < ratio ∨ ratio ≤ r.part) →
      ∃ u, exec i s = .next u ∧
        s.EntersTrap u .V 0x04 (BitVec.ofNat 64 ((r.src s.me).code * 256 + g)) (s.me.strand .V).pc)

/-- R198, R199, R201: `vld` and `vgath` give each enabled lane the little-endian word at its offset, under the named tag, and
every disabled lane zero bits; a poisoned sector, or a reserved code under T2, tags the result POISON instead and puts the
byte's offset into PSNA, of a poisoned sector that of a byte which the load reads (DESIGN CHOICE, log 96), unless the M strand
has set PSNA in the same cycle (R176); an offset of an enabled lane past the scratchpad's end traps with cause 0x06. R199,
R201, R204: `vst` and `vscat` write the bytes of each enabled lane at its offset, a higher lane's over a lower one's, leave
every other byte of the window as it was, and write no memory and no register. -/
def Obligations.ScratchpadAccessesComplete : Prop :=
  (∀ (i : Instr) (r : SpLoad) (s s1 : State), spLoad i = some r → s.IssuesV i r.t s1 →
    srcChecks [(r.src s.me, tagsWord)] = .pass → s1.powerCheck 30 = .pass →
    let off := r.at_ (r.src s.me).val
    let m := s.me.getK r.mask
    (spFits m r.base r.align off →
      (∀ n, n < 64 → laneOn m n = true → ∀ j, j < 4 → (off n + j) / 16 ∉ s.me.winPoison ∧
        (r.tag = 12 → t2Reserved (s.me.window.read (off n + j)) = false)) →
      ∃ u v, exec i s = .next u ∧ s.LeavesV u r.t (s.me.yieldV r.vd r.ws v) ∧ v.tag = r.tag ∧
        ∀ n, n < 64 → v.lane n = if laneOn m n then BitVec.ofNat 32 (s.me.window.readNat (off n) 4) else 0) ∧
    (spFits m r.base r.align off →
      (∃ n j, n < 64 ∧ laneOn m n = true ∧ j < 4 ∧ ((off n + j) / 16 ∈ s.me.winPoison ∨
        r.tag = 12 ∧ t2Reserved (s.me.window.read (off n + j)) = true)) →
      ∃ u n j, exec i s = .next u ∧ n < 64 ∧ laneOn m n = true ∧ j < 4 ∧
        s.Retired u .V r.t ((loopBack (s.me.strand .V).pc s.me.loops).1.getD ((s.me.strand .V).pc + 4)) ∧
        (r.ws = 0 → (u.me.getV r.vd).tag = 0xF) ∧ (∀ x, x ≠ r.vd → u.me.getV x = s.me.getV x) ∧
        (s.me.now.mPoison = false → u.me.psna = BitVec.ofNat 64 (off n + j) ∧ u.me.psns = 1 ∧ u.me.psnv = true) ∧
        (s.me.now.mPoison = true → u.me.psna = s.me.psna ∧ u.me.psns = s.me.psns ∧ u.me.psnv = s.me.psnv) ∧
        ((off n + j) / 16 ∈ s.me.winPoison ∨ r.tag = 12 ∧ t2Reserved (s.me.window.read (off n + j)) = true)) ∧
    (s.UserNode → s1.vInside = none → (r.base = true → off 0 % r.align = 0) →
      (∀ n, n < 64 → laneOn m n = true → r.base = false → off n % r.align = 0) →
      ∀ n, n < 64 → laneOn m n = true → 0x80000 < off n + 4 →
      (∀ x, x < n → laneOn m x = true → off x + 4 ≤ 0x80000) →
      ∃ u, exec i s = .next u ∧ s.EntersTrap u .V 0x06 (BitVec.ofNat 64 (off n)) (s.me.strand .V).pc)) ∧
  (∀ (i : Instr) (r : SpStore) (s s1 : State), spStore i = some r → s.IssuesV i r.t s1 →
    srcChecks [(r.addr s.me, tagsWord), (r.data s.me, tagsAny)] = .pass → s1.powerCheck 30 = .pass →
    let off := r.at_ (r.addr s.me).val
    let m := s.me.getK r.mask
    spFits m r.base r.align off →
    ∃ u, exec i s = .next u ∧
      s.LeavesV u r.t { s.me with window := u.me.window, winPoison := u.me.winPoison } ∧
      (∀ a, (∀ n, n < 64 → laneOn m n = true → a < off n ∨ off n + 4 ≤ a) → u.me.window.read a = s.me.window.read a) ∧
      (∀ n j, n < 64 → laneOn m n = true → j < 4 → (∀ x, n < x → x < 64 → laneOn m x = true → off x ≠ off n) →
        u.me.window.read (off n + j) = ((r.data s.me).val.lane n).extractLsb' (8 * j) 8))

/-- R200, R420: `vldm` gives each enabled lane the word at its virtual address, read as the S strand's loads read, lines that
the host holds having been recalled, under the named tag; where the host holds no line, no byte of memory differs. R200,
R143: `vstm` over device memory that the range maps in one run writes the enabled lanes' bytes there: into the node's staged
bytes in a STAGED range, memory keeping every byte; into memory at once in a DIRECT range, which pins the node, every other
byte staying but those of a touched line that the host held and gives back. A disabled lane's bytes are not written. -/
def Obligations.VectorDeviceAccessesComplete : Prop :=
  (∀ (t : Tok) (vd va : BitVec 5) (g : BitVec 4) (ws : BitVec 1) (mask : BitVec 3) (ls : BitVec 1) (s s1 : State)
    (place : Nat → Place),
    s.IssuesV (.vldm t vd va g ws mask ls) t s1 → srcChecks [(s.me.va1 va ls, tagsWord)] = .pass →
    s1.powerCheck 90 = .pass →
    let a : Word := ((s.me.va1 va ls).val.lane 1) ++ ((s.me.va1 va ls).val.lane 0)
    let m := s.me.getK mask
    a.toNat % 16 = 0 →
    (∀ n, n < 64 → laneOn m n = true → ∃ d, s1.locate needR (laneVirt a n) = .ok { place := place n, direct := d }) →
    let b := s1.askPlaces s1.core ((lanesOn m).map place)
    (∀ n, n < 64 → laneOn m n = true → s1.accessWaits (place n) = false ∧ s1.hostGone (place n) = false ∧
      ∀ j, j < 4 → b.placePoison b.core (place n) j = false ∧ (g = 12 → t2Reserved (b.placeByte b.core (place n) j) = false)) →
    ∃ u v, exec (.vldm t vd va g ws mask ls) s = .next u ∧
      s.Retired u .V t ((loopBack (s.me.strand .V).pc s.me.loops).1.getD ((s.me.strand .V).pc + 4)) ∧ b.SameStore u ∧
      (s.hostDir = [] → s.SameStore u) ∧ (ws = 0 → u.me.getV vd = v) ∧ (∀ x, x ≠ vd ∨ ws = 1 → u.me.getV x = s.me.getV x) ∧ u.me.x = s.me.x ∧ v.tag = g ∧
      ∀ n, n < 64 → v.lane n = if laneOn m n then
        BitVec.ofNat 32 (leNat ((List.range 4).map (fun j => b.placeByte b.core (place n) j))) else 0) ∧
  (∀ (t : Tok) (va vb : BitVec 5) (mask : BitVec 3) (ls : BitVec 2) (s s1 : State) (pa : Nat) (d : Bool),
    s.IssuesV (.vstm t va vb mask ls) t s1 → srcChecks [(s.me.va va ls, tagsWord), (s.me.vb vb ls, tagsAny)] = .pass →
    s1.powerCheck 90 = .pass →
    let a : Word := ((s.me.va va ls).val.lane 1) ++ ((s.me.va va ls).val.lane 0)
    let m := s.me.getK mask
    s1.vmemCheck needW a m = .pass → pa % 16 = 0 →
    (∀ n, n < 64 → (∃ x, x / 4 = n / 4 ∧ laneOn m x = true) →
      s1.locate needW (laneVirt a n) = .ok { place := .dram (pa + 4 * n), direct := d } ∧
      s1.accessWaits (.dram (pa + 4 * n)) = false) →
    ∃ u, exec (.vstm t va vb mask ls) s = .next u ∧
      s.Retired u .V t ((loopBack (s.me.strand .V).pc s.me.loops).1.getD ((s.me.strand .V).pc + 4)) ∧ u.me.v = s.me.v ∧
      u.me.x = s.me.x ∧ (∀ k, u.me.window.read k = s.me.window.read k) ∧
      (let written (k : Nat) : Prop := pa ≤ k ∧ k < pa + 256 ∧ laneOn m ((k - pa) / 4) = true
       let byte (k : Nat) : Byte := ((s.me.vb vb ls).val.lane ((k - pa) / 4)).extractLsb' (8 * ((k - pa) % 4)) 8
       (d = false → (∀ k, u.mem.read k = s.mem.read k) ∧ u.me.node.pinned = s.me.node.pinned ∧
         ∀ k, (written k → u.nodeByte s.core k = byte k) ∧ (¬ written k → u.nodeByte s.core k = s.nodeByte s.core k)) ∧
       (d = true → lanesOn m ≠ [] → u.me.node.pinned = true ∧
         ∀ k, (written k → u.mem.read k = byte k) ∧
           (¬ written k → (∀ h ∈ s.hostDir, h.line ∈ linesOf pa 256 → h.line ≠ k / 128) → u.mem.read k = s.mem.read k))))

/-- R18, R19, R23, R202: `vldf` of an MX code gives each enabled element scale × value, rounded once into F32 or BF16; of a
Q8 code the palette's entry times the maximum, rounded into F32, and for BF16 rounded again; a disabled lane receives zero
bits. R20, R203: `vstf` writes the encoded element bytes at LANE(va, 0) and the scale bytes at LANE(va, 1), every other byte
of the window staying; an element of a disabled lane enters the encoding as zero. -/
def Obligations.StorageFormatsConvert : Prop :=
  (∀ (t : Tok) (vd va code : BitVec 5) (ws : BitVec 1) (mask : BitVec 3) (ls : BitVec 1) (s s1 : State),
    s.IssuesV (.vldf t vd va code ws mask ls) t s1 → (Instr.vldf t vd va code ws mask ls).wellFormed = true →
    srcChecks [(s.me.va1 va ls, tagsWord)] = .pass → s1.powerCheck 30 = .pass →
    let c := code.toNat % 16
    let bf := decide (16 ≤ code.toNat)
    let o := ((s.me.va1 va ls).val.lane 0).toNat
    let sc := ((s.me.va1 va ls).val.lane 1).toNat
    let m := s.me.getK mask
    let g := if bf then 8 else 7
    let f := if bf then Fmt.bf16 else Fmt.f32
    o % 16 = 0 →
    (c < 8 → spRange (mxSpans c bf m o sc) = .pass →
      (∀ e ∈ mxSpans c bf m o sc, ∀ j, j < e.2 → (e.1 + j) / 16 ∉ s.me.winPoison) →
      (∀ b ∈ mxBlocks (mxElems bf m), ∀ p ∈ mxPadding c b, s.me.window.read (o + p) = 0) →
      ∃ u v, exec (.vldf t vd va code ws mask ls) s = .next u ∧ s.LeavesV u t (s.me.yieldV vd ws v) ∧
        v.tag = BitVec.ofNat 4 g ∧ ∀ e, e < tagCount g → v.elem e = if elemOn m g e then
          f.round .rne ((e8m0 (s.me.window.read (sc + e / 32)).toNat).mul (mxValue c (mxElement s.me.window c o e)))
            % 2 ^ tagWidth g else 0) ∧
    (8 ≤ c → sc % 4 = 0 → spRange (q8Spans bf m o sc) = .pass →
      (∀ e ∈ q8Spans bf m o sc, ∀ j, j < e.2 → (e.1 + j) / 16 ∉ s.me.winPoison) →
      (s.me.getPal (c - 8)).valid = true → (s.me.getPal (c - 8)).checking = false →
      badMax (s.me.window.readNat sc 4) = false →
      ∃ u v, exec (.vldf t vd va code ws mask ls) s = .next u ∧ s.LeavesV u t (s.me.yieldV vd ws v) ∧
        v.tag = BitVec.ofNat 4 g ∧ ∀ e, e < tagCount g → v.elem e = if elemOn m g e then
          (let q := Fmt.f32.round .rne ((Fmt.f32.decode (vget (s.me.getPal (c - 8)).entries (s.me.window.read (o + e)).toNat 0).toNat).mul
             (Fmt.f32.decode (s.me.window.readNat sc 4)))
           if bf then Fmt.bf16.round .rne (Fmt.f32.decode q) else q) % 2 ^ tagWidth g else 0)) ∧
  (∀ (t : Tok) (code : BitVec 4) (va vb : BitVec 5) (mask : BitVec 3) (ls : BitVec 2) (s s1 : State),
    s.IssuesV (.vstf t code va vb mask ls) t s1 → (Instr.vstf t code va vb mask ls).wellFormed = true →
    srcChecks [(s.me.va va ls, tagsWord), (s.me.vb vb ls, [7, 8])] = .pass → s1.powerCheck 30 = .pass →
    let v := (s.me.vb vb ls).val
    let o := ((s.me.va va ls).val.lane 0).toNat
    let sc := ((s.me.va va ls).val.lane 1).toNat
    let m := s.me.getK mask
    let blocks := tagCount v.tag.toNat / 32
    spRange (mxSpans code.toNat (v.tag == 8) (-1) o sc) = .pass →
    (o + mxStride code.toNat * blocks ≤ sc ∨ sc + blocks ≤ o) →
    ∃ u, exec (.vstf t code va vb mask ls) s = .next u ∧
      s.LeavesV u t { s.me with window := u.me.window, winPoison := u.me.winPoison } ∧
      (∀ b, b < blocks →
        let enc := mxEncode code.toNat (fun _ => .rne) ((List.range 32).map (fun n =>
          if elemOn m v.tag.toNat (32 * b + n) then tagValue v.tag.toNat (v.elem (32 * b + n)) else FVal.zero))
        u.me.window.read (sc + b) = BitVec.ofNat 8 enc.1 ∧
        u.me.window.readBytes (o + mxStride code.toNat * b) (mxStride code.toNat) = mxPack code.toNat enc.2) ∧
      (∀ a, (a < o ∨ o + mxStride code.toNat * blocks ≤ a) → (a < sc ∨ sc + blocks ≤ a) →
        u.me.window.read a = s.me.window.read a))

/-- R23, R207: `vpal` copies 1,024 bytes of the scratchpad into its palette, which is invalid while its check runs; the end of
the check makes it valid exactly when its entries are finite and strictly ascending. -/
def Obligations.PalettesLoad : Prop :=
  (∀ (t : Tok) (va : BitVec 5) (pal : BitVec 1) (ls : BitVec 1) (s s1 : State),
    s.IssuesV (.vpal t va pal ls) t s1 → srcChecks [(s.me.va1 va ls, tagsWord)] = .pass → s1.powerCheck 120 = .pass →
    let o := ((s.me.va1 va ls).val.lane 0).toNat
    o % 128 = 0 → o + 1024 ≤ 0x80000 → (∀ j, j < 1024 → (o + j) / 16 ∉ s.me.winPoison) →
    ∃ u, exec (.vpal t va pal ls) s = .next u ∧ s.LeavesV u t { s.me with pals := u.me.pals } ∧
      (u.me.getPal pal.toNat).valid = false ∧ (u.me.getPal pal.toNat).checking = true ∧
      (∀ n, n < 256 → vget (u.me.getPal pal.toNat).entries n 0 = BitVec.ofNat 32 (s.me.window.readNat (o + 4 * n) 4)) ∧
      u.me.getPal (1 - pal.toNat) = s.me.getPal (1 - pal.toNat)) ∧
  (∀ (s : State) (c : Nat), ∃ u, exec (.paletteCheckEnd c) s = .next u ∧
    ∀ n, n < 2 → ((s.coreAt c).getPal n).checking = true →
      ((u.coreAt c).getPal n).checking = false ∧ ((u.coreAt c).getPal n).entries = ((s.coreAt c).getPal n).entries ∧
      (((u.coreAt c).getPal n).valid = true ↔
        (∀ e, e < 256 → (Fmt.f32.decode (vget ((s.coreAt c).getPal n).entries e 0).toNat).isFin = true) ∧
        ∀ e, e < 255 → (Fmt.f32.decode (vget ((s.coreAt c).getPal n).entries e 0).toNat).lt
          (Fmt.f32.decode (vget ((s.coreAt c).getPal n).entries (e + 1) 0).toNat) = true))

/-- R24, R209: `vqenc` through a valid palette and maximum gives elements 0 to 63 the codes of the enabled lanes, 0 for a
disabled one, and elements 64 to 255 zero, under tag Q8; an infinite or NaN element, or an invalid palette or maximum, tags
the result POISON. R208: `vadam` on a group whose first register is a multiple of 4 gives the enabled lanes of vd, vd + 1
and vd + 2 the new parameter, m and v, keeps vd's disabled lanes, and raises the running maxima in lanes 11 and 12 of vd +
3, whose other lanes stay; another vd traps with cause 0x01 and TVAL 0. R39, R205, R206: `vovf` sets VSTAT.OVF when an
enabled element is infinite or NaN and never clears it; `vlsc` takes the step of the loss scale, or traps with cause 0x0D
(TVAL is a free value, log 6) at the eighth overflow at the floor. -/
def Obligations.OptimizerHelpersComplete : Prop :=
  (∀ (i : Instr) (n : Nat) (t : Tok) (vd va vb : BitVec 5) (ws : BitVec 1) (mask : BitVec 3) (ls : BitVec 2) (s s1 : State),
    (i = .vqenc t vd va vb ws mask ls ∧ n = 0 ∨ i = .vqencPal1 t vd va vb ws mask ls ∧ n = 1) →
    s.IssuesV i t s1 → srcChecks [(s.me.va va ls, [7]), (s.me.vb vb ls, [7])] = .pass → s1.powerCheck 150 = .pass →
    (s.me.getPal n).checking = false →
    let a := (s.me.va va ls).val
    let x := ((s.me.vb vb ls).val.lane 0).toNat
    let bad : Prop := (s.me.getPal n).valid = false ∨ badMax x = true ∨
      ∃ e, e < 64 ∧ laneOn (s.me.getK mask) e = true ∧ (Fmt.f32.decode (a.elem e)).isFin = false
    (¬ bad → ∃ u v, exec i s = .next u ∧ s.LeavesV u t (s.me.yieldV vd ws v) ∧ v.tag = 13 ∧
      ∀ e, e < 256 → v.elem e = if e < 64 ∧ laneOn (s.me.getK mask) e then q8Encode (s.me.getPal n) x (a.elem e) % 256 else 0) ∧
    (bad → ∃ u, exec i s = .next u ∧
      s.Retired u .V t ((loopBack (s.me.strand .V).pc s.me.loops).1.getD ((s.me.strand .V).pc + 4)) ∧
      (ws = 0 → (u.me.getV vd).tag = 0xF) ∧ (∀ r, r ≠ vd → u.me.getV r = s.me.getV r) ∧ u.me.psna = s.me.psna)) ∧
  (∀ (t : Tok) (vd va vb : BitVec 5) (mask : BitVec 3) (ls : BitVec 2) (s s1 : State),
    s.IssuesV (.vadam t vd va vb mask ls) t s1 →
    srcChecks [(s.me.va va ls, [7]), (s.me.vb vb ls, [13]), (⟨s.me.getV vd, 0, false⟩, [7]),
      (⟨s.me.getV (groupReg vd 3), 3, false⟩, [7])] = .pass →
    (vd.toNat % 4 = 0 → s1.powerCheck 150 = .pass → (s.me.getPal 0).checking = false → (s.me.getPal 1).checking = false →
      (s.me.getPal 0).valid = true → (s.me.getPal 1).valid = true →
      badMax ((s.me.getV (groupReg vd 3)).lane 9).toNat = false → badMax ((s.me.getV (groupReg vd 3)).lane 10).toNat = false →
      let m := s.me.getK mask
      let h := s.me.getV (groupReg vd 3)
      let out (n : Nat) : Nat × Nat × Nat := adamLane (fun j => (h.lane j).toNat)
        (Fmt.f32.round .rne ((Fmt.f32.decode (vget (s.me.getPal 0).entries ((s.me.vb vb ls).val.elem n) 0).toNat).mul
          (Fmt.f32.decode (h.lane 9).toNat)))
        (Fmt.f32.round .rne ((Fmt.f32.decode (vget (s.me.getPal 1).entries ((s.me.vb vb ls).val.elem (64 + n)) 0).toNat).mul
          (Fmt.f32.decode (h.lane 10).toNat)))
        ((s.me.va va ls).val.lane n).toNat ((s.me.getV vd).lane n).toNat
      ∃ u, exec (.vadam t vd va vb mask ls) s = .next u ∧
        s.LeavesV u t { s.me with v := u.me.v, lat := u.me.lat } ∧
        (∀ n, n < 64 →
          (u.me.getV vd).lane n = (if laneOn m n then BitVec.ofNat 32 (out n).1 else (s.me.getV vd).lane n) ∧
          (u.me.getV (groupReg vd 1)).lane n = (if laneOn m n then BitVec.ofNat 32 (out n).2.1 else 0) ∧
          (u.me.getV (groupReg vd 2)).lane n = (if laneOn m n then BitVec.ofNat 32 (out n).2.2 else 0) ∧
          (n ≠ 11 → n ≠ 12 → (u.me.getV (groupReg vd 3)).lane n = h.lane n)) ∧
        (u.me.getV (groupReg vd 3)).lane 11 = BitVec.ofNat 32 (maxAbs ((lanesOn m).map (fun n => (out n).2.1)) (h.lane 11).toNat) ∧
        (u.me.getV (groupReg vd 3)).lane 12 = BitVec.ofNat 32 (maxAbs ((lanesOn m).map (fun n => (out n).2.2)) (h.lane 12).toNat) ∧
        (∀ r, r.toNat / 4 ≠ vd.toNat / 4 → u.me.getV r = s.me.getV r)) ∧
    (vd.toNat % 4 ≠ 0 → s.UserNode → s1.vInside = none →
      ∃ u, exec (.vadam t vd va vb mask ls) s = .next u ∧ s.EntersTrap u .V 0x01 0 (s.me.strand .V).pc)) ∧
  ((∀ (t : Tok) (va : BitVec 5) (mask : BitVec 3) (ls : BitVec 1) (s s1 : State),
    s.IssuesV (.vovf t va mask ls) t s1 → srcChecks [(s.me.va1 va ls, [6, 7, 8, 9, 10, 11])] = .pass →
    s1.powerCheck (chargeOf (s.me.va1 va ls).tag) = .pass →
    ∃ u, exec (.vovf t va mask ls) s = .next u ∧ s.LeavesV u t { s.me with ovf := u.me.ovf } ∧
      (u.me.ovf = true ↔ s.me.ovf = true ∨ ∃ e, e < tagCount (s.me.va1 va ls).tag ∧
        elemOn (s.me.getK mask) (s.me.va1 va ls).tag e = true ∧
        (tagValue (s.me.va1 va ls).tag ((s.me.va1 va ls).val.elem e)).isFin = false)) ∧
  (∀ (t : Tok) (s s1 : State), s.IssuesV (.vlsc t) t s1 →
    (∀ w, lscStep s.me.lsc s.me.ovf = some w → s1.powerCheck 20 = .pass →
      ∃ u, exec (.vlsc t) s = .next u ∧ s.LeavesV u t { s.me with lsc := w }) ∧
    (lscStep s.me.lsc s.me.ovf = none → s.UserNode → s1.vInside = none →
      ∃ u, exec (.vlsc t) s = .next u ∧ s.EntersTrap u .V 0x0D s.freeVal (s.me.strand .V).pc)) ∧
  (∀ (lsc : Word), lscStep lsc true = none ↔
    ¬ ((lsc.extractLsb' 8 8).toInt < min (max (lsc.extractLsb' 0 8).toInt (lsc.extractLsb' 8 8).toInt)
        (max (lsc.extractLsb' 8 8).toInt (lsc.extractLsb' 16 8).toInt)) ∧ lsc.extractLsb' 60 3 = 7))

/-- R116, R210, R211: `vloop` clears the latches and makes a loop of its body, which starts at the next word; a third loop, or
a body past the section's end, traps with cause 0x01. A retired instruction that ends a body with passes left sends the strand
back to the body's first word. `nend` ends the strand, and with it
every loop (DESIGN CHOICE, log 98). DEDUCED (log 38): a finished inner loop gives way to an outer one that
ends at the same word. DESIGN CHOICE (log 98): a loop that is not the innermost goes back in no other case. -/
def Obligations.LoopsAndStreamEnd : Prop :=
  (∀ (t : Tok) (count1 : BitVec 10) (len1 : BitVec 11) (s s1 : State), s.IssuesV (.vloop t count1 len1) t s1 →
    let pc := (s.me.strand .V).pc
    let past : Prop := (s.me.strand .V).secBase + (s.me.strand .V).secLen < pc.toNat + 4 * (len1.toNat + 2)
    (s.me.loops.length < 2 → ¬ past →
      ∃ u, exec (.vloop t count1 len1) s = .next u ∧
        s.Leaves u .V t (pc + 4) { s.me with
          lat := u.me.lat, chain := u.me.chain, loops := ⟨pc + 4, pc + 4 * (len1.setWidth 64 + 1), count1.toNat + 1⟩ :: s.me.loops } ∧
        ∀ n, n < 4 → (vget u.me.lat n ⟨VReg.zero, true⟩).valid = false) ∧
    (2 ≤ s.me.loops.length ∨ past → s.UserNode → s1.vInside = none →
      ∃ u, exec (.vloop t count1 len1) s = .next u ∧
        s.EntersTrap u .V 0x01 ((encode (.vloop t count1 len1)).setWidth 64) pc)) ∧
  (∀ (t : Tok) (s s1 : State), s.IssuesV (.nendV t) t s1 →
    ∃ u, exec (.nendV t) s = .next u ∧ s.Leaves u .V t ((s.me.strand .V).pc + 4) { s.me with chain := u.me.chain, loops := [] } ∧
      (t.push = 0 → (u.me.strand .V).cond = .ended)) ∧
  (∀ (pc : Word) (l : Loop) (rest : List Loop), l.last = pc → 1 < l.left →
    loopBack pc (l :: rest) = (some l.first, { l with left := l.left - 1 } :: rest)) ∧
  (∀ (pc : Word) (l : Loop) (rest : List Loop), l.last = pc → l.left ≤ 1 → loopBack pc (l :: rest) = loopBack pc rest) ∧
  (∀ (pc : Word) (l : Loop) (rest : List Loop), l.last ≠ pc → loopBack pc (l :: rest) = (none, l :: rest))

/-! ## Matrix instructions -/

/-- R212, R213: an M instruction whose path has room, that nothing earlier holds back and whose checks pass, issues into its
path with what it captures; its effect, its push and its retirement come later. A full path or an earlier instruction that
holds it back stalls the strand. -/
def Obligations.MatrixInstructionsQueue : Prop :=
  ∀ (i : Instr) (r : MRow) (s s1 : State), mRow i = some r → s.Issues .M r.t s1 →
    (s1.me.mWait i r.path = .pass → r.chk s1 = .pass →
      ∃ u, exec i s = .next u ∧ s.QueuesM u i r.t r.path (r.regs s.me) (r.now s.me)) ∧
    (s1.me.mWait i r.path ≠ .pass →
      ∃ u, exec i s = .next u ∧ (u.me.strand .M).cond = .queueFull ∧ (u.me.strand .M).pc = (s.me.strand .M).pc ∧
        u.me.mq = s.me.mq)

/-- R212, R216, R221, R227, R229 to R233, R237, R238: the first check of an M instruction that fails traps with its cause and
value (a free value for cause 0x0B, log 6), and nothing is queued; and the checks of a product on its tile and live plane come
in the order of R227: POISON tile, POISON plane, plane format, tile kind. -/
def Obligations.MatrixChecksTrap : Prop :=
  (∀ (i : Instr) (r : MRow) (s s1 : State), mRow i = some r → s.Issues .M r.t s1 → s.UserNode →
    s1.me.mWait i r.path = .pass →
    (∀ c v, r.chk s1 = .trap c v → ∃ u, exec i s = .next u ∧ s.EntersTrap u .M c v (s.me.strand .M).pc ∧ u.me.mq = s.me.mq) ∧
    (∀ c, r.chk s1 = .trapOpen c →
      ∃ u, exec i s = .next u ∧ s.EntersTrap u .M c s.freeVal (s.me.strand .M).pc ∧ u.me.mq = s.me.mq)) ∧
  ∀ (s : State) (form : MmForm) (tile : BitVec 3) (pa pb : BitVec 4) (f : Nat),
    let x := s.me.getTile tile
    let l := s.me.live
    (x.tag = 0xF → s.mmCheck form tile pa pb f = .trap 0x05 0x00F) ∧
    (x.tag ≠ 0xF → l.tag = 0xF → s.mmCheck form tile pa pb f = .trap 0x05 0x10F) ∧
    (x.tag ≠ 0xF → l.tag ≠ 0xF → l.tag.toNat ∉ mmPlanes f →
      s.mmCheck form tile pa pb f = .trap 0x04 (BitVec.ofNat 64 (0x100 + l.tag.toNat))) ∧
    (x.tag ≠ 0xF → l.tag ≠ 0xF → l.tag.toNat ∈ mmPlanes f → x.tag ≠ mmKind f → (∃ i j, i < 64 ∧ j < 64 ∧ x.word i j ≠ 0) →
      s.mmCheck form tile pa pb f = .trap 0x04 (BitVec.ofNat 64 x.tag.toNat)) ∧
    (x.tag ≠ 0xF → l.tag ≠ 0xF → l.tag.toNat ∈ mmPlanes f → (x.tag = mmKind f ∨ ∀ i j, i < 64 → j < 64 → x.word i j = 0) →
      s.me.bands &&& ~~~(bandsAdmitted s.me.grant.toNat) ≠ 0 → s.mmCheck form tile pa pb f = .trapOpen 0x0B)

/-- R213, R224, R240, R274: the parameter and loop instructions and `mband` act at issue; with no earlier M instruction
unretired they retire at once, else they keep their place in the order of retirement. `mlds` loads a word of the scratchpad at
an offset that is a multiple of 4. R234, R235: `mbind` of a record that passes its checks binds the handle at issue: the
record, its stroke words and, under ALT, its alternate words, lines of them that the host holds recalled first (R420); it
retires in its place, and nothing but the trace records that EVMASK asks for differs besides (R461). DEDUCED from R213, R290
and R293 (log 40): both read memory at issue, and so they wait until every earlier instruction has taken effect. R241: `nend`
of the M strand waits until every earlier M instruction has retired, then retires and ends the strand. -/
def Obligations.MatrixParametersComplete : Prop :=
  ((∀ (i : Instr) (t : Tok) (f : Core → Core) (next : Core → Word) (s s1 : State), mParam i = some (t, f, next) →
    s.Issues .M t s1 → s1.me.mWait i .order = .pass →
    (s.me.mq = [] → ∃ u, exec i s = .next u ∧ s.Leaves u .M t (next s.me) (f s.me)) ∧
    (s.me.mq ≠ [] → ∃ u e, exec i s = .next u ∧ e.path = .order ∧ e.instr = i ∧ e.push = t.push ∧
      u.me = { f s.me with tk := u.me.tk, strands := u.me.strands, mq := s.me.mq ++ [e],
                           now := { (f s.me).now with popped := u.me.now.popped } } ∧
      (u.me.strand .M).pc = next s.me ∧ s.OnlyCore u)) ∧
  (∀ (t : Tok) (pd pa : BitVec 4) (imm : BitVec 14) (s s1 : State), s.Issues .M t s1 →
    s1.me.mWait (.mlds t pd pa imm) .order = .pass →
    let a := (s.me.getP pa + 4 * imm.signExtend 32).toNat
    (a % 4 = 0 → a + 4 ≤ 0x80000 → a / 16 ∉ s.me.winPoison → s.me.mq = [] →
      ∃ u, exec (.mlds t pd pa imm) s = .next u ∧
        s.Leaves u .M t ((s.me.strand .M).pc + 4) (s.me.setP pd (BitVec.ofNat 32 (s.me.window.readNat a 4)))) ∧
    (s.UserNode → a % 4 ≠ 0 →
      ∃ u, exec (.mlds t pd pa imm) s = .next u ∧ s.EntersTrap u .M 0x08 (BitVec.ofNat 64 a) (s.me.strand .M).pc))) ∧
  (∀ (t : Tok) (h : BitVec 2) (pa : BitVec 4) (s s1 : State),
    let reads := s.mbindReads (.mbind t h pa) t pa
    let a := s.recallWords s.core reads
    s.wordsWait s.core reads = false → s.wordsLost s.core reads = none → a.Issues .M t s1 →
    s1.me.mWait (.mbind t h pa) .array = .pass → s1.mbindCheck pa = .pass →
    let r := s.me.window.readBytes ((s.me.getP pa).toNat % 2 ^ 19) 128
    (s.hostDir = [] → a = { s with sent := a.sent, ports := a.ports, onPort := a.onPort }) ∧
    ∃ u w, exec (.mbind t h pa) s = .next u ∧ u.me = w.me ∧
      ((s.part s.me.node.part).tel.evmask.getLsbD 1 = false → u = w) ∧
      a.QueuesM w (.mbind t h pa) t .order [] { a.me with handles := vset a.me.handles h.toNat (Handle.mk true r
        (s1.strokeWords s.core (cvMain r) (cvLen r))
        (if cvDiag r = 2 then s1.strokeWords s.core (cvAlt r) (cvAltLen r) else [])) }) ∧
  (∀ (k : Core) (i : Instr) (p : Path), mAlone i = true →
    (k.mWait i p = .pass ↔ k.pathRoom p = true ∧ ∀ e ∈ k.mq, e.path = .order)) ∧
  (∀ (t : Tok) (s s1 : State), s.Issues .M t s1 →
    (s.me.mq = [] → ∃ u, exec (.nendM t) s = .next u ∧ s.Leaves u .M t ((s.me.strand .M).pc + 4) s.me ∧
      (t.push = 0 → (u.me.strand .M).cond = .ended)) ∧
    (s.me.mq ≠ [] → ∃ u, exec (.nendM t) s = .next u ∧ (u.me.strand .M).cond = .fence ∧
      (u.me.strand .M).pc = (s.me.strand .M).pc))

/-- R225, R226, R33, R34: when a product's turn comes, each word of its first n rows takes the sum over the enabled bands'
positions: I8 streams add to an I32 word, saturating once; float streams sum in FP32 in order of position, rounding each step,
and add to an F32 word, rounding once. R229: a product with a constant matrix sums the plane's values at the positions where the
matrix holds 1, by the kind of the plane. R237: an implicit product sums entry times plane value over the entries that lie in
the canvas and in an enabled band, each entry under its policy and rounded to the plane's format or split into its part. In each
of these the tile takes the product's kind, and every other row, tile and byte of the window stays. R238: `mimv` reads every
right-hand side first, sums entry times word in FP32, one rounding a step, and writes the results of the rows that lie in the
canvas; no tile and no other byte of the window differs. -/
def Obligations.ProductsTakeEffect : Prop :=
  (∀ (s : State) (c : Nat) (e : MEntry) (form : MmForm) (t : BitVec 3) (f : Nat), mmRow e.instr = some (form, t, f) →
    s.MTurn c .array e → f < 5 →
    let k := s.coreAt c
    let n := e.r1.toNat % 64 + 1
    let w := if f < 2 then 2 else 1
    let qs := (List.range 64).filter (fun q => e.bands.getLsbD (q / 16))
    (∀ i q j, i < n → q ∈ qs → j < w → (streamAt form e w i q + j) / 16 ∉ k.winPoison) →
    ∃ u, exec (.mPathRetire c false) s = .next u ∧
      (f = 4 → ((u.coreAt c).getTile t).tag = 1 ∧ ∀ i j, i < 64 → j < 64 → ((u.coreAt c).getTile t).word i j =
        if i < n then BitVec.ofInt 32 (max (-(2 ^ 31)) (min (2 ^ 31 - 1) (((k.getTile t).word i j).toInt
          + (qs.map (fun q => (BitVec.ofNat 8 (k.window.readNat (streamAt form e w i q) 1)).toInt
              * planeInt k.live.tag (sideAt form k.live q j))).sum))) else (k.getTile t).word i j) ∧
      (f < 4 → ((u.coreAt c).getTile t).tag = 7 ∧ ∀ i j, i < 64 → j < 64 → ((u.coreAt c).getTile t).word i j =
        if i < n then BitVec.ofNat 32 (Fmt.f32.round .rne ((Fmt.f32.decode ((k.getTile t).word i j).toNat).add (Fmt.f32.decode
          (qs.foldl (fun a q => Fmt.f32.round .rne (((tagValue (mmTag f) (k.window.readNat (streamAt form e w i q) w)).mul
            (tagValue k.live.tag.toNat (sideAt form k.live q j))).add (Fmt.f32.decode a))) 0)))) else (k.getTile t).word i j) ∧
      (∀ x, x ≠ t → (u.coreAt c).getTile x = k.getTile x) ∧ (u.coreAt c).window = k.window ∧ (u.coreAt c).live = k.live) ∧
  (∀ (s : State) (c : Nat) (e : MEntry) (form : MmForm) (t : BitVec 3) (kind : Nat), constRow e.instr = some (form, t, kind) →
    s.MTurn c .array e →
    let k := s.coreAt c
    let n := e.r1.toNat % 64 + 1
    let qs (i : Nat) := (List.range 64).filter (fun q => e.bands.getLsbD (q / 16) && constAt k e kind i q)
    (kind = 1 → ∀ i, i < n → (e.r0.toNat % 2 ^ 19 + i) / 16 ∉ k.winPoison) →
    ∃ u, exec (.mPathRetire c false) s = .next u ∧
      (k.live.tag = 4 ∨ k.live.tag = 12 → ((u.coreAt c).getTile t).tag = 1 ∧
        ∀ i j, i < 64 → j < 64 → ((u.coreAt c).getTile t).word i j =
          if i < n then BitVec.ofInt 32 (max (-(2 ^ 31)) (min (2 ^ 31 - 1) (((k.getTile t).word i j).toInt
            + ((qs i).map (fun q => planeInt k.live.tag (sideAt form k.live q j))).sum))) else (k.getTile t).word i j) ∧
      (k.live.tag ≠ 4 → k.live.tag ≠ 12 → ((u.coreAt c).getTile t).tag = 7 ∧
        ∀ i j, i < 64 → j < 64 → ((u.coreAt c).getTile t).word i j =
          if i < n then BitVec.ofNat 32 (Fmt.f32.round .rne ((Fmt.f32.decode ((k.getTile t).word i j).toNat).add (Fmt.f32.decode
            ((qs i).foldl (fun a q => Fmt.f32.round .rne ((tagValue k.live.tag.toNat (sideAt form k.live q j)).add
              (Fmt.f32.decode a))) 0)))) else (k.getTile t).word i j) ∧
      (∀ x, x ≠ t → (u.coreAt c).getTile x = k.getTile x) ∧ (u.coreAt c).window = k.window ∧ (u.coreAt c).live = k.live) ∧
  (∀ (s : State) (c : Nat) (e : MEntry), s.MTurn c .array e →
    let k := s.coreAt c
    let reads := k.mWords e
    let b : State := { s with core := c }
    let a := (b.recallWords c reads).traceArray e 0
    b.wordsWait c reads = false → b.wordsLost c reads = none → a.firstWordPoison c reads = none →
    (∀ (t : BitVec 3) (x : BitVec 2) (part : Nat) (f : Fmt), mimmRow e.instr = some (t, x, part) →
      tagFmt k.live.tag.toNat = some f →
      let h := k.getH x
      let n := e.r0.toNat / 2 ^ 24 % 64 + 1
      let qs (i : Nat) := (List.range 64).filter (fun q => e.bands.getLsbD (q / 16) && h.inside e.r0 e.r1 i q)
      let entry (i q : Nat) : FVal := entryPart f part (a.entryAt c h e.r0 e.r1 (if part = 0 then some f else none) i q)
      ∃ u, exec (.mPathRetire c false) s = .next u ∧ ((u.coreAt c).getTile t).tag = 7 ∧
        (∀ i j, i < 64 → j < 64 → ((u.coreAt c).getTile t).word i j =
          if i < n then BitVec.ofNat 32 (Fmt.f32.round .rne ((Fmt.f32.decode ((k.getTile t).word i j).toNat).add (Fmt.f32.decode
            ((qs i).foldl (fun y q => Fmt.f32.round .rne (((entry i q).mul (tagValue k.live.tag.toNat
              (sideAt .forward k.live q j))).add (Fmt.f32.decode y))) 0)))) else (k.getTile t).word i j) ∧
        (∀ x, x ≠ t → (u.coreAt c).getTile x = k.getTile x) ∧ (u.coreAt c).window = k.window ∧ (u.coreAt c).live = k.live) ∧
    (∀ (tk : Tok) (x : BitVec 2) (pa pb pc : BitVec 4) (m : BitVec 2), e.instr = .mimv tk x pa pb pc m →
      let h := k.getH x
      let src := e.r0.toNat % 2 ^ 19
      let at_ (r i : Nat) : Nat := e.r1.toNat % 2 ^ 19 + 256 * r + 4 * i
      let writes (r i : Nat) : Prop := r ≤ m.toNat ∧ i < e.r2.toNat / 2 ^ 24 % 64 + 1 ∧ e.r2.toNat % 2 ^ 24 + i < cvNrows h.record
      (∀ r o, r ≤ m.toNat → o < 4 * (e.r3.toNat / 2 ^ 24 % 64 + 1) → (src + 256 * r + o) / 16 ∉ k.winPoison) →
      ∃ u, exec (.mPathRetire c false) s = .next u ∧ (u.coreAt c).tiles = k.tiles ∧ (u.coreAt c).live = k.live ∧
        (∀ r i, writes r i → (u.coreAt c).window.readNat (at_ r i) 4 =
          ((List.range 64).filter (h.inside e.r2 e.r3 i)).foldl (fun y q => Fmt.f32.round .rne
            (((Fmt.f32.decode (a.entryAt c h e.r2 e.r3 none i q)).mul
              (Fmt.f32.decode (k.window.readNat (src + 256 * r + 4 * q) 4))).add (Fmt.f32.decode y))) 0) ∧
        ∀ o, (∀ r i, writes r i → o < at_ r i ∨ at_ r i + 4 ≤ o) → (u.coreAt c).window.read o = k.window.read o))

/-- R48: every change of a tile keeps each row's checksum in agreement with its words, and a zeroed tile agrees. R230 to
R233: `mzero` leaves a tile of zeros under tag F32; `macc` adds rows of the scratchpad by the tile's kind; a drain writes
each row's converted words, the higher row's bytes remaining where rows overlap, and leaves the tile; a drain or `mchk` that
finds a checksum wrong rolls the node back, at once where its strands stand at boundaries (R284), and writes nothing. -/
def Obligations.TilesTakeEffect : Prop :=
  ((∀ (x : Tile) (tag : BitVec 4) (n : Nat) (f : Nat → Nat → Lane → Lane) (i : Nat), i < 64 → x.rowOk i = true →
    (x.update tag n f).rowOk i = true) ∧
  (∀ (x : Tile) (tag : BitVec 4) (n : Nat) (f : Nat → Nat → Lane → Lane) (i j : Nat), i < 64 → j < 64 →
    (x.update tag n f).word i j = if i < n then f i j (x.word i j) else x.word i j) ∧
  ∀ i, i < 64 → Tile.zero.rowOk i = true) ∧
  (∀ (s : State) (c : Nat) (e : MEntry), s.MTurn c .array e →
    let k := s.coreAt c
    let n := e.r1.toNat % 64 + 1
    let o := e.r0.toNat % 2 ^ 19
    let st := e.r1.toNat / 2 ^ 16
    let untraced : Prop := (s.part k.node.part).tel.evmask.getLsbD 1 = false
    (∀ tk t, e.instr = .mzero tk t → ∃ u, exec (.mPathRetire c false) s = .next u ∧ (u.coreAt c).getTile t = Tile.zero ∧
      (∀ x, x ≠ t → (u.coreAt c).getTile x = k.getTile x) ∧ (u.coreAt c).window = k.window) ∧
    (∀ tk t pa pb, e.instr = .macc tk t pa pb → (∀ i j, i < n → j < 256 → (o + i * st + j) / 16 ∉ k.winPoison) →
      ∃ u, exec (.mPathRetire c false) s = .next u ∧ ((u.coreAt c).getTile t).tag = (k.getTile t).tag ∧
        (∀ i j, i < 64 → j < 64 → ((u.coreAt c).getTile t).word i j = if i < n then
          (let x := k.window.readNat (o + i * st + 4 * j) 4
           if (k.getTile t).tag = 1 then BitVec.ofInt 32 (max (-(2 ^ 31)) (min (2 ^ 31 - 1)
             (((k.getTile t).word i j).toInt + (BitVec.ofNat 32 x).toInt)))
           else BitVec.ofNat 32 (Fmt.f32.round .rne ((Fmt.f32.decode ((k.getTile t).word i j).toNat).add (Fmt.f32.decode x))))
          else (k.getTile t).word i j) ∧
        (∀ x, x ≠ t → (u.coreAt c).getTile x = k.getTile x) ∧ (u.coreAt c).window = k.window) ∧
    (∀ t code mode, drainOf e.instr = some (t, code, mode) → (∀ i, i < n → (k.getTile t).rowOk i = true) →
      let w := drainBytes code
      ∃ u, exec (.mPathRetire c false) s = .next u ∧ (u.coreAt c).tiles = k.tiles ∧
        (∀ i j b, i < n → j < 64 → b < w →
          (∀ x, i < x → x < n → o + i * st + w * j + b < o + x * st ∨ o + x * st + 64 * w ≤ o + i * st + w * j + b) →
          (u.coreAt c).window.read (o + i * st + w * j + b) = BitVec.ofNat 8 (drainWord ((k.getTile t).tag == 1) code
            (mode e.seed (64 * i + j)) ((k.getTile t).word i j) / 2 ^ (8 * b))) ∧
        (∀ a, (∀ i, i < n → a < o + i * st ∨ o + i * st + 64 * w ≤ a) → (u.coreAt c).window.read a = k.window.read a)) ∧
    (∀ t code mode, drainOf e.instr = some (t, code, mode) → (∃ i, i < n ∧ (k.getTile t).rowOk i = false) →
      k.node.phase = .running → k.node.gang = [] →
      ∃ u, exec (.mPathRetire c false) s = .next u ∧ u.RollsBack c ∧ (untraced → s.CanGo c none → (u.coreAt c).node.phase = .idle) ∧
        (u.coreAt c).window = k.window) ∧
    (∀ tk t, e.instr = .mchk tk t → (∃ i, i < 64 ∧ (k.getTile t).rowOk i = false) → k.node.phase = .running → k.node.gang = [] →
      ∃ u, exec (.mPathRetire c false) s = .next u ∧ u.RollsBack c ∧ (untraced → s.CanGo c none → (u.coreAt c).node.phase = .idle)) ∧
    (∀ tk t, e.instr = .mchk tk t → (∀ i, i < 64 → (k.getTile t).rowOk i = true) →
      ∃ u, exec (.mPathRetire c false) s = .next u ∧ (u.coreAt c).tiles = k.tiles ∧ (u.coreAt c).window = k.window))

/-- R219 to R223: `mwld` fills the shadow plane from the slot or scratchpad bytes of its storage code, in row order: plain
codes as they stand, T2 by its two-bit fields, MX codes scaled and rounded once into BF16, the 2:4 code at its named positions;
a slot read under a plain code takes its tag. A poisoned sector, or a byte that the code does not admit, tags the plane POISON
instead, and PSNA holds where, of a poisoned sector a byte that the load reads (DESIGN CHOICE, log 96). `mslot` copies 8,192
bytes into a slot of the weight buffer and tags it RAW; `mswp` exchanges the planes with their tags at its turn. -/
def Obligations.PlanesTakeEffect : Prop :=
  ∀ (s : State) (c : Nat) (e : MEntry), s.MTurn c .weight e →
    let k := s.coreAt c
    (∀ tk, e.instr = .mswp tk → ∃ u, exec (.planeSwap c) s = .next u ∧ (u.coreAt c).live = k.shadow ∧
      (u.coreAt c).shadow = k.live ∧ (u.coreAt c).tiles = k.tiles ∧ (u.coreAt c).window = k.window) ∧
    (∀ o code slot, mwldRow e = some (o, code, slot) → code ≤ 12 →
      let sc := e.r1.toNat % 2 ^ 19
      let mx := decide (6 ≤ code ∧ code ≤ 11)
      let bad (j : Nat) : Prop := j < planeBytes code ∧
        ((o + j) / 16 ∈ k.winPoison ∨ planeBad code j (k.window.read (o + j)) = true)
      let badScale (j : Nat) : Prop := mx = true ∧ j < 128 ∧ (sc + j) / 16 ∈ k.winPoison
      ((∀ j, ¬ bad j) → (∀ j, ¬ badScale j) →
        ∃ u, exec (.mPathRetire c true) s = .next u ∧ (u.coreAt c).live = k.live ∧ (u.coreAt c).tiles = k.tiles ∧
          (u.coreAt c).window = k.window ∧
          (u.coreAt c).shadow.tag = (if code < 6 then [8, 9, 10, 11, 4, 12].getD code 0 else 8) ∧
          (∀ r q, r < 64 → q < 64 → vget (vget (u.coreAt c).shadow.vals r (tab 64 (fun _ => 0))) q 0 =
            BitVec.ofNat 16 (planeElem k.window code o sc (64 * r + q))) ∧
          ∀ w, w < 4 → vget (u.coreAt c).wtags w 0 =
            if slot = some w ∧ code < 6 then [8, 9, 10, 11, 4, 12].getD code 0 else vget k.wtags w 0) ∧
      ((∃ j, bad j) ∨ (∃ j, badScale j) →
        ∃ u, exec (.mPathRetire c true) s = .next u ∧ (u.coreAt c).live = k.live ∧ (u.coreAt c).tiles = k.tiles ∧
          (u.coreAt c).window = k.window ∧ (u.coreAt c).wtags = k.wtags ∧ (u.coreAt c).shadow.tag = 0xF ∧
          (u.coreAt c).psnv = true ∧
          ((∃ j, bad j ∧ ((slot = none ∧ (u.coreAt c).psns = 1 ∧ (u.coreAt c).psna = BitVec.ofNat 64 (o + j)) ∨
            (slot ≠ none ∧ (u.coreAt c).psns = 3 ∧ (u.coreAt c).psna = BitVec.ofNat 64 (0xF000000000 + c * 0x100000 + o + j)))) ∨
           ∃ j, badScale j ∧ (u.coreAt c).psns = 1 ∧ (u.coreAt c).psna = BitVec.ofNat 64 (sc + j)))) ∧
    (∀ tk slot pa, e.instr = .mslot tk slot pa →
      let o := e.r0.toNat % 2 ^ 19
      o + 8192 ≤ 0x80000 →
      ∃ u, exec (.mPathRetire c true) s = .next u ∧ vget (u.coreAt c).wtags slot.toNat 0 = 0 ∧ (u.coreAt c).live = k.live ∧
        (u.coreAt c).shadow = k.shadow ∧
        ∀ a, (u.coreAt c).window.read a = if 0x80000 + slot.toNat * 8192 ≤ a ∧ a < 0x80000 + slot.toNat * 8192 + 8192
          then k.window.read (o + (a - (0x80000 + slot.toNat * 8192))) else k.window.read a)

/-! ## Copy instructions -/

/-- R247, R248, R267, R269, R270, R271 and R268: the parameter and loop instructions act at issue; `qlds` loads an aligned
word of the scratchpad; `cpermit` adds its permits to an enabled slot, saturating at 65,535, and traps with cause 0x07 and
TVAL the slot on another; `cfence` and `nend` complete when every earlier C instruction has. With none unretired an
instruction retires at once unless its push is held; a `cfence` that is not complete holds every later C instruction back. -/
def Obligations.CopyParametersComplete : Prop :=
  (∀ (i : Instr) (t : Tok) (f : Core → Core) (next : Core → Word) (s s1 : State), cParam i = some (t, f, next) →
    s.Issues .C t s1 → s.me.cFenced = false →
    ∃ u, exec i s = .next u ∧ s.OnlyCore u ∧ (u.me.strand .C).pc = next s.me ∧ (∀ x, x ≠ .C → u.me.strand x = s.me.strand x) ∧
      u.me = { f s.me with
        tk := u.me.tk, strands := u.me.strands, cout := u.me.cout, node := { s.me.node with nextOp := s.me.node.nextOp + 1 },
        now := { (f s.me).now with popped := u.me.now.popped, pushed := u.me.now.pushed } } ∧
      (s.me.cout = [] → t.push = 0 ∨ s.me.canPush (pushFifo .C t.push) = true ∧ s.me.pushedNow .C = false →
        s.Retired u .C t (next s.me) ∧ u.me.cout = [] ∧ (u.me.strand .C).cond = .ready ∧
        (t.push ≠ 0 → u.me.tokens (pushFifo .C t.push) = s.me.tokens (pushFifo .C t.push) + 1))) ∧
  (∀ (t : Tok) (qd qa : BitVec 4) (imm : BitVec 14) (s s1 : State), s.Issues .C t s1 → s.me.cFenced = false →
    let a := (s.me.getQ qa + 4 * imm.signExtend 32).toNat
    (a % 4 = 0 → a + 4 ≤ 0x80000 → a / 16 ∉ s.me.winPoison →
      ∃ u, exec (.qlds t qd qa imm) s = .next u ∧ s.OnlyCore u ∧ (u.me.strand .C).pc = (s.me.strand .C).pc + 4 ∧
        (∀ r, u.me.getQ r = if r = qd then BitVec.ofNat 32 (s.me.window.readNat a 4) else s.me.getQ r) ∧
        u.me.window = s.me.window) ∧
    (s.UserNode → a % 4 ≠ 0 →
      ∃ u, exec (.qlds t qd qa imm) s = .next u ∧ s.EntersTrap u .C 0x08 (BitVec.ofNat 64 a) (s.me.strand .C).pc)) ∧
  (∀ (t : Tok) (slot : BitVec 4) (n1 : BitVec 12) (s s1 : State), s.Issues .C t s1 → s.me.cFenced = false →
    let w : Word := vget s.me.lslt slot.toNat 0
    (w.getLsbD 63 = true →
      ∃ u v, exec (.cpermit t slot n1) s = .next u ∧ s.OnlyCore u ∧ (u.me.strand .C).pc = (s.me.strand .C).pc + 4 ∧
        u.me.lslt = vset s.me.lslt slot.toNat v ∧
        (v.extractLsb' 35 16).toNat = min 65535 ((w.extractLsb' 35 16).toNat + n1.toNat + 1) ∧
        v.extractLsb' 0 35 = w.extractLsb' 0 35 ∧ v.extractLsb' 51 13 = w.extractLsb' 51 13 ∧ u.me.q = s.me.q) ∧
    (w.getLsbD 63 = false → s.UserNode →
      ∃ u, exec (.cpermit t slot n1) s = .next u ∧ s.EntersTrap u .C 0x07 (slot.setWidth 64) (s.me.strand .C).pc)) ∧
  (∀ (t : Tok) (s s1 : State), s.Issues .C t s1 → s.me.cFenced = false →
    t.push = 0 ∨ s.me.canPush (pushFifo .C t.push) = true ∧ s.me.pushedNow .C = false →
    ∃ u w, exec (.cfence t) s = .next u ∧ exec (.nendC t) s = .next w ∧ s.OnlyCore u ∧ s.OnlyCore w ∧
      (s.me.cout = [] → s.Retired u .C t ((s.me.strand .C).pc + 4) ∧ u.me.cFenced = false ∧ u.me.cout = [] ∧
        s.Retired w .C t ((s.me.strand .C).pc + 4) ∧ (w.me.strand .C).cond = .ended ∧ w.me.cout = []) ∧
      ((∃ e ∈ s.me.cout, e.done = false ∧ e.fence = false) → (∀ e ∈ s.me.cout, e.last = false) →
        u.me.cFenced = true ∧ (w.me.strand .C).cond = .ending ∧ u.me.q = s.me.q ∧ w.me.q = s.me.q)) ∧
  (∀ (i : Instr) (t : Tok) (f : Core → Core) (next : Core → Word) (s : State), cParam i = some (t, f, next) →
    s.me.cFenced = true → ∃ u, exec i s = .next u ∧ s.StallsC u .fence)

/-- R121, R245 to R248, R253, R255: a copy command whose checks pass, with room in its engine, is handed to that engine: its
fields as R246 fills them from the block of q registers, or from the 128 bytes of `csend`. Without room the strand stalls, and
the first check that fails traps with its cause and value (a free value where R253 states none, log 6); no engine then
changes. A package without collective engines traps `crs` and `cag` at decode, whatever a fence holds back, with cause 0x02
and TVAL the OUT port (R102, R253, log 30). -/
def Obligations.CopyCommandsHandOff : Prop :=
  (∀ (i : Instr) (t : Tok) (form : Nat) (qb slot : BitVec 4) (sl : BitVec 1) (eng : BitVec 3) (s s1 : State),
    cCmd i = some (t, form, qb, slot, sl, eng) → s.Issues .C t s1 → s.me.cFenced = false →
    (form = 10 ∨ form = 11 → Config.collectiveCount s.config.variant ≠ 0) →
    let chk := s1.cmdCheck (s1.me.blockCmd form qb slot sl) true
    ∃ e, s.EngineFor eng e ∧
      (chk = .pass → s.queueLen e < 64 → s.me.cout.length < 64 →
        ∃ u m, exec i s = .next u ∧ s.HandsOff u t e m ∧ m.FromBlock form (fun n => s.me.getQ (qb + n)) slot sl) ∧
      (chk = .pass → 64 ≤ s.queueLen e ∨ 64 ≤ s.me.cout.length → ∃ u, exec i s = .next u ∧ s.StallsC u .queueFull) ∧
      (s.UserNode → (∀ c v, chk = .trap c v →
          ∃ u, exec i s = .next u ∧ s.EntersTrap u .C c v (s.me.strand .C).pc ∧ u.engines = s.engines ∧ u.me.cout = s.me.cout) ∧
        ∀ c, chk = .trapOpen c → ∃ u, exec i s = .next u ∧ s.EntersTrap u .C c s.freeVal (s.me.strand .C).pc ∧
          u.engines = s.engines ∧ u.me.cout = s.me.cout)) ∧
  (∀ (t : Tok) (qa : BitVec 4) (eng : BitVec 3) (s s1 : State), s.Issues .C t s1 → s.me.cFenced = false →
    let b := s.me.window.readBytes ((s.me.getQ qa).toNat % 2 ^ 19) 128
    s1.csendCheck qa eng = .pass →
    ∃ e u m, s.EngineFor eng e ∧ exec (.csend t qa eng) s = .next u ∧ s.HandsOff u t e m ∧
      m.form = leAt b 0 1 ∧ m.src = BitVec.ofNat 64 (leAt b 8 8) ∧ m.dst = BitVec.ofNat 64 (leAt b 16 8) ∧
      m.wait = BitVec.ofNat 8 (leAt b 4 1) ∧ m.sig = BitVec.ofNat 8 (leAt b 5 1) ∧ m.item = (b.drop 64).take 64) ∧
  (∀ (i : Instr) (t : Tok) (form : Nat) (qb slot : BitVec 4) (sl : BitVec 1) (eng : BitVec 3) (s s1 : State),
    cCmd i = some (t, form, qb, slot, sl, eng) → s.Issues .C t s1 → s.UserNode →
    form = 10 ∨ form = 11 → Config.collectiveCount s.config.variant = 0 →
    ∃ u, exec i s = .next u ∧
      s.EntersTrap u .C 0x02 (BitVec.ofNat 64 ((s.me.getQ (qb + 6)).toNat % 16)) (s.me.strand .C).pc) ∧
  (∀ (s : State) (c : CmdFields) (blk : Bool), c.form = 1 → c.src.toNat < aliasBase →
    s.entryOf s.me.node.part c.src.toNat = none → s.cmdCheck c blk = .trap 0x06 c.src) ∧
  (∀ (s : State) (c : CmdFields) (blk : Bool), c.form = 12 → c.action ≤ 4 → c.dst = 0 →
    s.cmdCheck c blk = .trap 0x01 (BitVec.ofNat 64 (2 ^ 63 + 0x10)))

/-! ## Events -/

/-- R274, R275, R276, R281, R60, R67, R132, R142, R383, R426: a held push takes place once its FIFO has room at the start of
the cycle, also that of the S strand which a handler has displaced, and a strand whose `nend` it held ends; a node whose
strands have all stood for 1,024 cycles, none with its token or its room come meanwhile, takes cause 0x09; a pending trap is
taken at a boundary, the record that the M strand owes since an earlier cycle before it (R316, log 93), and after another
strand's trap a strand freezes there; with every strand frozen the handler starts at TVEC; a load that waited for memory
completes, or joins the queue of the page or port that holds it back. -/
def Obligations.StrandEventsHappen : Prop :=
  (∀ (s : State) (c n : Nat) (st : Strand) (pc : Word) (last : Bool), st ≠ .C → n < 12 →
    ((s.coreAt c).issued st).cond = .pushHold n pc last → (st = .M → (s.coreAt c).mq = []) →
    ((s.coreAt c).canPush n = true →
      ∃ u, exec (.heldPush c st) s = .next u ∧ u = { s with core := c, cores := u.cores } ∧
        (∀ d, d ≠ c → u.coreAt d = s.coreAt d) ∧ (u.coreAt c).tokens n = (s.coreAt c).tokens n + 1 ∧
        (∀ m, m ≠ n → (u.coreAt c).tokens m = (s.coreAt c).tokens m) ∧
        ((u.coreAt c).issued st).cond = (if last then .ended else .ready) ∧
        ((u.coreAt c).issued st).pc = ((s.coreAt c).issued st).pc ∧
        (u.coreAt c).node.phase = (s.coreAt c).node.phase ∧
        ((s.coreAt c).node.phase = .handler → st = .S → (u.coreAt c).strand .S = (s.coreAt c).strand .S) ∧
        ∀ x, x ≠ st → (u.coreAt c).strand x = (s.coreAt c).strand x) ∧
    ((s.coreAt c).canPush n = false → exec (.heldPush c st) s = .next { s with core := c })) ∧
  (∀ (s : State) (c : Nat) (e : COut) (rest : List COut), (s.coreAt c).cout = e :: rest → e.done = true → e.push ≠ 0 →
    (s.coreAt c).canPush (pushFifo .C e.push) = true → (s.coreAt c).pushedNow .C = false →
    ∃ u, exec (.heldPush c .C) s = .next u ∧ (u.coreAt c).cout.length = rest.length ∧
      (u.coreAt c).tokens (pushFifo .C e.push) = (s.coreAt c).tokens (pushFifo .C e.push) + 1) ∧
  (∀ (s : State) (c : Nat) (st : Strand) (f : Strand → Nat) (pc : Strand → Word),
    let b : State := { s with core := c }
    b.UserNode → s.Quiet c →
    (∀ x, ((s.coreAt c).strand x).Stands (f x) (pc x) ∧ ((s.coreAt c).strand x).since + 1024 ≤ s.cycle ∧
      (s.coreAt c).Stuck x) →
    (∀ x, x.num < st.num → f x = 31) → (f st = 31 → st = .S ∧ ∀ x, f x = 31) →
    ∃ u, exec (.tokenDeadlock c) s = .next u ∧
      b.EntersTrap u st 0x09 (BitVec.ofNat 64 (f .S + 32 * f .V + 1024 * f .M + 32768 * f .C)) (pc st)) ∧
  (∀ (s : State) (c : Nat) (x : Strand), s.cycle < ((s.coreAt c).strand x).since + 1024 ∨ ¬ (s.coreAt c).Stuck x →
    exec (.tokenDeadlock c) s = .next { s with core := c }) ∧
  (∀ (s : State) (c : Nat) (st : Strand),
    let b : State := { s with core := c }
    (b.me.strand st).frozen = false → b.atBoundary st = true →
    (let enters (x : Strand) (i : TrapInfo) : Prop :=
       ∃ u, exec (.trapEntry c st) s = .next u ∧ (u.me.tcause).toNat = i.cause.toNat + 256 * x.num + (if i.post then 2048 else 0) ∧
         u.me.tval = i.tval ∧ u.me.tepc = (b.me.strand x).pc ∧ u.me.psup = false ∧ u.me.sup = true ∧
         (u.me.strand x).frozen = true ∧ u.me.node.phase = .trapEntry ∧ b.me.SameData u.me ∧
         (∀ a, u.mem.read a = b.mem.read a) ∧ u.me.node.staged = b.me.node.staged
     ∀ i, b.me.node.phase = .running → b.me.node.handler = true → b.me.sup = false → (b.me.strand st).pending = some i →
       i.chain = false → b.me.keepsTrap st = false → b.me.node.ending = none →
       (b.me.owedBefore b.cycle st = none → enters st i) ∧
       (∀ j, b.me.owedBefore b.cycle st = some j → j.chain = false → enters .M j)) ∧
    (b.me.node.phase = .trapEntry →
      ∃ u, exec (.trapEntry c st) s = .next u ∧ (u.me.strand st).frozen = true ∧ (u.me.strand st).pc = (b.me.strand st).pc ∧
        (∀ x, x ≠ st → u.me.strand x = b.me.strand x) ∧ u.mem = s.mem ∧ u.me.x = b.me.x)) ∧
  (∀ (s : State) (c : Nat), let k := s.coreAt c
    k.node.phase = .trapEntry → k.node.ending = none → (∀ x, (k.strand x).frozen = true) →
    ∃ u, exec (.handlerStart c) s = .next u ∧ u = { s with core := c, cores := u.cores } ∧
      (u.coreAt c).node = { k.node with phase := .handler, sSaved := k.strand .S } ∧ ((u.coreAt c).strand .S).pc = k.tvec ∧
      ((u.coreAt c).strand .S).cond = .ready ∧ ((u.coreAt c).strand .S).frozen = false ∧
      (∀ x, x ≠ .S → (u.coreAt c).strand x = k.strand x) ∧ (u.coreAt c).x = k.x ∧ (u.coreAt c).v = k.v) ∧
  (∀ (s : State) (c : Nat) (i : Instr) (t : Tok) (xd xa : BitVec 5) (imm : BitVec 12) (n : Nat) (ext : Nat → Word) (l : Loc),
    let b : State := { s with core := c }
    let a := (b.me.getX xa + imm.signExtend 64).toNat
    let r := b.askPlace c n l.place
    loadRule i = some (t, xd, xa, imm, n, ext) → (b.me.strand .S).cond = .memory i → s.inQueue c .S = false →
    b.memGate i = .clear → b.locate needR a = .ok l → b.hostGone l.place = false →
    (∀ j, j < n → r.placePoison c l.place j = false) → b.me.dataBrk a n = none →
    ∃ u, exec (.memoryAccessComplete c .S) s = .next u ∧ (u.me.strand .S).pc = (b.me.strand .S).pc + 4 ∧ u.mem = r.mem ∧
      (∀ r, r ≠ xd → u.me.getX r = b.me.getX r) ∧
      (xd ≠ 0 → u.me.getX xd = ext (leNat ((List.range n).map (fun j => r.placeByte c l.place j))))) ∧
  (∀ (s : State) (c : Nat) (st : Strand) (i : Instr),
    let b : State := { s with core := c }
    (b.me.strand st).cond = .memory i →
    (s.inQueue c st = true → exec (.memoryAccessComplete c st) s = .next s) ∧
    (s.inQueue c st = false → b.unitHeld i = false → b.memGate i ≠ .clear →
      exec (.memoryAccessComplete c st) s = .next (s.join (.strand c st) (b.memGate i))))

/-- R284 to R286, R295, R360, R371, R434, R437 to R441, R48: a node that has ended commits: each staged byte becomes visible,
its input slot is FREE and its launch counts it; one that has not is left alone. Once acknowledged its core is free with its
registers as they stood. A detected error rolls a node back: its item is READY again with one attempt more, and memory is as
it was; a pinned node, or a third attempt, fails the launch. While a strand but the one that met the error has not come to a
boundary, the node only is to go: that strand stops, items and memory stay, and once the rest have stopped it goes. A scrub of
an accumulator with a wrong checksum rolls the running node back, and a memory scrub, of what scrubbers cover, marks an
uncorrectable sector alone, in memory, in a slice, in a window or among the staged bytes of a node that runs or is saved, and
memory keeps its bytes; an error in a clean line of a slice is counted, and the line fetched again. Which lines of a slice are
clean its turn says (DESIGN CHOICE, log 112). A staged sector that carries a mark is committed as poisoned (R436). A node
whose staged bytes no link carries any more rolls back (log 87). -/
def Obligations.NodesCommitOrRollBack : Prop :=
  (∀ (s : State) (c : Nat), let nd := (s.coreAt c).node
    (s.Ends c → nd.points = [] → s.commitHeld c nd = false → s.commitLost nd = none →
      ∃ u, exec (.nodeCommit c) s = .next u ∧ (u.coreAt c).node.phase = .committing ∧ (u.coreAt c).node.staged = [] ∧
        ((s.part nd.part).tel.evmask.getLsbD 2 = false → s.hostDir = [] →
          (∀ k, u.mem.read k = s.nodeByte c k) ∧ ∀ x ∈ nd.stagedSectors, x ∈ nd.stagedPoison → x ∈ u.poison) ∧
        (∀ l, s.launch? nd.part nd.launch = some l →
          ∃ m, u.launch? nd.part nd.launch = some m ∧ m.committed = l.committed + 1 ∧ m.state = l.state) ∧
        (∀ g q sl, s.stageOf nd.part nd.launch nd.stage = some g → s.queue? nd.part g.input = some q → q.slots[nd.slot]? = some sl →
          ∃ r x, u.queue? nd.part g.input = some r ∧ r.slots[nd.slot]? = some x ∧ x.st = .free) ∧
        (u.coreAt c).x = (s.coreAt c).x ∧ ∀ d, d ≠ c → u.coreAt d = s.coreAt d) ∧
    (nd.phase ≠ .running ∨ nd.ending ≠ none ∨ (∃ st, ((s.coreAt c).strand st).cond ≠ .ended) ∨ s.commitHeld c nd = true →
      exec (.nodeCommit c) s = .next { s with core := c }) ∧
    (∀ a, s.Ends c → s.commitHeld c nd = false → s.commitLost nd = some a → nd.gang = [] →
      ∃ u, exec (.nodeCommit c) s = .next u ∧ (u.coreAt c).node.phase = .idle)) ∧
  (∀ (s : State) (c : Nat),
    ((s.coreAt c).node.phase = .committing →
      ∃ u, exec (.commitAcknowledged c) s = .next u ∧ (u.coreAt c).node.phase = .idle ∧ (u.coreAt c).grant = 0 ∧ u.mem = s.mem ∧
        (u.coreAt c).x = (s.coreAt c).x ∧ (u.coreAt c).v = (s.coreAt c).v ∧ (u.coreAt c).tiles = (s.coreAt c).tiles) ∧
    ((s.coreAt c).node.phase ≠ .committing → exec (.commitAcknowledged c) s = .next s)) ∧
  (∀ (s : State) (c : Nat) (st : Strand) (i : Instr), i = .rollback c st ∨ i = .controlDivergence c st ∧ st ≠ .V →
    let nd := (s.coreAt c).node
    (s.coreAt c).UnderWay → nd.gang = [] →
    ∃ u, exec i s = .next u ∧ u.RollsBack c ∧
      (s.CanGo c (some st) → (u.coreAt c).node.phase = .idle ∧ (((s.coreAt c).strand .M).pending = none →
        (nd.pinned = false → nd.attempt + 1 < 3 →
          s.ItemReturns u nd 1 ∧ ((s.part nd.part).tel.evmask.getLsbD 2 = false → u.mem = s.mem)) ∧
        (nd.pinned = true ∨ 3 ≤ nd.attempt + 1 → s.FailsLaunch u nd.part nd.launch))) ∧
      (¬ s.CanGo c (some st) → nd.ending = none → ((s.coreAt c).strand .M).pending = none →
        (∃ cause, (u.coreAt c).node =
          { nd with ending := some (.rollback cause st.num ((s.coreAt c).strand st).pc 0 s.gtc) }) ∧
        ((u.coreAt c).strand st).frozen = true ∧ u.mem = s.mem ∧ ∀ p q, u.queue? p q = s.queue? p q)) ∧
  (∀ (s : State) (c : Nat), (s.gangOf c).all s.atRest = false → s.endStopped c = s) ∧
  (∀ (s : State) (c cause strand gtc : Nat) (pc addr : Word), let nd := (s.coreAt c).node
    nd.ending = some (.rollback cause strand pc addr gtc) → (s.coreAt c).UnderWay → nd.gang = [] → s.atRest c = true →
    let u := s.endStopped c
    (u.coreAt c).node.phase = .idle ∧ (nd.pinned = false → nd.attempt + 1 < 3 → s.ItemReturns u nd 1) ∧
    (nd.pinned = true ∨ 3 ≤ nd.attempt + 1 → s.FailsLaunch u nd.part nd.launch)) ∧
  (∀ (s : State) (c : Nat), exec (.controlDivergence c .V) s = .next s) ∧
  (∀ (s : State) (c t : Nat), let k := s.coreAt c
    ((∀ i, i < 64 → (k.getTile (BitVec.ofNat 3 t)).rowOk i = true) → exec (.accumulatorScrub c t) s = .next s) ∧
    ((∃ i, i < 64 ∧ (k.getTile (BitVec.ofNat 3 t)).rowOk i = false) → k.UnderWay → k.node.gang = [] →
      ∃ u, exec (.accumulatorScrub c t) s = .next u ∧ u.RollsBack c ∧
        (s.CanGo c (some .M) → (u.coreAt c).node.phase = .idle)) ∧
    ((∃ i, i < 64 ∧ (k.getTile (BitVec.ofNat 3 t)).rowOk i = false) → ¬ k.UnderWay →
      ∃ u, exec (.accumulatorScrub c t) s = .next u ∧ u.cores = s.cores ∧ u.mem = s.mem ∧
        u.ecc = (s.ecc.1, s.ecc.2 + 1))) ∧
  (∀ (s : State) (site : ScrubSite) (bad : Bool),
    (scrubbed site = false ∨ s.atSite site = false → exec (.memoryScrub site bad) s = .next s) ∧
    (scrubbed site = true → s.atSite site = true → ∃ u, exec (.memoryScrub site bad) s = .next u ∧ u.mem = s.mem ∧
      u.ecc = (if bad then (s.ecc.1, s.ecc.2 + 1) else (s.ecc.1 + 1, s.ecc.2)) ∧
      (bad = false ∨ (∃ q a, site = .cleanSlice q a) → u.poison = s.poison ∧ u.cores = s.cores) ∧
      (∀ a, site = .dram a ∨ (∃ q, site = .slice q a) ∨ (∃ d, site = .owned d a) → bad = true →
        a / 16 ∈ u.poison ∧ (∀ x ∈ s.poison, x ∈ u.poison) ∧ u.cores = s.cores) ∧
      (∀ d a, site = .window d a → bad = true → a / 16 ∈ (u.coreAt d).winPoison ∧ u.poison = s.poison ∧
        (u.coreAt d).window = (s.coreAt d).window) ∧
      (∀ d a, site = .staged d a → bad = true → u.poison = s.poison ∧
        (u.coreAt d).node.staged = (s.coreAt d).node.staged ∧ a / 16 ∈ (u.coreAt d).node.stagedPoison) ∧
      (∀ p slot a, site = .saved p slot a → bad = true → u.poison = s.poison ∧ u.cores = s.cores ∧
        ∃ x ∈ (u.part p).saved, x.slot = slot ∧ a / 16 ∈ x.node.stagedPoison)))

/-- R70, R248 to R251, R256 to R266, R422, R423, R428: the oldest command of a slot is admitted for one permit, and lands at
the slot's base; commands start in order, past those that wait on a group, each partition as often in a round as its weight
(log 84); a command reads each source sector whole, as its node sees it; a completed one, of any form but `carm`, has left in
every byte of its destination what the last of its moves brings there, the sum for `cradd` and `crs`: in its slot, in a weight
window, staged for its node, or at once in a DIRECT range or at a peer; it has left its engine; a DIRECT fill pins the node;
`carm` arms its counter, keeping the phase; a chunk pairs with the posted step of its tag, or waits in the buffer, and a
collective step completes only once its chunk has come and its send is accepted; a target that has not answered for 50 µs
rolls the node back, at once where its strands stand at boundaries (R284), one that refuses fails it, and a collective step
that waits for its partner just waits. -/
def Obligations.CopiesTakeEffect : Prop :=
  (∀ (s : State) (eng idx sl : Nat) (c : Cmd), s.cmdAt eng idx = some c → c.slot = some sl → c.state = .queued → sl < 16 →
    s.belowFloor = false → s.hot = false →
    (∀ m ∈ (s.engines.get eng Engine.reset).queue.take idx, m.core = c.core → m.slot = c.slot → m.state ≠ .queued) →
    let w : Word := vget (s.coreAt c.core).lslt sl 0
    let x := c.fields.dstExtent c.idx
    w.getLsbD 63 = true →
    (w.extractLsb' 35 16 ≠ 0 → 0 ≤ x.1 → x.2 < 16 * (w.extractLsb' 19 16).toNat →
      ∃ u v, exec (.copyAdmission eng idx) s = .next u ∧
        u.cmdAt eng idx = some { c with state := .admitted, land := 16 * (w.extractLsb' 4 15).toNat } ∧
        vget (u.coreAt c.core).lslt sl 0 = v ∧ v.extractLsb' 35 16 = w.extractLsb' 35 16 - 1 ∧
        v.extractLsb' 0 35 = w.extractLsb' 0 35 ∧ v.extractLsb' 51 13 = w.extractLsb' 51 13) ∧
    (w.extractLsb' 35 16 = 0 → exec (.copyAdmission eng idx) s = .next s)) ∧
  (∀ (s : State) (eng idx : Nat) (c : Cmd), s.cmdAt eng idx = some c → c.form ≠ 10 → c.form ≠ 11 →
    s.belowFloor = false → s.hot = false → c.state = .queued ∧ c.slot = none ∨ c.state = .admitted →
    ((∀ e ∈ s.engines, ∀ m ∈ e.2.queue, m.core = c.core → m.id < c.id → m.sig &&& c.wait = 0) →
      (∀ m ∈ (s.engines.get eng Engine.reset).queue.take idx, m.part = c.part → s.startable m = false) →
      ((s.engines.get eng Engine.reset).queue.filter (fun m => m.part == c.part && m.state == .executing)).length < 8 →
      let g := s.engines.get eng Engine.reset
      let spent (q : Nat) : Prop := s.copyWeight q ≤ g.round.get q 0
      let begins (n : Nat) : Prop := ∃ u, exec (.copyStart eng idx) s = .next u ∧
        u.cmdAt eng idx = some { c with state := .executing, began := s.gtc } ∧
        (u.engines.get eng Engine.reset).round.get c.part 0 = n ∧
        u.cores = s.cores ∧ ∀ x, x ≠ eng → u.engines.get x Engine.reset = s.engines.get x Engine.reset
      (¬ spent c.part → begins (g.round.get c.part 0 + 1)) ∧
      (spent c.part → (∀ q ∈ s.readyParts g, spent q) → begins 1) ∧
      (∀ q ∈ s.readyParts g, spent c.part → ¬ spent q → exec (.copyStart eng idx) s = .next s)) ∧
    ((∃ e ∈ s.engines, ∃ m ∈ e.2.queue, m.core = c.core ∧ m.id < c.id ∧ m.sig &&& c.wait ≠ 0) →
      exec (.copyStart eng idx) s = .next s)) ∧
  (∀ (s : State) (eng idx sl : Nat) (c : Cmd) (byte : Nat → Byte), s.cmdAt eng idx = some c → c.slot = some sl →
    c.state = .executing → c.landed = [] → c.grabbed = [] → s.hostDir = [] →
    let base := c.land + c.dst.toNat
    (c.form = 6 ∧ byte = (fun k => BitVec.ofNat 8 (c.src.toNat / 2 ^ (8 * (k % 8)))) ∨
      c.form = 1 ∧ ∃ pa : Nat → Nat,
        (∀ j, j ≤ c.len → ∃ e, s.engineLoc c false (16 * ((c.src.toNat + j) / 16)) = .ok (e, .dram (pa ((c.src.toNat + j) / 16)))) ∧
        byte = fun k => s.nodeByte c.core (pa ((c.src.toNat + k) / 16) + (c.src.toNat + k) % 16)) →
    ∃ u, exec (.copyComplete eng idx) s = .next u ∧
      (∀ a, (u.coreAt c.core).window.read a =
        if base ≤ a ∧ a < base + c.len + 1 then byte (a - base) else (s.coreAt c.core).window.read a) ∧
      (u.engines.get eng Engine.reset).queue = (s.engines.get eng Engine.reset).queue.eraseIdx idx ∧
      ((s.part c.part).tel.evmask.getLsbD 0 = false → u.mem = s.mem)) ∧
  (∀ (s : State) (eng idx pa : Nat) (c : Cmd) (e : RangeEntry), s.cmdAt eng idx = some c → c.slot = none → c.form = 6 →
    c.state = .executing → c.landed = [] → c.dst.toNat % 16 + c.len + 1 ≤ 16 →
    s.engineLoc c true (16 * (c.dst.toNat / 16)) = .ok (e, .dram pa) → e.home = 0 →
    (s.part c.part).tel.evmask.getLsbD 0 = false →
    let lo := pa + c.dst.toNat % 16
    let byte (k : Nat) : Byte := BitVec.ofNat 8 (c.src.toNat / 2 ^ (8 * ((k - lo) % 8)))
    ∃ u, exec (.copyComplete eng idx) s = .next u ∧
      (e.direct = false → u.mem = s.mem ∧ ∀ k, u.nodeByte c.core k = if lo ≤ k ∧ k < lo + c.len + 1 then byte k else s.nodeByte c.core k) ∧
      (e.direct = true → (u.coreAt c.core).node.pinned = true ∧
        (∀ k, lo ≤ k → k < lo + c.len + 1 → u.mem.read k = byte k) ∧
        ∀ k, (k < lo ∨ lo + c.len + 1 ≤ k) → (∀ h ∈ s.hostDir, h.line = pa / 128 → k / 128 ≠ pa / 128) →
          u.mem.read k = s.mem.read k)) ∧
  (∀ (s : State) (eng idx x : Nat) (c : Cmd) (q : Place), s.cmdAt eng idx = some c → c.state = .executing → c.form ≤ 9 → c.form ≠ 6 →
    s.hostDir = [] → c.grabbed.find x = none → s.SourceAt c x q →
    (∃ e ∈ c.spans, ∃ i, i < e.2.2 ∧ 0 ≤ e.1 ∧ (e.1.toNat + i) / 16 = x) →
    let u := s.copyAdvance eng idx [x] []
    let seen := (List.range 16).map (fun i => (s.placeByte c.core q i, s.placePoison c.core q i))
    u.cmdAt eng idx = some { c with grabbed := c.grabbed.set x seen } ∧
    u.mem = s.mem ∧ u.cores = s.cores ∧ u.poison = s.poison) ∧
  (∀ (s : State) (eng idx d : Nat) (c : Cmd) (g : Nat → Nat), s.cmdAt eng idx = some c → c.state = .executing → c.form ≠ 12 →
    c.landed = [] → s.hostDir = [] → (s.part c.part).tel.evmask.getLsbD 0 = false →
    (c.form = 10 ∨ c.form = 11 → c.arrived ≠ none ∧ c.accepted = true) →
    (c.form = 7 ∨ c.form = 10 → c.slot = none ∧ c.aux ≤ 3 ∧ (c.len + 1) % sumBytes c.aux = 0) →
    (∀ e ∈ c.spans, 0 ≤ e.2.1) →
    (∀ a e, c.lastSpan a = some e → c.form ≠ 6 → c.form ≠ 10 → c.form ≠ 11 →
      (c.grabbed.find ((e.1 + ((a : Int) - e.2.1).toNat).toNat / 16)).isSome = true) →
    (∀ x y, c.Touches x → c.Touches y → g x = g y → x = y) →
    let at_ (a : Nat) : Nat := 16 * g (a / 16) + a % 16
    let lands (u : State) (read : State → Nat → Byte) (old : Nat → Byte) : Prop :=
      (∀ a e, c.lastSpan a = some e → read u (at_ a) = c.leaves (fun b => old (at_ b)) e a) ∧
      (∀ k, (∀ a, (c.lastSpan a).isSome = true → at_ a ≠ k) → read u k = read s k) ∧
      (u.engines.get eng Engine.reset).queue = (s.engines.get eng Engine.reset).queue.eraseIdx idx
    (((c.slot.isSome = true ∧ d = c.core ∧ ∀ x, g x = x) ∨
        (c.slot = none ∧ c.form ≠ 7 ∧ c.form ≠ 10 ∧ ∀ x, c.Touches x → ∃ e, s.engineLoc c true (16 * x) = .ok (e, .window d (16 * g x)))) →
      ∃ u, exec (.copyComplete eng idx) s = .next u ∧ u.mem = s.mem ∧
        lands u (fun v => (v.coreAt d).window.read) (fun _ => 0)) ∧
    (∀ now : Bool, c.slot = none →
      (∀ x i, c.Touches x → i < 16 → ∃ e q, s.engineLoc c true (16 * x + i) = .ok (e, q) ∧ q.pa? = some (16 * g x + i) ∧
        (now = true ↔ e.direct = true ∨ e.home = 3) ∧ (now = true → c.form = 8 ∨ (∃ a, q = .dram a) ∨ ∃ a, q = .host a)) →
      ∃ u, exec (.copyComplete eng idx) s = .next u ∧
        (now = true → lands u (fun v => v.mem.read) (s.nodeByte c.core)) ∧
        (now = false → u.mem = s.mem ∧ lands u (fun v => v.nodeByte c.core) (s.nodeByte c.core)))) ∧
  (∀ (s : State) (eng idx : Nat) (c : Cmd), s.cmdAt eng idx = some c → c.form = 10 ∨ c.form = 11 →
    c.arrived = none ∨ c.accepted = false →
    exec (.copyComplete eng idx) s = .next s ∧ exec (.fabricCompletionTimeout eng idx) s = .next s ∧
      exec (.completerAbort eng idx) s = .next s) ∧
  (∀ (s : State) (eng idx : Nat) (c : Cmd) (e : RangeEntry), s.cmdAt eng idx = some c → c.state = .executing → c.form = 12 →
    s.entryOf c.part c.src.toNat = some e →
    let len := 128 * (c.aux * 2 ^ 24 + c.len + 1)
    (s.regionFree c.cnt (s.regionLines c.part e c.src.toNat len) = true →
      ∃ u, exec (.copyComplete eng idx) s = .next u ∧ u.counter c.cnt =
        { s.counter c.cnt with
          vbase := c.src.toNat, vlen := len, total := c.dst.toNat, count := 0, armed := true, part := c.part,
          action := c.a1.toNat % 8, arg := c.a1.toNat / 2 ^ 16, item := c.item,
          lines := s.regionLines c.part e c.src.toNat len, late := [] }) ∧
    (s.regionFree c.cnt (s.regionLines c.part e c.src.toNat len) = false →
      ∃ u, exec (.copyComplete eng idx) s = .next u ∧ State.NodeFailed { s with core := c.core } u)) ∧
  (∀ (s : State) (port : Nat) (msg : CollMsg), 0 < port → port ≤ Config.collectiveCount s.config.variant →
    (s.ports.get port Port.reset).up = true → (s.engines.map (·.1)).Nodup →
    let v := s.collectives.get port Collective.reset
    ((∀ e ∈ s.engines, ∀ m ∈ e.2.queue, m.PostedAt port → m.a2 ≠ msg.tag) →
      ((v.buffer.map (fun h => h.bytes.length)).sum + msg.bytes.length ≤ 2 ^ 21 →
        ∃ u, exec (.collectiveArrival port msg) s = .next u ∧ u.collectives.get port Collective.reset = ⟨v.buffer ++ [msg]⟩ ∧
          u.engines = s.engines ∧ u.cores = s.cores) ∧
      (2 ^ 21 < (v.buffer.map (fun h => h.bytes.length)).sum + msg.bytes.length →
        exec (.collectiveArrival port msg) s = .next s)) ∧
    ((∃ e ∈ s.engines, ∃ m ∈ e.2.queue, m.PostedAt port ∧ m.a2 = msg.tag) →
      ∃ x i c u, s.cmdAt x i = some c ∧ c.PostedAt port ∧ c.a2 = msg.tag ∧ exec (.collectiveArrival port msg) s = .next u ∧
        (c.pairs msg = true → u.cmdAt x i = some { c with arrived := some msg } ∧ u.collectives = s.collectives) ∧
        (c.pairs msg = false → (u.coreAt c.core).node.phase = .idle))) ∧
  (∀ (s : State) (eng idx : Nat) (c : Cmd) (a : Word), s.cmdAt eng idx = some c →
    (s.outstanding c [1, 2, 3] = some a →
      (c.began + 50000 ≤ s.gtc → (s.coreAt c.core).UnderWay → (s.coreAt c.core).node.gang = [] →
        ∃ u, exec (.fabricCompletionTimeout eng idx) s = .next u ∧ u.RollsBack c.core ∧
          (s.CanGo c.core none → (u.coreAt c.core).node.phase = .idle)) ∧
      (s.gtc < c.began + 50000 → exec (.fabricCompletionTimeout eng idx) s = .next s)) ∧
    (s.outstanding c [2, 3] = some a →
      ∃ u, exec (.completerAbort eng idx) s = .next u ∧ State.NodeFailed { s with core := c.core } u))

/-- R153, R331, R335 to R338, R347, R348: a delivery adds to its armed counter and is lost on another; at the total the count
falls by it, the phase advances by one and the action runs once: a wake, an item, or a signal; an item that finds no room
waits, as the counter's registers stood at the fire, and is tried again; disarming clears count and waiting actions and keeps
the phase; a core that waits re-reads the phase every 1,024 cycles; a completed prefetch ends the fills that it asked for and
puts its point at the tail of the revisit queue, while one whose line cannot be asked for yet goes on. -/
def Obligations.CountersFire : Prop :=
  (∀ (s : State) (idx : Nat) (d : Delivery), s.deliveries[idx]? = some d →
    let k := s.counter d.ctr
    let ph := (k.phase + 1) % 2 ^ 32
    let fired : Counter := { k with count := k.count + d.n - k.total, phase := ph, fires := (k.fires + 1) % 2 ^ 64 }
    (k.armed = false →
      ∃ u, exec (.counterDelivery idx) s = .next u ∧ u.counter d.ctr = k ∧ u.deliveries = s.deliveries.eraseIdx idx) ∧
    (k.armed = true → k.count + d.n < k.total →
      ∃ u, exec (.counterDelivery idx) s = .next u ∧ u.counter d.ctr = { k with count := k.count + d.n } ∧
        u.deliveries = s.deliveries.eraseIdx idx ∧ u.cores = s.cores) ∧
    (k.armed = true → k.total ≤ k.count + d.n → k.count + d.n < 2 * k.total →
      (k.action ≤ 1 →
        ∃ u, exec (.counterDelivery idx) s = .next u ∧ u.counter d.ctr = fired ∧ u.deliveries = s.deliveries.eraseIdx idx ∧
          (k.action = 1 → ∀ c p since, ((s.coreAt c).strand .S).cond = .counter d.ctr p since → reached ph p = true →
            ((u.coreAt c).strand .S).woken = true)) ∧
      (k.action = 4 →
        ∃ u, exec (.counterDelivery idx) s = .next u ∧ u.counter d.ctr = fired ∧
          u.deliveries = s.deliveries.eraseIdx idx ++ [⟨k.arg, 1⟩]) ∧
      (∀ q, k.action = 2 → k.waiting = [] → s.queue? k.part k.arg = some q →
        ((∃ sl ∈ q.slots, sl.st = .free) →
          ∃ u r sl, exec (.counterDelivery idx) s = .next u ∧ u.counter d.ctr = fired ∧ u.queue? k.part k.arg = some r ∧
            sl ∈ r.slots ∧ sl.st = .ready ∧ sl.bytes = padTo q.size k.item ∧ sl.order = q.nextOrder ∧ sl.tries = 0) ∧
        ((∀ sl ∈ q.slots, sl.st ≠ .free) →
          ∃ u, exec (.counterDelivery idx) s = .next u ∧ u.counter d.ctr = { fired with waiting := [
              { phase := ph, action := 2, arg := k.arg, item := k.item, late := k.late, base := k.vbase }] } ∧
            u.queue? k.part k.arg = some q)))) ∧
  (∀ (s : State) (n : Nat), let k := s.counter n
    (k.waiting = [] → ∃ u, exec (.pendingActionRetry n) s = .next u ∧ u.counter n = k ∧ u.cores = s.cores) ∧
    (∀ w t q, k.waiting = w :: t → w.action = 2 → s.queue? k.part w.arg = some q →
      ((∃ sl ∈ q.slots, sl.st = .free) →
        ∃ u r sl, exec (.pendingActionRetry n) s = .next u ∧ u.counter n = { k with waiting := t } ∧
          u.queue? k.part w.arg = some r ∧ sl ∈ r.slots ∧ sl.st = .ready ∧ sl.bytes = padTo q.size w.item) ∧
      ((∀ sl ∈ q.slots, sl.st ≠ .free) →
        ∃ u, exec (.pendingActionRetry n) s = .next u ∧ u.counter n = k ∧ u.queue? k.part w.arg = some q))) ∧
  (∀ (s : State) (c n p since : Nat), ((s.coreAt c).strand .S).cond = .counter n p since →
    (since + 1024 ≤ s.cycle → reached (s.counter n).phase p = true →
      ∃ u, exec (.acwaitPoll c) s = .next u ∧ (u.coreAt c).strand .S = { (s.coreAt c).strand .S with woken := true } ∧
        u = { s with cores := u.cores } ∧ ∀ d, d ≠ c → u.coreAt d = s.coreAt d) ∧
    (s.cycle < since + 1024 ∨ reached (s.counter n).phase p = false → exec (.acwaitPoll c) s = .next s)) ∧
  (∀ (s : State) (n : Nat), ∃ u, exec (.counterDisarm n) s = .next u ∧
    u.counter n = { s.counter n with armed := false, count := 0, waiting := [], lines := [], late := [] } ∧
    (∀ m, m ≠ n → u.counter m = s.counter m) ∧ u.mem = s.mem ∧
    ∀ c p since, ((s.coreAt c).strand .S).cond = .counter n p since → ((u.coreAt c).strand .S).woken = true) ∧
  (∀ (s : State) (stack ctx pt : Nat), let key := 4 * stack + ctx
    ((∀ f ∈ s.prefetches, f.key = key → f.point ≠ pt) → exec (.walkPrefetchComplete stack ctx pt) s = .next s) ∧
    (∀ f, s.prefetches.find? (fun f => f.key == key && f.point == pt) = some f →
      let here := f.lines.filter (fun e => (s.fills.get e.1 []).contains e.2)
      ((∃ e ∈ here, s.admits (4 * e.1) e.2 = false) → exec (.walkPrefetchComplete stack ctx pt) s = .next s) ∧
      ((∀ e ∈ here, s.admits (4 * e.1) e.2 = true) →
      ∃ u, exec (.walkPrefetchComplete stack ctx pt) s = .next u ∧ u.prefetches = s.prefetches.erase f ∧
        (s.hostDir = [] → u.mem = s.mem) ∧
        (∀ e ∈ f.lines, e.2 ∉ u.fills.get e.1 []) ∧ (f.stale = true → u.walks = s.walks) ∧
        ∀ k t0, f.stale = false → (s.walk key).points.find pt = some (.deferred k t0 true) →
          (u.walk key).revisit = (s.walk key).revisit ++ [pt] ∧ (u.walk key).points.find pt = some (.deferred k t0 false))))

/-- R71, R99, R272, R360, R361, R363, R366 to R370, R373: an allocator starts nodes on free cores of its stack alone, with the
state of R71 and four strands at their sections, and starts one where a stage is eligible: the oldest item of the stage's
queue is TAKEN and stands at 0x7_FF80; a late-bound field is read once its counter's phase is reached, a failing check failing
the launch; a queued start begins its launch, and a launch quiet for 4 µs ends with its completion sector; a load is all or
nothing and starts no node: an object that passes its checks is loaded, its launches LOADED, its queues' slots FREE or READY
and its counters armed, at count 0 whatever its relocations write (DESIGN CHOICE, log 97), and one that fails a check leaves
the state as it was. -/
def Obligations.LaunchesRun : Prop :=
  (∀ (s : State) (k : Nat), ∃ u, exec (.allocateNode k) s = .next u ∧
    (∀ c, c / 40 ≠ k → u.coreAt c = s.coreAt c) ∧
    (∀ c, (s.coreAt c).node.phase ≠ .idle → u.coreAt c = { s.coreAt c with limit := (u.coreAt c).limit }) ∧
    (∀ c, (s.coreAt c).node.phase = .idle → (u.coreAt c).node.phase ≠ .idle →
      let n := u.coreAt c
      n.node.phase = .running ∧ n.sup = false ∧ (∀ st, (n.strand st).pc = BitVec.ofNat 64 (n.strand st).secBase ∧
        (n.strand st).cond = .ready ∧ (n.strand st).frozen = false) ∧
      (∀ r, n.getX r = 0) ∧ (∀ f, n.tokens f = 0) ∧ (∀ f, f < 12 → n.windowOf f = 16) ∧ (∀ r, n.getV r = VReg.zero) ∧
      (∀ t, n.getTile t = Tile.zero) ∧ n.grant = 0 ∧ n.node.staged = [] ∧ n.node.pinned = false) ∧
    (∀ p v, s.parts = [(p, v)] → v.gangHolds = [] → (∃ c ∈ s.coresOf p, c / 40 = k) → s.candidates p k ≠ [] →
      (∀ x ∈ s.candidates p k, x.stage.kind = .core ∧ x.stage.k = 1) →
      ∃ c, c / 40 = k ∧ (s.coreAt c).node.phase = .idle ∧ (u.coreAt c).node.phase = .running ∧
        ∀ x q i sl, s.candidates p k = [x] → s.queue? p x.stage.input = some q → q.ready.head? = some (i, sl) →
          (u.coreAt c).node.launch = x.lid ∧ (u.coreAt c).node.stage = x.st ∧ (u.coreAt c).node.slot = i ∧
          (u.coreAt c).node.attempt = sl.tries ∧ (u.coreAt c).window.readBytes 0x7FF80 128 = padTo 128 sl.bytes ∧
          ∃ r y, u.queue? p x.stage.input = some r ∧ r.slots[i]? = some y ∧ y.st = .taken)) ∧
  (∀ (s : State) (p qid i : Nat) (q : Queue) (sl : Slot) (d : List Byte) (l : Launch), s.queue? p qid = some q →
    q.ready.find? (fun e => e.2.late != []) = some (i, sl) → sl.late = [d] → s.launch? p q.launch = some l →
    let held := s.virtHeld (40 * s.queueHome p) p (leAt d 8 8) 8
    let b := s.askVirt p (leAt d 8 8) 8
    (l.state ≠ .running ∨ reached (s.counter (leAt d 2 2)).phase (leAt d 4 4) = false ∨ held = true →
      exec (.lateFieldResolve p qid) s = .next s) ∧
    (l.state = .running → reached (s.counter (leAt d 2 2)).phase (leAt d 4 4) = true → held = false →
      (s.hostDir = [] → b = { s with sent := b.sent, ports := b.ports, onPort := b.onPort }) ∧
      (∀ v, b.lateWord p (leAt d 8 8) = .ok v →
        ∃ u r, exec (.lateFieldResolve p qid) s = .next u ∧ u.queue? p qid = some r ∧ r.slots[i]? = some
          { sl with bytes := sl.bytes.take (leAt d 0 1) ++ leBytes 8 v ++ sl.bytes.drop (leAt d 0 1 + 8), late := [] }) ∧
      (∀ c, b.lateWord p (leAt d 8 8) = .error c →
        ∃ u, exec (.lateFieldResolve p qid) s = .next u ∧ s.FailsLaunch u p q.launch))) ∧
  (∀ (s : State) (p a : Nat), (s.entryOf p a = none → s.lateWord p a = .error 0x06) ∧
    (∀ e, s.entryOf p a = some e → e.r = false → s.lateWord p a = .error 0x07) ∧
    (∀ e pa, s.entryOf p a = some e → e.r = true → s.placeOf p e a = .dram pa →
      (pa / 16 ∈ s.poison → s.lateWord p a = .error 0x20) ∧ (pa / 16 ∉ s.poison → s.lateWord p a = .ok (s.memNat pa 8)))) ∧
  (∀ (s : State) (p : Nat),
    ((∀ st ∈ (s.part p).launchQ, ∃ l, s.launch? p (leAt st.bytes 0 2) = some l ∧ l.state = .running) →
      exec (.launchStart p) s = .next s) ∧
    (∀ st rest l, (s.part p).launchQ = st :: rest → s.launch? p (leAt st.bytes 0 2) = some l → l.state = .loaded →
      bitOf (leAt st.bytes 2 1) 1 = false →
      ∃ u m, exec (.launchStart p) s = .next u ∧ (u.part p).launchQ = rest ∧ u.launch? p (leAt st.bytes 0 2) = some m ∧
        m.state = .running ∧ m.committed = 0 ∧ m.done = leAt st.bytes 8 8 ∧
        m.prio = if bitOf (leAt st.bytes 2 1) 0 then leAt st.bytes 3 1 else l.declared)) ∧
  (∀ (s : State) (p lid t : Nat) (l : Launch), s.launch? p lid = some l → l.state = .running → l.quiet = some t →
    (s.gtc < t + 4000 ∨ s.quiescent p lid = false → exec (.launchComplete p lid) s = .next s) ∧
    (t + 4000 ≤ s.gtc → s.quiescent p lid = true →
      ∃ u m, exec (.launchComplete p lid) s = .next u ∧ u.launch? p lid = some m ∧ m.state = .ended ∧
        (l.done = 0 → u.mem = s.mem) ∧
        ∀ e, l.done ≠ 0 → s.doneOk p l.done = true → s.entryOf p l.done = some e → s.migration.redirects = [] → s.movingPages = [] →
          s.physAt p e (l.done - e.base) % 16 = 0 →
          u.mem.readBytes (s.physAt p e (l.done - e.base)) 16 =
            leBytes 2 lid ++ [0, 0] ++ leBytes 4 (min l.committed 0xFFFFFFFF) ++ leBytes 8 s.gtc)) ∧
  (∀ (s : State) (p : Nat) (req : LoadRequest), ∃ u, exec (.objectLoad p req) s = .next u ∧ u.cores = s.cores ∧
    u.engines = s.engines ∧ (∀ q, q ≠ p → u.part q = s.part q) ∧
    (req.bytes.length < 64 ∨ req.bytes.take 4 ≠ [0x53, 0x54, 0x4F, 0x00] ∨ leAt req.bytes 4 2 ≠ 1 → u = s) ∧
    ∀ lid m, u.launch? p lid = some m → s.launch? p lid = none → m.state = .loaded) ∧
  (∀ (s : State) (p : Nat) (req : LoadRequest), let b := req.bytes
    let n := leAt b 0xC 4
    (headerOk b = false ∨ sectionsOf b = none ∨ (∃ l, sectionsOf b = some l ∧ tablesOf l = none) →
      exec (.objectLoad p req) s = .next s) ∧
    (∀ l t, headerOk b = true → sectionsOf b = some l → tablesOf l = some t →
      (countsOk l n = false ∨ t.ok n = false ∨ canvasRecsOk (bytesOf l 7) = false ∨ s.needsOk b = false ∨
        tokensOk (bytesOf l 5) n = false ∨ s.loadTables p req l t = none → exec (.objectLoad p req) s = .next s) ∧
      (∀ v, countsOk l n = true → t.ok n = true → canvasRecsOk (bytesOf l 7) = true → s.needsOk b = true →
        tokensOk (bytesOf l 5) n = true → s.loadTables p req l t = some v →
        exec (.objectLoad p req) s = .next v ∧ ∃ t1 : Tables, (t.relocs = [] → t1 = t) ∧ t1.launches ≠ [] ∧
          (∀ i, i < t1.launches.length → ∃ m, v.launch? p (req.launchIds.getD i 0) = some m ∧ m.state = .loaded ∧
            m.committed = 0) ∧
          (∀ i, i < t1.queues.length → ∃ q, v.queue? p (req.queueIds.getD i 0) = some q ∧
            ∀ sl ∈ q.slots, sl.st = .free ∨ sl.st = .ready) ∧
          ∀ e ∈ t1.counters.zip req.counterIds, (v.counter e.2).armed = true ∧ (v.counter e.2).part = p ∧
            (v.counter e.2).count = 0 ∧ (v.counter e.2).total = leAt e.1 0x18 8)))

/-- R72, R73, R284, R371, R381, R382, R384 to R388: a pre-emption with OP 1 of one core discards its node, whose item is READY
again with its attempts as they were, at once or, where a strand has still to come to a boundary, once it has; a pinned node
runs to its end, and one that is to end already only counts as asked for; a write of PMCMD that comes while BUSY, or names
what is not of the partition, is discarded and counts PMREJ, whatever its OP; a hold ends with a release of the same scope; a
node that drains in time is saved, its core free; one that does not is discarded; a restored node has the registers, the PCs
and the scratchpad of its image; a GO stops starts, and at the quiet point the shadow table becomes active whole or is refused
with a reason. The saving of a gang and the binding of an image's handles are left out. The model's own choices, which no rule
states: that a pre-emption discards, and asks for its saves, in its own event (log 56); that of several words saved under tag
0xE PSNA names the last, by where its saved contents begin (log 69); and that LSC is loaded as it stands (log 70). -/
def Obligations.NodesArePreempted : Prop :=
  (∀ (s : State) (p : Nat) (v : Word),
    (v.extractLsb' 0 2 = 2 → exec (.preempt p v) s = .next s) ∧ (v.extractLsb' 0 2 = 1 → exec (.release p v) s = .next s) ∧
    (s.boot.failed = true → exec (.preempt p v) s = .next s ∧ exec (.release p v) s = .next s) ∧
    (∀ i, s.boot.failed = false → i = .preempt p v ∧ v.extractLsb' 0 2 ≠ 2 ∨ i = .release p v ∧ v.extractLsb' 0 2 ≠ 1 →
      (s.pmBusy p = true ∨ s.pmScope p v.toNat = none → ∃ u, exec i s = .next u ∧ s.Counted u p 0x0C) ∧
      (s.pmBusy p = false → s.pmScope p v.toNat ≠ none → v.extractLsb' 0 2 = 0 ∨ v.extractLsb' 0 2 = 3 → exec i s = .next s)) ∧
    (∀ c, s.boot.failed = false → v.extractLsb' 0 2 = 1 → s.pmBusy p = false → v.extractLsb' 4 2 = 0 → c = (v.extractLsb' 30 10).toNat →
      s.owns p c = true → s.present c = true → (s.coreAt c).UnderWay → (s.coreAt c).node.part = p → (s.coreAt c).node.gang = [] →
      ((s.coreAt c).strand .M).pending = none →
      (v.getLsbD 3 = true ∨ ∀ g, s.stageOf p (s.coreAt c).node.launch (s.coreAt c).node.stage = some g → g.long = false) →
      ∃ u, exec (.preempt p v) s = .next u ∧ (v.getLsbD 2 = true → Scope.core c ∈ (u.part p).holds) ∧ (u.part p).savedN = 0 ∧
        (∀ d, d ≠ c → (u.coreAt d).node = (s.coreAt d).node) ∧
        ((s.coreAt c).node.pinned = false → s.CanGo c none →
          (u.coreAt c).node.phase = .idle ∧ (u.part p).discardedN = 1 ∧ s.ItemReturns u (s.coreAt c).node 0) ∧
        ((s.coreAt c).node.pinned = false → (s.coreAt c).node.ending = none → ¬ s.CanGo c none →
          (u.coreAt c).node = { (s.coreAt c).node with saveAt := none, ending := some .discard, pm := true } ∧
          (u.part p).discardedN = 0) ∧
        ((s.coreAt c).node.ending ≠ none → (u.coreAt c).node = { (s.coreAt c).node with pm := true } ∧ (u.part p).discardedN = 0) ∧
        ((s.coreAt c).node.pinned = true → (s.coreAt c).node.ending = none →
          (u.coreAt c).node = { (s.coreAt c).node with saveAt := none, pm := true } ∧ (u.part p).discardedN = 0)) ∧
    (∀ h, s.boot.failed = false → v.extractLsb' 0 2 = 2 → s.pmBusy p = false → s.pmScope p v.toNat = some h →
      ∃ u, exec (.release p v) s = .next u ∧ u.cores = s.cores ∧ u.mem = s.mem ∧
        ∀ x, x ∈ (u.part p).holds ↔ x ∈ (s.part p).holds ∧ x ≠ h)) ∧
  (∀ (s : State) (c t : Nat), let nd := (s.coreAt c).node
    ((s.coreAt c).strand .M).pending = none →
    (nd.saveAt = none → exec (.nodeSaveComplete c) s = .next s ∧ exec (.saveTimeout c) s = .next s) ∧
    (nd.saveAt = some t →
      (State.drained { s with core := c } = false → exec (.nodeSaveComplete c) s = .next s) ∧
      (∀ e i, State.drained { s with core := c } = true → s.gtc ≤ t + 40000 → s.savePlace nd.part = some (e, i) →
        s.virtHeld c nd.part (s.saveAddr nd.part i) 0xB0000 = false →
        ∃ u x, exec (.nodeSaveComplete c) s = .next u ∧ (u.coreAt c).node.phase = .idle ∧
          (u.part nd.part).saved = (s.part nd.part).saved ++ [x] ∧ x.slot = i ∧ x.core = c ∧
          x.node = { nd with saveAt := none, pm := false } ∧ (u.part nd.part).savedN = (s.part nd.part).savedN + 1) ∧
      (s.gtc < t + 40000 → exec (.saveTimeout c) s = .next s) ∧
      (t + 40000 ≤ s.gtc → (s.coreAt c).UnderWay → nd.gang = [] →
        ∃ u, exec (.saveTimeout c) s = .next u ∧
          (nd.pinned = false → s.CanGo c none → (u.coreAt c).node.phase = .idle ∧ s.ItemReturns u nd 0) ∧
          (nd.pinned = false → nd.ending = none → ¬ s.CanGo c none →
            (u.coreAt c).node = { nd with saveAt := none, ending := some .discard, pm := true }) ∧
          (nd.pinned = true → nd.ending = none → (u.coreAt c).node = { nd with saveAt := none, pm := true })))) ∧
  (∀ (s : State) (c : Nat), let nd := (s.coreAt c).node
    nd.ending = some .discard → nd.pm = true → nd.pinned = false → (s.coreAt c).UnderWay → nd.gang = [] → s.atRest c = true →
    ((s.endStopped c).coreAt c).node.phase = .idle ∧ s.ItemReturns (s.endStopped c) nd 0) ∧
  (∀ (s : State) (p c : Nat),
    ((s.part p).saved = [] → exec (.nodeRestore p c) s = .next s) ∧
    (∀ x e g, (s.part p).saved = [x] → x.node.gang = [] → s.blockedStage p x.node.launch x.node.stage = false →
      s.saveArea p = some e → s.stageOf p x.node.launch x.node.stage = some g →
      s.freeFor p x.node.launch x.node.stage c = true → s.classesFit (c / 40) [s.savedClass p x.slot e] = true →
      s.restoreHeld p c e x.slot = false → s.hostDir = [] →
      let b := s.readImage p x.slot e
      imageOk b = true → s.imageMarks p x.slot e = [] → leAt b 0x77 1 = 0 →
      ∃ u, exec (.nodeRestore p c) s = .next u ∧ (u.part p).saved = [] ∧
        (let k := u.coreAt c
         k.node.phase = .running ∧ k.node.launch = x.node.launch ∧ k.node.staged = x.node.staged ∧
         (∀ st, (k.strand st).pc = BitVec.ofNat 64 (leAt b (8 * st.num) 8)) ∧
         (∀ r, r ≠ 0 → k.getX r = BitVec.ofNat 64 (leAt b (0x400 + 8 * r.toNat) 8)) ∧
         (∀ r, k.getQ r = BitVec.ofNat 32 (leAt b (0x580 + 4 * r.toNat) 4)) ∧
         (∀ r n, n < 64 → (k.getV r).lane n = BitVec.ofNat 32 (leAt b (0x2000 + 256 * r.toNat + 4 * n) 4)) ∧
         (∀ r, (k.getV r).tag = if tagAt b 0x60 r.toNat = 0xE then 0xF else tagAt b 0x60 r.toNat) ∧
         (∀ off, (imagePoisoned b).getLast? = some off → k.psna = BitVec.ofNat 64 off ∧ k.psns = 2) ∧
         k.grant.toNat = leAt b 0x58 1 % 8 ∧ k.req.toNat = leAt b 0x58 1 / 8 % 8 ∧
         k.lsc = BitVec.ofNat 64 (leAt b 0x38 8) ∧ k.srseed = BitVec.ofNat 64 (leAt b 0x40 8) ∧
         ∀ a, a < 0x80000 → k.window.read a = b.getD (0x30000 + a) 0))) ∧
  (∀ (s : State) (p : Nat) (v : Word),
    (v.getLsbD 0 = false ∨ (s.part p).going = true ∨ s.boot.failed = true → exec (.go p v) s = .next s) ∧
    (v.getLsbD 0 = true → (s.part p).going = false → s.boot.failed = false → ∃ u, exec (.go p v) s = .next u ∧ (u.part p).going = true ∧
      (∀ l g, u.blockedStage p l g = true) ∧ (v.getLsbD 1 = false → u.cores = s.cores ∧ u.mem = s.mem))) ∧
  (∀ (s : State) (p : Nat),
    ((s.part p).going = false ∨ s.busyCores p ≠ [] → exec (.rangeTableActivation p) s = .next s) ∧
    ((s.part p).going = true → s.busyCores p = [] → ∃ u, exec (.rangeTableActivation p) s = .next u ∧ (u.part p).going = false ∧
      (s.tableFault p (s.part p).shadow = none → (u.part p).active = (s.part p).shadow ∧ (u.part p).rtRefused = false) ∧
      (∀ i r, s.tableFault p (s.part p).shadow = some (i, r) → (u.part p).active = (s.part p).active ∧
        (u.part p).rtRefused = true ∧ (u.part p).rtReason = r ∧ (u.part p).rtEntry = i)))

/-- R383, R457, R466, R467: a migration is refused, blocks its source page, copies it, and puts its redirect in force with the
bytes and marks at the destination; a part past its threshold is repaired: a row as a page is moved, in place; a channel by
migrating its pages one by one until it is listed, or not at all without enough free pages; a core once it is emptied. The
model's own choices, which no rule states: what a migration refuses while another is under way, and pages that have moved before
(log 20); that a page moves to the lowest free one (log 25); the numbers of Newt's reports (log 28); the thresholds, and that a
channel into which a page has moved is not retired (log 85). -/
def Obligations.PagesMoveAndPartsAreRepaired : Prop :=
  (∀ (s : State) (v : Word), let src := v.toNat / 2 ^ 40
    let dst := v.toNat / 2 ^ 16 % 2 ^ 24
    let busy : Prop := s.migration.st = .blocked ∨ s.migration.st = .copying ∨ s.migration.st = .replay
    (s.boot.failed = true → exec (.migcmd v) s = .next s) ∧
    (s.boot.failed = false → busy → exec (.migcmd v) s = .next
      (if s.migration.sparing = none then s else { s with migration := { s.migration with sparing := some .refused } })) ∧
    (s.boot.failed = false → s.migration.st = .idle ∨ s.migration.st = .done ∨ s.migration.st = .refused →
      ((s.pageOk src = true ∧ s.pageOk dst = true ∧ src ∉ s.takenPages ∧ dst ∉ s.takenPages ∧ s.pageMapped dst = false) →
        exec (.migcmd v) s = .next
          { s with migration := { s.migration with st := .blocked, src := src, dst := dst, queue := [], stalled := [] } }) ∧
      ((s.pageOk src = false ∨ s.pageOk dst = false ∨ src ∈ s.takenPages ∨ dst ∈ s.takenPages ∨ s.pageMapped dst = true) →
        exec (.migcmd v) s = .next { s with migration := { s.migration with st := .refused } }))) ∧
  (∀ (s : State), s.mem.wf = true →
    let src := s.migration.src
    let dst := s.migration.dst
    let copied (u : State) : Prop :=
      (∀ o, o < 65536 → u.mem.read (dst * 65536 + o) = s.mem.read (src * 65536 + o)) ∧
      (∀ a, a / 65536 ≠ dst → u.mem.read a = s.mem.read a) ∧
      (∀ o, o < 4096 → (dst * 4096 + o ∈ u.poison ↔ src * 4096 + o ∈ s.poison)) ∧
      (∀ x, x / 4096 ≠ dst → (x ∈ u.poison ↔ x ∈ s.poison))
    (s.migration.st = .blocked → ∃ u, exec .migrationCopy s = .next u ∧ u.migration = { s.migration with st := .copying } ∧
      copied u ∧ u.cores = s.cores) ∧
    (s.migration.st = .copying → s.migration.sparing = none → src ≠ dst → (∀ r ∈ s.migration.redirects, r.1 ≠ src) →
      ∃ u, exec .migrationRedirect s = .next u ∧ u.migration.st = .replay ∧ copied u ∧
        (∀ o, o < 65536 → u.redirect (src * 65536 + o) = dst * 65536 + o) ∧
        (∀ a, a / 65536 ≠ src → u.redirect a = s.redirect a) ∧ ∀ c, (u.coreAt c).x = (s.coreAt c).x) ∧
    (s.migration.st = .copying → s.migration.sparing ≠ none →
      exec .migrationRedirect s = .next { s with migration := { s.migration with st := .replay } })) ∧
  (∀ (s : State),
    (s.migration.st ≠ .blocked → exec .migrationCopy s = .next s) ∧
    (s.migration.st ≠ .copying → exec .migrationRedirect s = .next s) ∧
    (s.migration.st ≠ .replay → exec .migrationReplay s = .next s) ∧
    (s.migration.st = .replay → s.migration.queue = [] → s.migration.stalled = [] → s.migration.sparing = none →
      exec .migrationReplay s = .next { s with migration := { s.migration with st := .done } }) ∧
    (∀ old, s.migration.st = .replay → s.migration.queue = [] → s.migration.stalled = [] → s.migration.sparing = some old →
      ∃ u, exec .migrationReplay s = .next u ∧ u.migration = { s.migration with st := old, sparing := none } ∧
        u.config.spareRows = s.config.spareRows ++ [s.migration.src] ∧
        (u.boot.bank u.boot.active).record.spareRows = (s.boot.bank s.boot.active).record.spareRows ++ [s.migration.src] ∧
        u.mem = s.mem ∧ u.cores = s.cores)) ∧
  (∀ (s : State) (chan p : Nat), s.partOf chan = some p →
    let far : Prop := (s.freePages p chan).length < (s.livePages chan).length ∨
      ∃ r ∈ s.migration.redirects, r.2 / 8192 = chan
    (s.boot.failed = true → exec (.channelRetirement chan) s = .next s) ∧
    (Repair.channel chan ∉ s.repairs → s.chanTally.get chan 0 ≤ Config.repairThreshold 2 ∨ chan ∈ s.config.retired →
      exec (.channelRetirement chan) s = .next s) ∧
    (s.boot.failed = false → Repair.channel chan ∉ s.repairs → Config.repairThreshold 2 < s.chanTally.get chan 0 →
      chan ∉ s.config.retired →
      (far → exec (.channelRetirement chan) s = .next { s with sent := s.sent ++ [.pldm 5 (BitVec.ofNat 64 chan)] }) ∧
      (¬ far → exec (.channelRetirement chan) s =
        exec (.channelRetirement chan) { s with repairs := s.repairs ++ [.channel chan] })) ∧
    (s.boot.failed = false → Repair.channel chan ∈ s.repairs → (s.movingPages ≠ [] → exec (.channelRetirement chan) s = .next s) ∧
      (s.movingPages = [] →
        (s.livePages chan = [] →
          ∃ u, exec (.channelRetirement chan) s = .next u ∧ u.config.retired = s.config.retired ++ [chan] ∧ u.mem = s.mem ∧
            u.cores = s.cores) ∧
        (∀ g d, (s.livePages chan).head? = some g → (s.freePages p chan).head? = some d → s.pageOk g = true →
          g ∉ s.takenPages → s.pageOk d = true →
          ∃ u, exec (.channelRetirement chan) s = .next u ∧ u.migration.st = .blocked ∧ u.migration.src = g ∧
            u.migration.dst = d ∧ s.pageMapped d = false ∧ d / 8192 ≠ chan ∧ s.owns p (d / 8192) = true) ∧
        (s.livePages chan ≠ [] → s.freePages p chan = [] →
          ∃ u, exec (.channelRetirement chan) s = .next u ∧ u.migration = s.migration ∧ u.config = s.config ∧ u.mem = s.mem ∧
            u.sent = s.sent ++ [.pldm 5 (BitVec.ofNat 64 chan)])))) ∧
  (∀ (s : State) (row : Nat),
    (s.boot.failed = true ∨ s.rowTally.get row 0 ≤ Config.repairThreshold 1 ∨ row ∈ s.config.spareRows ∨ s.movingPages ≠ [] →
      exec (.rowSparing row) s = .next s) ∧
    (s.boot.failed = false → Config.repairThreshold 1 < s.rowTally.get row 0 → row ∉ s.config.spareRows → s.movingPages = [] →
      s.pageOk row = true → exec (.rowSparing row) s = .next { s with migration :=
        { s.migration with st := .blocked, src := row, dst := row, sparing := some s.migration.st, queue := [], stalled := [] } })) ∧
  (∀ (s : State) (c : Nat), let used := (s.config.spares.filter (fun e => e.1 / 40 == c / 40)).length
    (s.boot.failed = true ∨ s.partOf c = none ∨ s.coreRepair? c = none ∧ s.coreTally.get c 0 ≤ Config.repairThreshold 0 →
      exec (.spareCore c) s = .next s) ∧
    (∀ p, s.boot.failed = false → s.partOf c = some p → s.coreRepair? c = none → Config.repairThreshold 0 < s.coreTally.get c 0 →
      (2 ≤ used → exec (.spareCore c) s = .next { s with sent := s.sent ++ [.pldm 6 (BitVec.ofNat 64 c)] }) ∧
      (used < 2 → exec (.spareCore c) s = exec (.spareCore c)
        { s with repairs := s.repairs ++ [.core c ((s.part p).holds.contains (.core c))] })) ∧
    (∀ p held, s.boot.failed = false → s.partOf c = some p → s.coreRepair? c = some held →
      (s.pmBusy p = true → exec (.spareCore c) s = .next s) ∧
      (s.pmBusy p = false → (s.coreAt c).node.phase = .idle →
        ∃ u, exec (.spareCore c) s = .next u ∧ (∃ n, u.config.spares = s.config.spares ++ [(c, n)]) ∧ u.mem = s.mem ∧
          u.coreAt c = { s.coreAt c with spared := true } ∧ (held = false → Scope.core c ∉ (u.part p).holds)) ∧
      (s.pmBusy p = false → (s.coreAt c).node.phase ≠ .idle →
        ∃ u, exec (.spareCore c) s = .next u ∧ u.config = s.config ∧ Scope.core c ∈ (u.part p).holds)))

/-- R398, R400, R402, R404 to R407, R409, R410: a solve's START finds the residual and the norms
and ends CONVERGED within the tolerance; SETUP without a preconditioner begins from r_0; an iteration ends in breakdown when
p·Ap is not positive, and else is completed; each completed iteration keeps the best norm, then ends CONVERGED or MAXIT; a
deadline ends each phase with its own status; the verify product gives the true residual; the end writes the returned iterate
at XVEC, then the result half at the record, and frees the controllers and the node. The model's own choices, which no rule
states: the places of r and p in the work area (log 23); a whole phase or iteration as one event, with x_0 as it was read at
acceptance and the blocks of a product in the order of the walk contexts (log 57); and that poison met in reading the returned
iterate ends the solve with status 8 (log 90). -/
def Obligations.SolvesAdvance : Prop :=
  (∀ (s : State) (k : Nat) (order : List Nat), let a := s.solveBegin k (s.solver k) order
    let v := a.solver k
    let h := v.head
    let n := svN h
    let runs : Prop := v.late s.gtc = false ∧ s.solveRuns (s.solver k) = true
    (¬ runs → exec (.solveIterationComplete k order) s = .next s) ∧
    (∀ y b, v.phase = .start → runs → a.product v v.xZero = .ok y → a.ctlWords v.part (svB h) n = .ok b →
      let r := (b.zip y).map (fun e => Fmt.f32.round .rne ((Fmt.f32.decode e.1).sub (Fmt.f32.decode e.2)))
      let rn := nrm h r
      let bn := nrm h b
      let fin : Prop := (Fmt.f64.decode rn).isFin = true ∧ (Fmt.f64.decode bn).isFin = true
      let small : Prop := (Fmt.f64.decode rn).le (Fmt.f64.decode
        (Fmt.f64.round .rne ((Fmt.f64.decode (svTol h)).mul (Fmt.f64.decode (BitVec.ofNat 64 bn).toNat)))) = true
      ∃ u, exec (.solveIterationComplete k order) s = .next u ∧ (u.solver k).rn = BitVec.ofNat 64 rn ∧
        (u.solver k).bn = BitVec.ofNat 64 bn ∧ (u.solver k).bestRn = BitVec.ofNat 64 rn ∧ (u.solver k).iter = v.iter ∧
        u.cores = s.cores ∧ (¬ fin → (u.solver k).status = 7) ∧ (fin → small → (u.solver k).status = 1) ∧
        (fin → ¬ small → (u.solver k).phase = .setup)) ∧
    (∀ r, v.phase = .setup → runs → svMethod h = 0 → svPrec h = 0 → a.ctlWords v.part (vecAt h 2) n = .ok r →
      (Fmt.f64.decode (dot h r r)).isFin = true →
      ∃ u, exec (.solveIterationComplete k order) s = .next u ∧ (u.solver k).phase = .iterate ∧
        (u.solver k).rho = BitVec.ofNat 64 (dot h r r) ∧ (u.solver k).pivCnt = 0 ∧ (u.solver k).iter = v.iter) ∧
    (∀ x r p q, v.phase = .iterate → svMethod h = 0 → runs →
      a.ctlWords v.part v.buffers.1 n = .ok x → a.ctlWords v.part (vecAt h 2) n = .ok r → a.ctlWords v.part (vecAt h 3) n = .ok p →
      a.product v p = .ok q → (Fmt.f64.decode (dot h p q)).isFin = true → (Fmt.f64.decode v.rho.toNat).isFin = true →
      let stops : Prop := (Fmt.f64.decode (dot h p q)).le FVal.zero = true ∨ (Fmt.f64.decode v.rho.toNat).isZero = true
      let alpha := Fmt.f64.round .rne ((Fmt.f64.decode v.rho.toNat).div (Fmt.f64.decode (dot h p q)))
      let minus := Fmt.f64.round .rne (Fmt.f64.decode alpha).neg
      let r1 := (r.zip q).map (fun e =>
        Fmt.f32.round .rne ((Fmt.f32.decode e.1).add ((Fmt.f64.decode minus).mul (Fmt.f32.decode e.2))))
      (stops → ∃ u, exec (.solveIterationComplete k order) s = .next u ∧ (u.solver k).status = 6 ∧ (u.solver k).iter = v.iter ∧
        (u.solver k).bestRn = v.bestRn ∧ u.mem = a.mem) ∧
      (¬ stops → (Fmt.f64.decode alpha).isFin = true → (Fmt.f64.decode (nrm h r1)).isFin = true →
        ∃ u, exec (.solveIterationComplete k order) s = .next u ∧ (u.solver k).iter = v.iter + 1 ∧
          (u.solver k).rn = BitVec.ofNat 64 (nrm h r1) ∧ u.cores = s.cores))) ∧
  (∀ (v : Solver) (rn : Nat) (buf : Bool), let w := v.complete rn buf
    let better := (Fmt.f64.decode rn).lt (Fmt.f64.decode v.bestRn.toNat)
    w.iter = v.iter + 1 ∧ w.rn = BitVec.ofNat 64 rn ∧
    (better = true → w.bestRn = BitVec.ofNat 64 rn ∧ w.bestIter = v.iter + 1 ∧ w.bestBuf = buf) ∧
    (better = false → w.bestRn = v.bestRn ∧ w.bestIter = v.bestIter ∧ w.bestBuf = v.bestBuf) ∧
    (v.converged rn = true → w.status = 1) ∧ (v.converged rn = false → svMaxit v.head ≤ v.iter + 1 → w.status = 2) ∧
    (v.converged rn = false → v.iter + 1 < svMaxit v.head → w.phase = v.phase ∧ w.status = v.status)) ∧
  (∀ (s : State) (k : Nat), let v := s.solver k
    (v.late s.gtc = false → exec (.solveDeadline k) s = .next s) ∧
    (v.late s.gtc = true → ∃ u, exec (.solveDeadline k) s = .next u ∧ u.mem = s.mem ∧ u.cores = s.cores ∧
      (v.phase = .start → (u.solver k).status = 5 ∧ (u.solver k).phase = .finishing) ∧
      (v.phase = .setup → (u.solver k).status = 4 ∧ (u.solver k).phase = .finishing) ∧
      (v.phase = .iterate → (u.solver k).status = 3 ∧ (u.solver k).phase = if svVerify v.head then .verify else .finishing) ∧
      (v.phase = .verify → (u.solver k).phase = .finishing ∧ (u.solver k).verified = false ∧ (u.solver k).status = v.status))) ∧
  (∀ (s : State) (k : Nat) (order : List Nat), let a := s.solveBegin k (s.solver k) order
    let v := a.solver k
    (v.phase ≠ .verify ∨ v.late s.gtc = true ∨ s.solveRuns (s.solver k) = false →
      exec (.solveVerifyProduct k order) s = .next s) ∧
    (∀ x y b, v.phase = .verify → v.late s.gtc = false → s.solveRuns (s.solver k) = true →
      a.ctlWords v.part (vecAt v.head (if v.bestBuf then 1 else 0)) (svN v.head) = .ok x → a.product v x = .ok y →
      a.ctlWords v.part (svB v.head) (svN v.head) = .ok b →
      ∃ u, exec (.solveVerifyProduct k order) s = .next u ∧ (u.solver k).phase = .finishing ∧ (u.solver k).verified = true ∧
        (u.solver k).trueres = BitVec.ofNat 64 (nrm v.head (residual b y)) ∧ (u.solver k).status = v.status ∧ u.mem = a.mem)) ∧
  (∀ (s : State) (k : Nat), let v := s.solver k
    let n := svN v.head
    let from_ := vecAt v.head (if v.bestBuf then 1 else 0)
    let early : Prop := v.status = 5 ∨ v.status = 8 ∧ v.known = false
    let held : Prop := s.virtHeld v.core v.part from_ (4 * n) = true ∨ s.virtHeld v.core v.part (svX v.head) (4 * n) = true
    (v.phase ≠ .finishing → v.phase ≠ .writing → exec (.solveFinish k) s = .next s) ∧
    (v.phase = .finishing → held → exec (.solveFinish k) s = .next s) ∧
    (∀ x, v.phase = .finishing → ¬ held → s.mem.wf = true → s.hostDir = [] → s.migration.redirects = [] →
      (early ∧ x = v.xZero ∨ ¬ early ∧ s.ctlWords v.part from_ n = .ok x) →
      ∃ u, exec (.solveFinish k) s = .next u ∧ u.solver k = { v with phase := .writing } ∧ u.cores = s.cores ∧
        s.Lands u v.part (svX v.head) (x.flatMap (fun w => leBytes 4 w))) ∧
    (∀ f, v.phase = .finishing → ¬ held → ¬ early → v.status ≠ 8 → s.hostDir = [] → s.ctlWords v.part from_ n = .error f →
      ∃ u, exec (.solveFinish k) s = .next u ∧ (u.solver k).status = 8 ∧ (u.solver k).phase = .finishing ∧
        (u.solver k).iter = v.iter)) ∧
  (∀ (s : State) (k : Nat), let v := s.solver k
    let held := s.virtHeld v.core v.part (v.addr + 0x80) 128
    (v.phase = .writing → held = true → exec (.solveFinish k) s = .next s) ∧
    (v.phase = .writing → held = false → ∃ u f1 f2, exec (.solveFinish k) s = .next u ∧ u.solver k = Solver.reset ∧
      (∀ j, (s.solver j).phase = .reserved k → u.solver j = Solver.reset) ∧
      (∀ j, j ≠ k → (s.solver j).phase ≠ .reserved k → u.solver j = s.solver j) ∧
      ((s.coreAt v.core).node.solving = some k → (u.coreAt v.core).node.solving = none) ∧
      (∀ c, (u.coreAt c).x = (s.coreAt c).x) ∧
      (s.mem.wf = true → s.hostDir = [] → s.migration.redirects = [] →
        s.Lands u v.part (v.addr + 0x80) (v.result (v.status == 8 && !v.known) s.gtc f1 f2)))) ∧
  (∀ (v : Solver) (early : Bool) (gtc f1 f2 : Nat), let b := v.result early gtc f1 f2
    b.length = 128 ∧ leAt b 0 1 = v.status % 2 ^ 8 ∧ ((leAt b 1 1 % 2 = 1 ↔ v.verified = true)) ∧
    (leAt b 1 1 / 2 = 1 ↔ v.replaced ≠ []) ∧ leAt b 2 2 = 0 ∧ leAt b 4 4 = v.iter % 2 ^ 32 ∧
    (v.status = 5 → leAt b 8 8 = Fmt.f64.nanBits ∧ leAt b 0x18 8 = Fmt.f64.nanBits) ∧
    (v.status ≠ 5 → early = false → leAt b 8 8 = v.bestRn.toNat ∧ leAt b 0x18 8 = v.bn.toNat) ∧
    leAt b 0x10 8 = (if v.verified then v.trueres.toNat else Fmt.f64.nanBits) ∧
    leAt b 0x20 8 = v.gtcAcc % 2 ^ 64 ∧ leAt b 0x28 8 = gtc % 2 ^ 64 ∧ leAt b 0x30 4 = v.bestIter % 2 ^ 32 ∧
    leAt b 0x34 4 = v.pivCnt % 2 ^ 32 ∧ leAt b 0x38 4 = v.pivFirst.getD 0xFFFFFFFF % 2 ^ 32 ∧ ∀ i, 0x3C ≤ i → b.getD i 0 = 0)

/-- R162, R446, R449 to R454, R470: the first request that fits its stack's allotment is granted, and one that can never fit
is set aside; allotments follow R470; a cap is clamped to 1,700 W, and below 190 W every limit is 0; HALT holds every start; a
stack at 95 °C or more loses a tenth of its limits for each step, of which 100 µs part any two, at 105 °C everything is held
until every stack that asked for it is below 90 °C and the side-band controller releases it, and at 115 °C the rails go off.
Read from the rules by inference (DEDUCED): that the hold ends by the controller's own turn and only once every stack that
asked has read below 90 °C (log 62), and that a cap acts at once while the allotments follow in their own event (log 54). -/
def Obligations.PowerIsManaged : Prop :=
  (∀ (s : State) (k : Nat), let m := s.stackPower k
    (m.queue = [] → exec (.pacqGrant k) s = .next s) ∧
    (∀ r t, m.queue = r :: t → r.cls < 8 → let c := r.core
      let cls := r.cls
      (s.fitsAlone k cls = true → s.grantSum k (some (c, cls)) ≤ m.allot * 1000 →
        ∃ u, exec (.pacqGrant k) s = .next u ∧ (u.coreAt c).grant = BitVec.ofNat 3 cls ∧ (u.coreAt c).req = BitVec.ofNat 3 cls ∧
          (u.coreAt c).pend = false ∧ (u.stackPower k).queue = t ∧ (u.coreAt c).x = (s.coreAt c).x ∧ u.mem = s.mem ∧
          (((s.coreAt c).strand .S).cond = .pacq → ((u.coreAt c).strand .S).cond = .ready)) ∧
      (s.fitsAlone k cls = true → m.allot * 1000 < s.grantSum k (some (c, cls)) → exec (.pacqGrant k) s = .next s) ∧
      (s.fitsAlone k cls = false → t = [] →
        ∃ u, exec (.pacqGrant k) s = .next u ∧ (u.stackPower k).queue = [] ∧ (∀ x, x ∈ (u.stackPower k).aside ↔ x ∈ m.aside ∨ x = { r with counted := true }) ∧
          u.cores = s.cores ∧ u.mem = s.mem))) ∧
  (∀ (s : State), ∃ u, exec .allotmentUpdate s = .next u ∧ (∀ k, k < 16 → (u.stackPower k).allot = s.allotmentOf k) ∧
    u.mem = s.mem ∧ ∀ c, u.coreAt c = { s.coreAt c with limit := (u.coreAt c).limit }) ∧
  (∀ (s : State) (v : Word), let cap := min (v.toNat % 2 ^ 16) 1700
    (s.boot.failed = true → exec (.capw v) s = .next s) ∧
    (s.boot.failed = false → ∃ u, exec (.capw v) s = .next u ∧ u.pkcap.toNat = v.toNat / 2 ^ 63 * 2 ^ 63 + cap ∧
      (u.belowFloor = true ↔ cap < 190) ∧ (190 ≤ cap → u.halted = false) ∧ u.mem = s.mem ∧
      (s.floorSum ≤ cap → u.fscale = 100) ∧ (cap < s.floorSum → u.fscale = 100 * cap / s.floorSum) ∧
      (∀ c, cap < 190 → c < 640 → (s.cores.find c).isSome = true → (u.coreAt c).limit = 0) ∧
      ∀ c, u.coreAt c = { s.coreAt c with limit := (u.coreAt c).limit })) ∧
  (∀ (s : State),
    (s.belowFloor = true → s.pkcap.getLsbD 63 = true → s.halted = false →
      ∃ u, exec .halt s = .next u ∧ u.halted = true ∧ ∀ p l g, u.blockedStage p l g = true) ∧
    (s.belowFloor = false ∨ s.pkcap.getLsbD 63 = false ∨ s.halted = true → exec .halt s = .next s)) ∧
  (∀ (s : State) (k temp : Nat), let m := s.stackPower k
    let n := if 95 ≤ temp then min 10 (m.steps + 1) else if temp < 90 then m.steps - 1 else m.steps
    let due : Prop := ∀ t, m.stepped = some t → t + 100000 ≤ s.gtc
    (n = m.steps ∨ ¬ due → exec (.thermalThrottle k temp) s = .next s) ∧
    (n ≠ m.steps → due → ∃ u, exec (.thermalThrottle k temp) s = .next u ∧ u.mem = s.mem ∧
      u.stackPower k = { m with steps := n, stepped := some s.gtc } ∧
      (u.throt = true ↔ s.hot = true ∨ ∃ e ∈ u.power, 0 < e.2.steps) ∧
      (∀ c, c / 40 = k → (s.cores.find c).isSome = true → let b := budget (s.coreAt c).grant.toNat
        let sum := s.grantSum k none
        let a := m.allot * 1000
        (u.coreAt c).limit = if s.hot = true ∨ s.belowFloor = true then 0
          else (if sum ≤ a then b else b * a / sum) * (10 - min n 10) / 10) ∧
      (∀ c, c / 40 ≠ k → u.coreAt c = s.coreAt c) ∧
      ∀ c, u.coreAt c = { s.coreAt c with limit := (u.coreAt c).limit })) ∧
  (∀ (s : State) (k temp : Nat),
    (105 ≤ temp → s.hot = false → ∃ u, exec (.thermalHalt k temp) s = .next u ∧ u.hot = true ∧ u.throt = true ∧
      (∀ j, j ∈ u.hotStacks ↔ j = k ∨ j ∈ s.hotStacks) ∧ ∀ p l g, u.blockedStage p l g = true) ∧
    (105 ≤ temp → s.hot = true → ∃ u, exec (.thermalHalt k temp) s = .next u ∧ u = { s with hotStacks := u.hotStacks } ∧
      ∀ j, j ∈ u.hotStacks ↔ j = k ∨ j ∈ s.hotStacks) ∧
    (temp < 90 → ∃ u, exec (.thermalHalt k temp) s = .next u ∧ u = { s with hotStacks := u.hotStacks } ∧
      ∀ j, j ∈ u.hotStacks ↔ j ≠ k ∧ j ∈ s.hotStacks) ∧
    (90 ≤ temp → temp < 105 → exec (.thermalHalt k temp) s = .next s) ∧
    (s.hotStacks ≠ [] ∨ s.hot = false → s.releaseHeat = s) ∧
    (s.hotStacks = [] → s.hot = true → s.releaseHeat.hot = false ∧ s.releaseHeat.mem = s.mem) ∧
    (115 ≤ temp → exec (.thermalPowerOff k temp) s = .next { s with railsOff := true }) ∧
    (temp < 115 → exec (.thermalPowerOff k temp) s = .next s))

/-- R334, R412, R416, R418, R420, R421: a host read or write hits the committed decoder's partition, in the bytes of its space
alone, and one that hits none gets poisoned data or is dropped, and is counted; that the poisoned data are zeros is the
model's choice (log 95); one that a migration or a width change holds back waits in its queue; the directory grants lines to
the host, so that no L1 owns them any more (R288), unless it has fallen back, recalling the oldest when it is full, once no
migration blocks that one's page (R383); a pool snoop leaves no copy of its line and is answered by the window's port; a
fabric request inside an inbound space is served there, and any other is refused with a completer abort, by the port it came
by. -/
def Obligations.OutsideAccessesAreServed : Prop :=
  (∀ (s : State) (a n : Nat),
    ((s.ports.get 0 Port.reset).up = false → exec (.hostMemoryRead a n) s = .next s) ∧
    ((s.ports.get 0 Port.reset).up = true →
      (∀ p o, s.decoderOf a n = some (p, o) → s.spaceGate p o n true ≠ .clear →
        exec (.hostMemoryRead a n) s = .next (s.join (.hostRead a n) (s.spaceGate p o n true))) ∧
      (∀ p o, s.decoderOf a n = some (p, o) → s.spaceGate p o n true = .clear →
        ∃ u bad, exec (.hostMemoryRead a n) s = .next u ∧ u = { s with sent := u.sent } ∧
          u.sent = s.sent ++ [.completion 0 ((List.range n).map (fun i => s.mem.read (s.spacePa p (o + i)))) bad] ∧
          (bad = true ↔ ∃ sec ∈ sectorsOf o n, s.spacePa p (16 * sec) / 16 ∈ s.poison)) ∧
      (s.decoderOf a n = none → (s.ports.get 0 Port.reset).chg = false → ∃ u, exec (.hostMemoryRead a n) s = .next u ∧
        u.sent = s.sent ++ [.completion 0 (List.replicate n 0) true] ∧ u.mem = s.mem ∧ u.cores = s.cores ∧
        u.pfEvents.get 0x31 0 = (s.pfEvents.get 0x31 0 + 1) % 2 ^ 64))) ∧
  (∀ (s : State) (a : Nat) (bytes : List (Option Byte)),
    ((s.ports.get 0 Port.reset).up = false → exec (.hostMemoryWrite a bytes) s = .next s) ∧
    ((s.ports.get 0 Port.reset).up = true →
      (∀ p o, s.decoderOf a bytes.length = some (p, o) → s.spaceGate p o bytes.length false ≠ .clear →
        exec (.hostMemoryWrite a bytes) s = .next (s.join (.hostWrite a bytes) (s.spaceGate p o bytes.length false))) ∧
      (∀ p o, s.decoderOf a bytes.length = some (p, o) → s.spaceGate p o bytes.length false = .clear →
        o % 16 + bytes.length ≤ 16 → s.mem.wf = true → (∀ h ∈ s.hostDir, h.line ≠ s.spacePa p (16 * (o / 16)) / 128) →
        ∃ u, exec (.hostMemoryWrite a bytes) s = .next u ∧ u.cores = s.cores ∧ u.hostDir = s.hostDir ∧
          ∀ k, u.mem.read k = if h : s.spacePa p o ≤ k ∧ k - s.spacePa p o < bytes.length
            then ((bytes[k - s.spacePa p o]'h.2).getD (s.mem.read k)) else s.mem.read k) ∧
      (s.decoderOf a bytes.length = none → ∃ u, exec (.hostMemoryWrite a bytes) s = .next u ∧ u = { s with pfEvents := u.pfEvents } ∧
        u.pfEvents.get 0x31 0 = (s.pfEvents.get 0x31 0 + 1) % 2 ^ 64))) ∧
  (∀ (s : State) (a : Nat),
    ((s.ports.get 0 Port.reset).up = false ∨ (s.ports.get 0 Port.reset).fallbk = true →
      exec (.hostLineRequest a) s = .next s) ∧
    ((s.ports.get 0 Port.reset).up = true → (s.ports.get 0 Port.reset).fallbk = false → s.decoderOf a 1 = none →
      ∃ u, exec (.hostLineRequest a) s = .next u ∧ u = { s with pfEvents := u.pfEvents } ∧
        u.pfEvents.get 0x31 0 = (s.pfEvents.get 0x31 0 + 1) % 2 ^ 64) ∧
    (∀ p o, (s.ports.get 0 Port.reset).up = true → (s.ports.get 0 Port.reset).fallbk = false → s.decoderOf a 1 = some (p, o) →
      let line := s.spacePa p o / 128
      let held : Prop := ∃ h ∈ s.hostDir, h.line = line
      (held → exec (.hostLineRequest a) s = .next s) ∧
      (¬ held → s.spaceGate p o 1 true ≠ .clear →
        exec (.hostLineRequest a) s = .next (s.join (.hostLine a) (s.spaceGate p o 1 true))) ∧
      (¬ held → s.spaceGate p o 1 true = .clear → s.hostDir.length < 2097152 →
        exec (.hostLineRequest a) s = .next { s with
          hostDir := s.hostDir ++ [{ line := line, part := p, dirty := [] }], owners := s.owners.erase line }) ∧
      (∀ h t, ¬ held → s.spaceGate p o 1 true = .clear → s.hostDir = h :: t → 2097152 ≤ s.hostDir.length → h.dirty = [] →
        (∀ x ∈ t, x.line ≠ h.line) →
        exec (.hostLineRequest a) s = .next
          (if s.blocked (128 * h.line) then s.join (.hostLine a) .page
           else { s with hostDir := t ++ [{ line := line, part := p, dirty := [] }], owners := s.owners.erase line,
                         sent := s.sent ++ [.recall h.line] })))) ∧
  (∀ (s : State) (line : Nat) (bytes : List (Option Byte)),
    (128 * line < 0x100000000000 ∨ s.portOf (fabricWindow (128 * line)) = none → exec (.backInvalidateSnoop line bytes) s = .next s) ∧
    (∀ n, 0x100000000000 ≤ 128 * line → s.portOf (fabricWindow (128 * line)) = some n → (s.ports.get n Port.reset).chg = false →
      ∃ u, exec (.backInvalidateSnoop line bytes) s = .next u ∧ line ∉ u.snoop ∧ (∀ q, line ∉ u.l2.get q []) ∧
        (∀ c, line ∉ (u.coreAt c).l1) ∧ u.owners.find line = none ∧
        (∀ x, x ≠ line → (∀ q, x ∈ u.l2.get q [] ↔ x ∈ s.l2.get q []) ∧ (x ∈ u.snoop ↔ x ∈ s.snoop) ∧
          ∀ c, x ∈ (u.coreAt c).l1 ↔ x ∈ (s.coreAt c).l1) ∧
        u.sent = s.sent ++ [.completion n [] false] ∧
        (∀ i, i < 128 → u.mem.read (128 * line + i) = ((bytes[i]?).getD none).getD (s.mem.read (128 * line + i))) ∧
        ∀ k, (k < 128 * line ∨ 128 * line + 128 ≤ k) → u.mem.read k = s.mem.read k)) ∧
  (∀ (s : State) (off q n : Nat) (bytes : List (Option Byte)) (req : FabricReq),
    let port := s.ports.get q Port.reset
    req = .read q n ∨ req = .write q bytes ∧ n = bytes.length →
    (q = 0 ∨ port.up = false → exec (.inboundFabricRequest off req) s = .next s) ∧
    (q ≠ 0 → port.up = true →
      (s.inboundOf off n = none → port.chg = false →
        exec (.inboundFabricRequest off req) s = .next { s with sent := s.sent ++ [.completerAbort q] }) ∧
      (∀ p o, s.inboundOf off n = some (p, o) →
        let g := s.spaceGate p o n ((s.spaceSectors p o n).any s.hostHeld)
        g ≠ .clear → exec (.inboundFabricRequest off req) s = .next (s.join (.inbound off req) g)) ∧
      (∀ p o, req = .read q n → s.inboundOf off n = some (p, o) → s.hostDir = [] → s.spaceGate p o n false = .clear →
        port.chg = false →
        ∃ u bad, exec (.inboundFabricRequest off req) s = .next u ∧ u = { s with sent := u.sent } ∧
          u.sent = s.sent ++ [.completion q ((List.range n).map (fun i => s.mem.read (s.spacePa p (o + i)))) bad] ∧
          (bad = true ↔ ∃ sec ∈ sectorsOf o n, s.spacePa p (16 * sec) / 16 ∈ s.poison)) ∧
      (∀ p o, req = .write q bytes → s.inboundOf off n = some (p, o) → s.hostDir = [] →
        s.spaceGate p o n false = .clear → o % 16 + n ≤ 16 → s.mem.wf = true →
        ∃ u, exec (.inboundFabricRequest off req) s = .next u ∧ u.cores = s.cores ∧
          ∀ k, u.mem.read k = if s.spacePa p o ≤ k ∧ k - s.spacePa p o < n
            then ((bytes[k - s.spacePa p o]?).getD none).getD (s.mem.read k) else s.mem.read k)))

/-- R411, R412, R418, R424, R426, R427, R442, R443: a link trains, once bring-up is over, with a partner of 256-byte flits,
and on port 0 alone falls back to 68; one that goes down empties its queues and rolls back the nodes whose commands or
accesses had a request in flight or in its queue; a lane failure or a write of PWID never widens a port past MAXW, and a
changed width comes into use, what the partner asks for of the retry buffer leaving again; INBp and EQBASEn take a value that
lies where it may, and else stay and count PMREJ. The model's own choices, which no rule states: an error queue's header is
cleared as it is enabled (log 26); a port that has trained has the width MAXW (log 60); what the host held of device lines is
gone with port 0 (log 87); how many messages of the retry buffer the partner asks for, the latest k, stands beside the machine
(DESIGN CHOICE, log 91). -/
def Obligations.LinksAndRegistersFollow : Prop :=
  (∀ (s : State) (n : Nat) (partner : LinkPartner),
    (n ≤ Config.fabricPorts s.config.variant → (s.portAt n).up = false → s.boot.failed = false → s.boot.booted = true →
      s.boot.ready = true → partner = .flit256 ∨ partner = .flit68 ∧ n = 0 →
      ∃ u, exec (.linkTraining n partner) s = .next u ∧ (u.portAt n).up = true ∧ (u.portAt n).width = (s.portAt n).maxw ∧
        (u.portAt n).ordq = [] ∧ u.retryOf n = [] ∧
        ((u.portAt n).fallbk = true ↔ partner = .flit68) ∧ (∀ m, m ≠ n → u.portAt m = s.portAt m) ∧
        (partner = .flit68 → u.hostDir = []) ∧ u.mem = s.mem ∧ u.cores = s.cores) ∧
    (Config.fabricPorts s.config.variant < n ∨ (s.portAt n).up = true ∨ s.boot.failed = true ∨ s.boot.booted = false ∨
        s.boot.ready = false ∨ partner = .unsupported ∨ partner = .flit68 ∧ n ≠ 0 →
      exec (.linkTraining n partner) s = .next s)) ∧
  (∀ (s : State) (n : Nat) (l : List (Nat × Nat)),
    ((s.portAt n).up = false → exec (.linkDown n l) s = .next s) ∧
    ((s.portAt n).up = true → l = [] → (∀ h ∈ (s.portAt n).ordq, ∀ c id r d, h ≠ .engine c id r d) →
      (∀ h ∈ (s.portAt n).ordq ++ (s.portAt n).stalled, h.own = false) →
      let u := s.setPort n { s.portAt n with up := false, chg := false, ordq := [], stalled := [], acked := (s.leftBy n).length }
      (n ≠ 0 → exec (.linkDown n l) s = .next u) ∧
      (n = 0 → (∀ c st, s.inFlightHost c st = none) → exec (.linkDown n l) s = .next { u with hostDir := [] })) ∧
    (∀ c st a, (s.portAt n).up = true → n = 0 → l = [] → (∀ h ∈ (s.portAt n).ordq, ∀ c id r d, h ≠ .engine c id r d) →
      (st = .S ∨ st = .V) → c < 640 → (s.cores.find c).isSome = true → s.inFlightHost c st = some a →
      (∀ d t, s.inFlightHost d t ≠ none → d = c) → (s.coreAt c).UnderWay → (s.coreAt c).node.gang = [] →
      ∃ u, exec (.linkDown n l) s = .next u ∧ (u.portAt 0).up = false ∧ u.hostDir = [] ∧ u.RollsBack c) ∧
    (∀ eng idx c, (s.portAt n).up = true → n ≠ 0 → s.cmdAt eng idx = some c → c.state = .executing → c.core < 640 →
      (l = [(eng, idx)] ∧ s.usesPort c n = true ∧ (s.portAt n).ordq = [] ∨
        l = [] ∧ ∃ r d, (s.portAt n).ordq = [.engine c.core c.id r d]) → (s.coreAt c.core).UnderWay → (s.coreAt c.core).node.gang = [] →
      (∀ e ∈ s.engines, ∀ m ∈ e.2.queue, m.core = c.core → m.id = c.id → m = c) →
      ∃ u, exec (.linkDown n l) s = .next u ∧ (u.portAt n).up = false ∧ u.RollsBack c.core)) ∧
  (∀ (s : State) (n : Nat) (w : BitVec 2), n ≤ Config.fabricPorts s.config.variant →
    ∃ u, exec (.laneFailure n w) s = .next u ∧ (u.portAt n).maxw.toNat = max (s.portAt n).maxw.toNat w.toNat ∧
      (u.portAt n).maxw.toNat ≤ (u.portAt n).reqw.toNat ∧ (u.portAt n).chg = (s.portAt n).up ∧ u = { s with ports := u.ports }) ∧
  (∀ (s : State) (n : Nat) (v : Word), s.boot.failed = true → exec (.pwid n v) s = .next s) ∧
  (∀ (s : State) (n : Nat) (v : Word), n ≤ Config.fabricPorts s.config.variant → s.boot.failed = false →
    ∃ u, exec (.pwid n v) s = .next u ∧ (u.portAt n).reqw.toNat = max (v.toNat % 4) (s.portAt n).maxw.toNat ∧
      (u.portAt n).maxw = (s.portAt n).maxw ∧ (u.portAt n).chg = (s.portAt n).up ∧ u = { s with ports := u.ports }) ∧
  (∀ (s : State) (n : Nat),
    ((s.portAt n).chg = false → exec (.widthChangeComplete n) s = .next s) ∧
    ((s.portAt n).chg = true → (s.portAt n).ordq = [] → (s.portAt n).stalled = [] →
      ∃ u, exec (.widthChangeComplete n) s = .next u ∧ (u.portAt n).chg = false ∧ (u.portAt n).up = (s.portAt n).up ∧
        (u.portAt n).width.toNat = max (s.portAt n).reqw.toNat (s.portAt n).maxw.toNat ∧
        u = { s with ports := u.ports, sent := u.sent } ∧
        ((∀ e ∈ s.around.asks, e.1 ≠ n) → u.sent = s.sent) ∧
        ∀ k, s.around.asks.find? (fun e => e.1 == n) = some (n, k) →
          u.sent = s.sent ++ (s.retryOf n).drop ((s.retryOf n).length - k))) ∧
  (∀ (s : State) (p : Nat) (v : Word), s.boot.failed = true → exec (.inbpWrite p v) s = .next s ∧ exec (.eqbaseWrite p v) s = .next s) ∧
  (∀ (s : State) (p : Nat) (v : Word), p < 24 → s.boot.failed = false →
    let base := v.toNat / 2 ^ 30 % 2 ^ 10 * 2 ^ 30
    let clash : Prop := ∃ e ∈ s.inb, e.1 ≠ p ∧ e.2.getLsbD 63 = true ∧ e.2.toNat / 2 ^ 30 % 2 ^ 10 * 2 ^ 30 < base + s.spaceOf p ∧
      base < e.2.toNat / 2 ^ 30 % 2 ^ 10 * 2 ^ 30 + s.spaceOf e.1
    (v.getLsbD 63 = true → clash ∨ 2 ^ 40 < base + s.spaceOf p →
      ∃ u, exec (.inbpWrite p v) s = .next u ∧ u = { s with pfEvents := u.pfEvents } ∧
        u.pfEvents.get 0x0C 0 = (s.pfEvents.get 0x0C 0 + 1) % 2 ^ 64) ∧
    (v.getLsbD 63 = false ∨ ¬ clash ∧ base + s.spaceOf p ≤ 2 ^ 40 →
      ∃ u, exec (.inbpWrite p v) s = .next u ∧ u = { s with inb := u.inb } ∧
        (u.inb.get p 0).toNat = v.toNat / 2 ^ 63 * 2 ^ 63 + base ∧ ∀ q, q ≠ p → u.inb.get q 0 = s.inb.get q 0)) ∧
  (∀ (s : State) (n : Nat) (v : Word), n < 24 → s.boot.failed = false → let a := v.toNat / 2 ^ 8 % 2 ^ 40 * 256
    (v.getLsbD 63 = true → s.inChannels n a 65792 = false →
      ∃ u, exec (.eqbaseWrite n v) s = .next u ∧ u = { s with pfEvents := u.pfEvents } ∧
        u.pfEvents.get 0x0C 0 = (s.pfEvents.get 0x0C 0 + 1) % 2 ^ 64) ∧
    (v.getLsbD 63 = false →
      ∃ u, exec (.eqbaseWrite n v) s = .next u ∧ u = { s with eqbase := u.eqbase } ∧ (u.eqbase.get n 0).toNat = a) ∧
    (v.getLsbD 63 = true → s.inChannels n a 65792 = true →
      ∃ u, exec (.eqbaseWrite n v) s = .next u ∧ (u.eqbase.get n 0).toNat = 2 ^ 63 + a ∧ u.cores = s.cores ∧
        ((s.eqbase.get n 0).getLsbD 63 = true → u.mem = s.mem) ∧
        ((s.eqbase.get n 0).getLsbD 63 = false → s.mem.wf = true → s.hostDir = [] → s.migration.redirects = [] → s.movingPages = [] →
          (∀ i, i < 128 → u.mem.read (a + i) = 0) ∧ ∀ k, (k < a ∨ a + 128 ≤ k) → u.mem.read k = s.mem.read k)))

/-- R377, R413, R417, R424, R459 to R465: a write of TRCTL, CDUMP or SNAPBUF with an address outside the partition's channels
is refused and counts PMREJ, and one that enables a ring clears its header; a dump writes the 64 counters, once for each 100
µs; a sample, when PERIOD cycles have passed since the strand's last, enters the trace ring as a record of 32 bytes, or is
dropped from a full one; a snapshot is latched once, written out once, to SNAPBUF, and released by the physical function or
Newt; a control register takes its writable fields from the function that may write it, and nothing from another. The model's
own choices, read from the rules by inference: a ring's header is cleared as the ring is enabled (log 26), and what is written
to a reserved field of a control block is dropped (log 27). -/
def Obligations.TelemetryAndControlWrites : Prop :=
  (∀ (s : State) (p off : Nat) (v : Word), s.boot.failed = true → exec (.telemetryEnableWrite p off v) s = .next s) ∧
  (∀ (s : State) (p off : Nat) (v : Word), p < 24 → s.boot.failed = false → let a := v.toNat / 2 ^ 8 % 2 ^ 40 * 256
    (off = 0x000 ∨ off = 0x018 ∨ off = 0x038) →
    (v.getLsbD 63 = true → s.inChannels p a (if off = 0x038 then 44608 else 1) = false →
      ∃ u, exec (.telemetryEnableWrite p off v) s = .next u ∧ s.Counted u p 0x0C ∧ (u.part p).tel.trctl = (s.part p).tel.trctl ∧
        (u.part p).tel.cdump = (s.part p).tel.cdump ∧ (u.part p).tel.snapbuf = (s.part p).tel.snapbuf ∧ u.mem = s.mem) ∧
    (v.getLsbD 63 = false ∨ s.inChannels p a (if off = 0x038 then 44608 else 1) = true →
      ∃ u, exec (.telemetryEnableWrite p off v) s = .next u ∧ u.cores = s.cores ∧
        (off = 0x000 → (u.part p).tel.trctl.toNat = v.toNat / 2 ^ 63 * 2 ^ 63 + a + v.toNat % 2 ^ 5) ∧
        (off = 0x018 → (u.part p).tel.cdump.toNat = v.toNat / 2 ^ 63 * 2 ^ 63 + a) ∧
        (off = 0x038 → (u.part p).tel.snapbuf.toNat = v.toNat / 2 ^ 63 * 2 ^ 63 + a) ∧
        (off = 0x000 → v.getLsbD 63 = true → (s.part p).tel.trctl.getLsbD 63 = false → s.mem.wf = true → s.hostDir = [] →
          s.migration.redirects = [] → s.movingPages = [] → ∀ i, i < 128 → u.mem.read (a + i) = 0))) ∧
  (∀ (s : State) (p : Nat), let t := (s.part p).tel
    let a := t.cdump.toNat / 2 ^ 8 % 2 ^ 40 * 256
    (t.cdump.getLsbD 63 = false ∨ s.gtc / 100000 ≤ t.dumped → exec (.counterDump p) s = .next s) ∧
    (t.cdump.getLsbD 63 = true → t.dumped < s.gtc / 100000 → s.migration.redirects = [] → s.movingPages = [] → s.hostDir = [] → s.mem.wf = true →
      ∃ u, exec (.counterDump p) s = .next u ∧ u.cores = s.cores ∧ (u.part p).tel.dumped = s.gtc / 100000 ∧
        (∀ i, i < 64 → u.mem.readNat (a + 8 * i) 8 = t.pmc.get i 0 % 2 ^ 64) ∧
        ∀ k, (k < a ∨ a + 512 ≤ k) → u.mem.read k = s.mem.read k)) ∧
  (∀ (s : State) (c : Nat) (st : Strand), let nd := (s.coreAt c).node
    let t := (s.part nd.part).tel
    let period := t.sampctl.toNat / 2 ^ 8 % 2 ^ 24
    let due : Prop := nd.phase ≠ .idle ∧ period ≠ 0 ∧ t.sampctl.getLsbD st.num = true ∧
      ∀ last, t.sampled.find (4 * c + st.num) = some last → last + period ≤ s.cycle
    let base := t.trctl.toNat / 2 ^ 8 % 2 ^ 40 * 256
    let size := 2 ^ (t.trctl.toNat % 2 ^ 5)
    let prod := s.mem.readNat base 8
    let slot := base + 0x100 + 32 * (prod % size)
    let full : Prop := ¬ (prod + 2 ^ 64 - s.mem.readNat (base + 0x80) 8) % 2 ^ 64 < size
    (¬ due → exec (.traceSample c st) s = .next s) ∧
    (due → t.trctl.getLsbD 63 = false → ∃ u, exec (.traceSample c st) s = .next u ∧ u = { s with parts := u.parts } ∧
      (u.part nd.part).tel.sampled.find (4 * c + st.num) = some s.cycle) ∧
    (due → t.trctl.getLsbD 63 = true → s.mem.wf = true → s.hostDir = [] → s.migration.redirects = [] → s.movingPages = [] →
      ∃ u, exec (.traceSample c st) s = .next u ∧ u.cores = s.cores ∧
        (u.part nd.part).tel.sampled.find (4 * c + st.num) = some s.cycle ∧
        (full → u.mem.readNat base 8 = prod ∧ u.mem.readNat (base + 8) 8 = (s.mem.readNat (base + 8) 8 + 1) % 2 ^ 64) ∧
        (¬ full → u.mem.readNat base 8 = (prod + 1) % 2 ^ 64 ∧
          (∀ w, State.fetch { s with core := c } st ((s.coreAt c).strand st).pc.toNat = .word w →
            u.mem.readBytes slot 32 = leBytes 1 1 ++ leBytes 1 (s.condNow c st) ++ leBytes 2 c ++ leBytes 2 nd.launch ++
              leBytes 1 nd.stage ++ leBytes 1 st.num ++ leBytes 8 s.gtc ++ leBytes 8 ((s.coreAt c).strand st).pc.toNat ++
              leBytes 8 w.toNat) ∧
          ∀ k, (k < base ∨ base + 16 ≤ k) → (k < slot ∨ slot + 32 ≤ k) → u.mem.read k = s.mem.read k))) ∧
  (∀ (s : State) (p : Nat) (src : BitVec 8), let t := (s.part p).tel
    (src ≠ 1 ∨ s.boot.failed = true → exec (.snapshotTrigger p src) s = .next s) ∧
    (src = 1 → s.boot.failed = false →
      (t.snap = none → ∃ u, exec (.snapshotTrigger p src) s = .next u ∧ u.mem = s.mem ∧ u.cores = s.cores ∧
        ∃ n, (u.part p).tel.snap = some n ∧ n.written = false ∧ n.bytes.length = 44608 ∧
          leAt n.bytes 0 8 = s.gtc % 2 ^ 64 ∧ leAt n.bytes 8 1 = 1) ∧
      (∀ n, t.snap = some n → ∃ u, exec (.snapshotTrigger p src) s = .next u ∧ (u.part p).tel.snap = some n ∧
        (u.part p).tel.snaplost = t.snaplost + 1 ∧ u.mem = s.mem))) ∧
  (∀ (s : State) (p : Nat), let t := (s.part p).tel
    let a := t.snapbuf.toNat / 2 ^ 8 % 2 ^ 40 * 256
    (∀ n, t.snap = some n → t.snapbuf.getLsbD 63 = true → n.written = false → ∃ u, exec (.snapshotWriteOut p) s = .next u ∧
      (u.part p).tel.snap = some { n with written := true } ∧ u.cores = s.cores ∧
      (s.mem.wf = true → s.hostDir = [] → s.migration.redirects = [] → s.movingPages = [] → u.mem.readBytes a n.bytes.length = n.bytes ∧
        ∀ k, (k < a ∨ a + n.bytes.length ≤ k) → u.mem.read k = s.mem.read k)) ∧
    (t.snap = none ∨ t.snapbuf.getLsbD 63 = false ∨ (∃ n, t.snap = some n ∧ n.written = true) →
      exec (.snapshotWriteOut p) s = .next s)) ∧
  (∀ (s : State) (fn : HostFn) (p : Nat) (v : Word),
    ((∃ q, fn = .virt q) ∨ v.getLsbD 0 = false ∨ s.boot.failed = true → exec (.snaprel ⟨fn, p, v⟩) s = .next s) ∧
    (fn = .physical ∨ fn = .newt → v.getLsbD 0 = true → s.boot.failed = false →
      ∃ u, exec (.snaprel ⟨fn, p, v⟩) s = .next u ∧ (u.part p).tel.snap = none ∧ u = { s with parts := u.parts })) ∧
  (∀ (s : State) (fn : HostFn) (a : Nat) (v : Word), s.boot.failed = true → exec (.controlRegisterWrite fn a v) s = .next s) ∧
  (∀ (s : State) (p off : Nat) (fn : HostFn) (v : Word), p < 24 → off < 0x10000 → off % 8 = 0 → s.boot.failed = false →
    let a := 0xFF00800000 + p * 0x10000 + off
    (fn = .physical ∨ (∃ q, fn = .virt q ∧ q ≠ p) → exec (.controlRegisterWrite fn a v) s = .next s) ∧
    (fn = .newt ∨ fn = .virt p → ∃ u, exec (.controlRegisterWrite fn a v) s = .next u ∧ u = { s with parts := u.parts } ∧
      (∀ q, q ≠ p → u.part q = s.part q) ∧ (u.part p).active = (s.part p).active ∧
      (off = 0x4020 → (u.part p).saveBase.toNat = v.toNat / 2 ^ 16 * 2 ^ 16) ∧
      (off = 0x4028 → (u.part p).saveCnt.toNat = v.toNat % 2 ^ 10) ∧
      (off = 0x4030 → (u.part p).tvecp.toNat = v.toNat / 4 * 4 + v.toNat % 2) ∧
      (off = 0x4060 → (u.part p).brkc.toNat = v.toNat % 2 ^ 16) ∧
      (∀ i, i < 4 → off = 0x4040 + 8 * i → vget (u.part p).brka i 0 = v) ∧
      (∀ i, i < 256 → off = 32 * i → ((u.part p).shadow.get i RangeEntry.reset).w0 = v) ∧
      (∀ i, i < 256 → off = 32 * i + 8 → ((u.part p).shadow.get i RangeEntry.reset).w1 = v))) ∧
  (∀ (s : State) (n q : Nat) (fn : HostFn) (v : Word), s.boot.failed = false →
    let parb := 0xFF00002000 + n * 0x100 + 0x10
    let route := 0xFF00003000 + 8 * n
    let samp := 0xFF00C00000 + n * 0x1000 + 0x008
    (fn = .virt q → (n < 13 → exec (.controlRegisterWrite fn parb v) s = .next s) ∧
      (n < 240 → exec (.controlRegisterWrite fn route v) s = .next s) ∧
      (n < 24 → exec (.controlRegisterWrite fn samp v) s = .next s)) ∧
    (fn = .physical ∨ fn = .newt →
      (n ≤ Config.fabricPorts s.config.variant → n < 13 → ∃ u, exec (.controlRegisterWrite fn parb v) s = .next u ∧
        u = { s with ports := u.ports } ∧ u.portAt n = { s.portAt n with host := v.extractLsb' 0 4, copy := v.extractLsb' 4 4,
                                                                         coll := v.extractLsb' 8 4 }) ∧
      (n < 240 → ∃ u, exec (.controlRegisterWrite fn route v) s = .next u ∧ u = { s with route := u.route } ∧
        (u.routeOf n).toNat = v.toNat / 2 ^ 62 * 2 ^ 62 + v.toNat / 2 ^ 36 % 2 ^ 12 * 2 ^ 36 + v.toNat / 2 % 2 ^ 12 * 2) ∧
      (n < 24 → ∃ u, exec (.controlRegisterWrite fn samp v) s = .next u ∧ u = { s with parts := u.parts } ∧
        (u.part n).tel.sampctl.toNat = v.toNat / 2 ^ 8 % 2 ^ 24 * 2 ^ 8 + v.toNat % 2 ^ 4)))

/-- R455, R457, R458, R466, R468: a reset gives every register its reset value, and keeps memory and, of each port, MAXW
(R426); the bank that the last update made active boots when its signatures verify, else the other; an update writes the
inactive bank; bring-up zeroes device memory, windows and weight buffers, applies the spare map, puts the cap at 1,700 W and
trains the ports, and stops at the first step that fails, which it reports; monitoring answers a sensor, sets the cap or, with
the rails on (R454), begins a repair; measurements are sent; none of these answers with anything from a core. The model's own
choices, which no rule states: the numbers of Newt's reports and sensors (log 28), and that the ports' partners and a failing
step of bring-up stand beside the machine as what lies around it (log 91). -/
def Obligations.PackageControllerActs : Prop :=
  (∀ (s : State), ∃ u, exec .resetBoot s = .next u ∧ u.mem = s.mem ∧ u.poison = s.poison ∧ u.cores = State.reset.cores ∧
    u.parts = State.reset.parts ∧ u.counters = State.reset.counters ∧ u.engines = State.reset.engines ∧
    u.pkcap = State.reset.pkcap ∧ u.cycle = State.reset.cycle ∧ (∀ n, u.portAt n = { Port.reset with maxw := (s.portAt n).maxw }) ∧ u.boot.bankA = s.boot.bankA ∧ u.boot.bankB = s.boot.bankB ∧
    (bankOk (s.boot.bank s.boot.next) = true → u.boot.booted = true ∧ u.boot.active = s.boot.next ∧
      u.config = (s.boot.bank s.boot.next).record) ∧
    (bankOk (s.boot.bank s.boot.next) = false → bankOk (s.boot.bank (!s.boot.next)) = true →
      u.boot.booted = true ∧ u.boot.active = (!s.boot.next) ∧ u.config = (s.boot.bank (!s.boot.next)).record) ∧
    (bankOk (s.boot.bank s.boot.next) = false → bankOk (s.boot.bank (!s.boot.next)) = false →
      u.boot.booted = false ∧ u.boot.failed = true)) ∧
  (∀ (s : State), let fails := s.around.flaw
    let partners := s.around.ends
    (s.boot.ready = true ∨ s.railsOff = true ∨ s.boot.booted = true ∧ s.boot.failed = true →
      exec .powerOnBringUp s = .next s) ∧
    (s.boot.ready = false → s.railsOff = false → s.boot.booted = false → bankOk (s.boot.bank s.boot.next) = false →
      bankOk (s.boot.bank (!s.boot.next)) = false →
      ∃ u, exec .powerOnBringUp s = .next u ∧ u.boot.failed = true ∧ u.boot.ready = false ∧ u.mem = s.mem) ∧
    (s.boot.ready = false → s.railsOff = false → s.boot.booted = true → s.boot.failed = false →
      (fails = none → ∃ u, exec .powerOnBringUp s = .next u ∧ u.boot.ready = true ∧
        u.sent = s.sent ++ [.pldm 3 0] ∧
        (∀ a, u.mem.read a = if a < 0x10000000000 then 0 else s.mem.read a) ∧
        (∀ x, x ∈ u.poison ↔ x ∈ s.poison ∧ 0x10000000000 ≤ 16 * x) ∧ u.pkcap = 1700 ∧ u.config = s.config ∧
        (∀ c, (s.cores.find c).isSome = true → (u.coreAt c).window = [] ∧ (u.coreAt c).winPoison = []) ∧
        (∀ e ∈ s.config.spares, (u.coreAt e.1).spared = true) ∧
        (∀ k, k < 16 → (u.stackPower k).allot = State.allotmentOf
          { s with pkcap := 1700, fscale := if 1700 < s.floorSum then 100 * 1700 / s.floorSum else 100 } k) ∧
        (∀ n partner, n ≤ Config.fabricPorts s.config.variant → partners.find? (fun e => e.1 == n) = some (n, partner) →
          (s.portAt n).up = false → partner = .flit256 ∨ partner = .flit68 ∧ n = 0 → (u.portAt n).up = true) ∧
        ∀ n, partners.find? (fun e => e.1 == n) = none → u.portAt n = s.portAt n) ∧
      (∀ n, fails = some n → 3 ≤ n → n ≤ 6 → ∃ u, exec .powerOnBringUp s = .next u ∧ u.boot.ready = false ∧
        u.sent = s.sent ++ [.pldm 7 (BitVec.ofNat 64 n)] ∧ u.ports = s.ports ∧ (n = 3 → u.mem = s.mem) ∧
        (n = 3 → u.cores = s.cores) ∧ (n = 4 → ∀ c, u.coreAt c = { s.coreAt c with l1 := [] }) ∧ (n ≤ 5 → u.pkcap = s.pkcap)))) ∧
  (∀ (s : State) (image : FlashImage), ∃ u, exec (.pldmFirmwareUpdate image) s = .next u ∧
    u.boot.bank (!s.boot.active) = image ∧ u.boot.bank s.boot.active = s.boot.bank s.boot.active ∧
    u.boot.active = s.boot.active ∧ u.boot.next = (if bankOk image then !s.boot.active else s.boot.active) ∧
    u.config = s.config ∧ u.mem = s.mem ∧ u.cores = s.cores) ∧
  (∀ (b : FlashImage), b.fwSigOk = false ∨ b.recSigOk = false → bankOk b = false) ∧
  (∀ (s : State), (∀ n, ∃ u w, exec (.pldmMonitoring (.sensor n)) s = .next u ∧
      u = { s with sent := s.sent ++ [.pldm (0x100 + n) w], free := u.free } ∧
      (n = 0 → w = BitVec.ofNat 64 s.pavgReading) ∧
      (n = 2 → w = BitVec.ofNat 64 s.ecc.1) ∧ (n = 3 → w = BitVec.ofNat 64 s.ecc.2) ∧
      (n = 4 → w = BitVec.ofNat 64 (32 - s.config.spares.length))) ∧
    (∀ v, ∃ u, exec (.pldmMonitoring (.setCap v)) s = .next u ∧ u.pkcap.toNat = v.toNat / 2 ^ 63 * 2 ^ 63 + min (v.toNat % 2 ^ 16) 1700) ∧
    (∀ c n w, s.railsOff = true → exec (.pldmMonitoring (.repairCore c)) s = .next s ∧
      exec (.pldmMonitoring (.repairRow c)) s = .next s ∧ exec (.pldmMonitoring (.repairChannel c)) s = .next s ∧
      exec (.pldmMonitoring (.repairLane n w)) s = .next s) ∧
    (∀ c, s.partOf c = none → exec (.pldmMonitoring (.repairCore c)) s = .next s) ∧
    (∀ c p, s.railsOff = false → s.partOf c = some p → s.coreRepair? c = none → let used := (s.config.spares.filter (fun e => e.1 / 40 == c / 40)).length
      (2 ≤ used → exec (.pldmMonitoring (.repairCore c)) s = .next { s with sent := s.sent ++ [.pldm 6 (BitVec.ofNat 64 c)] }) ∧
      (used < 2 → s.boot.failed = false → exec (.pldmMonitoring (.repairCore c)) s = exec (.spareCore c)
        { s with repairs := s.repairs ++ [.core c ((s.part p).holds.contains (.core c))] })) ∧
    (∀ row, s.railsOff = false → row ∉ s.config.spareRows → s.movingPages = [] → s.pageOk row = true →
      exec (.pldmMonitoring (.repairRow row)) s = .next { s with migration :=
        { s.migration with st := .blocked, src := row, dst := row, sparing := some s.migration.st, queue := [], stalled := [] } }) ∧
    (∀ chan, s.railsOff = false → Repair.channel chan ∈ s.repairs → s.boot.failed = false →
      exec (.pldmMonitoring (.repairChannel chan)) s = exec (.channelRetirement chan) s) ∧
    (∀ n w, s.railsOff = false → exec (.pldmMonitoring (.repairLane n w)) s = exec (.laneFailure n w) s)) ∧
  (∀ (s : State), ∃ u b, exec .spdmMeasurements s = .next u ∧ u = { s with sent := s.sent ++ b } ∧ b.length = 4 ∧
    ∀ m ∈ b, ∃ i bytes, m = .spdm i bytes ∧ i < 4)

/-! ## The invariant of every step -/

/-- Log 5 (kind invariant): whatever the machine does in one step, from any state whose memory is in its one canonical form, the
memory after it is in that form again: addresses strictly rise and no zero byte is listed, so equal memories are equal data. -/
def Obligations.MemoryStaysCanonical : Prop :=
  ∀ (s t : State), s.mem.wf = true → step s = .next t → t.mem.wf = true

end
end

