-- ==== Sys2Proof/Laws/Arith.lean ====
section
/-! SUPPORT. The scalar chapter's arithmetic helpers, each equal to the rule's own words over bit vectors. -/

namespace Sys2Proof.Machine

theorem shamt_eq (b : Word) : shamt b = (b.setWidth 6).toNat := by simp [shamt]

theorem sltW_eq (a b : Word) : sltW a b = a.slt b := by rw [sltW, BitVec.slt_eq_decide]

theorem flagW_eq (b : Bool) : flagW b = if b then 1 else 0 := rfl

theorem mulhuW_eq (a b : Word) : mulhuW a b = ((a.setWidth 128 * b.setWidth 128) >>> 64).setWidth 64 := by
  apply BitVec.eq_of_toNat_eq
  have ha := a.isLt
  have hb := b.isLt
  have h : a.toNat * b.toNat < 2 ^ 128 := by
    calc a.toNat * b.toNat < 2 ^ 64 * 2 ^ 64 := Nat.mul_lt_mul'' ha hb
      _ = 2 ^ 128 := by norm_num
  rw [mulhuW, BitVec.toNat_setWidth, BitVec.toNat_ushiftRight, BitVec.toNat_mul, BitVec.toNat_setWidth, BitVec.toNat_setWidth,
    BitVec.toNat_ofNat, Nat.shiftRight_eq_div_pow, Nat.mod_eq_of_lt (lt_trans ha (by norm_num : 2 ^ 64 < 2 ^ 128)),
    Nat.mod_eq_of_lt (lt_trans hb (by norm_num : 2 ^ 64 < 2 ^ 128)), Nat.mod_eq_of_lt h]

theorem mulhW_eq (a b : Word) : mulhW a b = ((a.signExtend 128 * b.signExtend 128) >>> 64).setWidth 64 := by
  have hp : (a.signExtend 128 * b.signExtend 128) = BitVec.ofInt 128 (a.toInt * b.toInt) := by
    apply BitVec.eq_of_toInt_eq
    rw [BitVec.toInt_mul, BitVec.toInt_signExtend_of_le (by norm_num), BitVec.toInt_signExtend_of_le (by norm_num),
      BitVec.toInt_ofInt]
  rw [hp, mulhW]
  apply BitVec.eq_of_toNat_eq
  rw [BitVec.toNat_setWidth, BitVec.toNat_ushiftRight, BitVec.toNat_ofInt, BitVec.toNat_ofInt, Nat.shiftRight_eq_div_pow]
  generalize a.toInt * b.toInt = z
  push_cast
  omega

theorem divuW_eq (a b : Word) : divuW a b = if b = 0 then -1 else a / b := by
  unfold divuW
  split
  · rfl
  · apply BitVec.eq_of_toNat_eq
    rw [BitVec.toNat_udiv, BitVec.toNat_ofNat]
    exact Nat.mod_eq_of_lt (lt_of_le_of_lt (Nat.div_le_self _ _) a.isLt)

theorem remuW_eq (a b : Word) : remuW a b = if b = 0 then a else a % b := by
  unfold remuW
  split
  · rfl
  · apply BitVec.eq_of_toNat_eq
    rw [BitVec.toNat_umod, BitVec.toNat_ofNat]
    exact Nat.mod_eq_of_lt (lt_of_le_of_lt (Nat.mod_le _ _) a.isLt)

theorem divW_eq (a b : Word) : divW a b = if b = 0 then -1 else a.sdiv b := by
  unfold divW
  split
  · rfl
  · apply BitVec.eq_of_toInt_eq
    rw [BitVec.toInt_sdiv, BitVec.toInt_ofInt]

theorem remW_eq (a b : Word) : remW a b = if b = 0 then a else a.srem b := by
  unfold remW
  split
  · rfl
  · apply BitVec.eq_of_toInt_eq
    rw [BitVec.toInt_srem, BitVec.toInt_ofInt, ← BitVec.toInt_srem, BitVec.toInt_bmod_cancel]

theorem fshW_eq (a b : Word) (n : Nat) : fshW a b n = ((a ++ b) >>> n).setWidth 64 := by
  apply BitVec.eq_of_toNat_eq
  rw [fshW, BitVec.toNat_setWidth, BitVec.toNat_ushiftRight, BitVec.toNat_append, BitVec.toNat_ofNat,
    Nat.shiftRight_eq_div_pow, ← Nat.shiftLeft_eq, Nat.shiftLeft_add_eq_or_of_lt b.isLt]

theorem bitOf_eq (n i : Nat) : bitOf n i = n.testBit i := by
  rw [bitOf, Nat.testBit_eq_decide_div_mod_eq]
  rfl

theorem clzNat_eq (a : Word) : clzNat a.toNat 64 = leadingZeros a := by
  have h : ∀ n ≤ 64, clzNat a.toNat n = ((List.range' (64 - n) n).takeWhile (fun i => !a.getMsbD i)).length := by
    intro n
    induction n with
    | zero => intro _; rfl
    | succ n ih =>
      intro hn
      have hb : a.getMsbD (64 - (n + 1)) = a.toNat.testBit n := by
        rw [BitVec.getMsbD_eq_getLsbD, BitVec.getLsbD, show 64 - 1 - (64 - (n + 1)) = n by omega,
          decide_eq_true (show 64 - (n + 1) < 64 by omega), Bool.true_and]
      rw [clzNat, bitOf_eq, List.range'_succ, List.takeWhile_cons, hb, show 64 - (n + 1) + 1 = 64 - n by omega]
      cases a.toNat.testBit n with
      | true => simp
      | false => simp [ih (by omega), Nat.add_comm]
  rw [h 64 (le_refl _), leadingZeros, List.range_eq_range']

theorem ctzNat_eq (a : Word) : ctzNat a.toNat 0 64 = trailingZeros a := by
  have h : ∀ n i, ctzNat a.toNat i n = ((List.range' i n).takeWhile (fun i => !a.getLsbD i)).length := by
    intro n
    induction n with
    | zero => intro _; rfl
    | succ n ih =>
      intro i
      rw [ctzNat, bitOf_eq, List.range'_succ, List.takeWhile_cons, BitVec.getLsbD]
      cases a.toNat.testBit i with
      | true => simp
      | false => simp [ih, Nat.add_comm]
  rw [h, trailingZeros, List.range_eq_range']

theorem popcount_eq (a : Word) : popcount a.toNat 64 = oneBits a := by
  have h : ∀ n, popcount a.toNat n = ((List.range n).filter (fun i => a.getLsbD i)).length := by
    intro n
    induction n with
    | zero => rfl
    | succ n ih =>
      rw [popcount, bitOf_eq, List.range_succ, List.filter_append, List.length_append, ih]
      cases h : a.toNat.testBit n <;> simp [b2n, BitVec.getLsbD, h]
  exact h 64

theorem field_eq (n p len : Nat) : field n p len = (n >>> p) % 2 ^ len := by rw [field, Nat.shiftRight_eq_div_pow]

theorem bfxuW_eq (a : Word) {p n : Nat} (h : n ≤ 64) : bfxuW a p n = fieldOf a p n := by
  apply BitVec.eq_of_toNat_eq
  have h2 : (2 ^ n - 1) % 2 ^ 64 = 2 ^ n - 1 :=
    Nat.mod_eq_of_lt (lt_of_lt_of_le (Nat.sub_lt (Nat.two_pow_pos n) one_pos) (Nat.pow_le_pow_right (by norm_num) h))
  rw [bfxuW, fieldOf, BitVec.toNat_and, BitVec.toNat_ushiftRight, BitVec.toNat_ofNat, BitVec.toNat_ofNat, h2,
    Nat.and_two_pow_sub_one_eq_mod, field_eq]
  exact Nat.mod_eq_of_lt (lt_of_le_of_lt (Nat.mod_le _ _) (lt_of_le_of_lt (Nat.shiftRight_le _ _) a.isLt))

theorem signed_eq (v : Nat) {n : Nat} (h : 0 < n) : signed v n = (BitVec.ofNat n v).toInt := by
  obtain ⟨m, rfl⟩ : ∃ m, n = m + 1 := ⟨n - 1, by omega⟩
  have h2 : 2 ^ (m + 1) = 2 * 2 ^ m := by rw [Nat.pow_succ, Nat.mul_comm]
  rw [signed, BitVec.toInt_eq_toNat_cond, BitVec.toNat_ofNat, Nat.add_sub_cancel]
  split
  · rw [if_pos (by omega)]
  · rw [if_neg (by omega)]; push_cast; rfl

theorem bfxW_eq (a : Word) {p n : Nat} (hn : 0 < n) (h : p + n ≤ 64) : bfxW a p n = fieldSigned a p n := by
  have e : bfxW a p n = (BitVec.ofNat n (a.toNat >>> p)).signExtend 64 := by
    rw [bfxW, signed_eq _ hn, BitVec.signExtend, field_eq]
    congr 2
    apply BitVec.eq_of_toNat_eq
    simp
  rw [e, fieldSigned]
  apply BitVec.eq_of_getLsbD_eq
  intro i hi
  have g : ∀ j, (BitVec.ofNat n (a.toNat >>> p)).getLsbD j = (decide (j < n) && a.getLsbD (p + j)) := by
    intro j
    simp [Nat.testBit_shiftRight, BitVec.getLsbD]
  rw [BitVec.getLsbD_signExtend, BitVec.getLsbD_sshiftRight, BitVec.msb_eq_getLsbD_last, g, g, BitVec.getLsbD_shiftLeft,
    BitVec.msb_eq_getLsbD_last, BitVec.getLsbD_shiftLeft]
  by_cases hin : i < n
  · simp [hi, hin, show 64 - n + i < 64 by omega, show ¬ (64 ≤ i) by omega, show ¬ (64 - n + i < 64 - p - n) by omega,
      show 64 - n + i - (64 - p - n) = p + i by omega]
  · simp [hi, hin, show ¬ (64 - n + i < 64) by omega, show ¬ (64 ≤ i) by omega, show n - 1 < n by omega,
      show ¬ (63 < 64 - p - n) by omega, show 63 - (64 - p - n) = p + (n - 1) by omega]

theorem bfiW_eq (d a : Word) {p n : Nat} (h : p + n ≤ 64) : bfiW d a p n = fieldPut d a p n := by
  have hm : (2 ^ n - 1) % 2 ^ 64 = 2 ^ n - 1 :=
    Nat.mod_eq_of_lt (lt_of_lt_of_le (Nat.sub_lt (Nat.two_pow_pos n) one_pos) (Nat.pow_le_pow_right (by norm_num) (by omega)))
  have key : d.toNat - field d.toNat p n * 2 ^ p + a.toNat % 2 ^ n * 2 ^ p
      = (d.toNat / 2 ^ (p + n) * 2 ^ n + a.toNat % 2 ^ n) * 2 ^ p + d.toNat % 2 ^ p := by
    have h1 := Nat.div_add_mod d.toNat (2 ^ p)
    have h2 := Nat.div_add_mod (d.toNat / 2 ^ p) (2 ^ n)
    rw [Nat.div_div_eq_div_mul, ← Nat.pow_add] at h2
    have h3 : field d.toNat p n * 2 ^ p ≤ d.toNat := by
      calc field d.toNat p n * 2 ^ p ≤ d.toNat / 2 ^ p * 2 ^ p := Nat.mul_le_mul_right _ (Nat.mod_le _ _)
        _ ≤ d.toNat := Nat.div_mul_le_self _ _
    have h4 : d.toNat = (2 ^ n * (d.toNat / 2 ^ (p + n)) + field d.toNat p n) * 2 ^ p + d.toNat % 2 ^ p := by
      rw [show field d.toNat p n = d.toNat / 2 ^ p % 2 ^ n from rfl, h2, Nat.mul_comm _ (2 ^ p)]
      exact h1.symm
    have h5 : (2 ^ n * (d.toNat / 2 ^ (p + n)) + field d.toNat p n) * 2 ^ p
        = d.toNat / 2 ^ (p + n) * 2 ^ n * 2 ^ p + field d.toNat p n * 2 ^ p := by ring
    have h6 : (d.toNat / 2 ^ (p + n) * 2 ^ n + a.toNat % 2 ^ n) * 2 ^ p
        = d.toNat / 2 ^ (p + n) * 2 ^ n * 2 ^ p + a.toNat % 2 ^ n * 2 ^ p := by ring
    omega
  have bit : ∀ i, ((d.toNat / 2 ^ (p + n) * 2 ^ n + a.toNat % 2 ^ n) * 2 ^ p + d.toNat % 2 ^ p).testBit i
      = if i < p then d.toNat.testBit i else if i < p + n then a.toNat.testBit (i - p) else d.toNat.testBit i := by
    intro i
    have l1 : d.toNat % 2 ^ p < 2 ^ p := Nat.mod_lt _ (Nat.two_pow_pos p)
    have l2 : a.toNat % 2 ^ n < 2 ^ n := Nat.mod_lt _ (Nat.two_pow_pos n)
    rw [Nat.mul_comm _ (2 ^ p), Nat.testBit_two_pow_mul_add _ l1]
    split
    · rename_i hi
      simp [Nat.testBit_mod_two_pow, hi]
    · rename_i hi
      rw [Nat.mul_comm _ (2 ^ n), Nat.testBit_two_pow_mul_add _ l2]
      split
      · rename_i hj
        rw [if_pos (by omega)]
        simp [Nat.testBit_mod_two_pow, hj]
      · rename_i hj
        rw [if_neg (by omega), Nat.testBit_div_two_pow]
        congr 1
        omega
  apply BitVec.eq_of_getLsbD_eq
  intro i hi
  rw [bfiW, putField, key, BitVec.getLsbD_ofNat, bit, fieldPut]
  simp only [BitVec.getLsbD_or, BitVec.getLsbD_and, BitVec.getLsbD_not, BitVec.getLsbD_shiftLeft, BitVec.getLsbD_ofNat, hi,
    decide_true, Bool.true_and, Nat.testBit_two_pow_sub_one]
  by_cases h1 : i < p
  · simp [h1, BitVec.getLsbD]
  · by_cases h2 : i < p + n
    · simp [h1, h2, show i - p < n by omega, show i - p < 64 by omega, BitVec.getLsbD]
    · simp [h1, h2, show ¬ (i - p < n) by omega, BitVec.getLsbD]

theorem ltU_eq (a b : Word) : (if decide (a.toNat < b.toNat) = true then (1 : Word) else 0) = if a < b then 1 else 0 := by
  simp only [decide_eq_true_eq, BitVec.lt_def]

theorem minS_eq (a b : Word) : (if a.slt b then a else b) = if a.sle b then a else b := by
  simp only [BitVec.slt_iff_toInt_lt, BitVec.sle_iff_toInt_le]
  split
  · rw [if_pos (by omega)]
  · split
    · exact BitVec.eq_of_toInt_eq (by omega)
    · rfl

theorem maxS_eq (a b : Word) : (if a.slt b then b else a) = if a.sle b then b else a := by
  simp only [BitVec.slt_iff_toInt_lt, BitVec.sle_iff_toInt_le]
  split
  · rw [if_pos (by omega)]
  · split
    · exact BitVec.eq_of_toInt_eq (by omega)
    · rfl

theorem minU_eq (a b : Word) : (if a.toNat < b.toNat then a else b) = if a ≤ b then a else b := by
  simp only [BitVec.le_def]
  split
  · rw [if_pos (by omega)]
  · split
    · exact BitVec.eq_of_toNat_eq (by omega)
    · rfl

theorem maxU_eq (a b : Word) : (if a.toNat < b.toNat then b else a) = if a ≤ b then b else a := by
  simp only [BitVec.le_def]
  split
  · rw [if_pos (by omega)]
  · split
    · exact BitVec.eq_of_toNat_eq (by omega)
    · rfl

theorem sext_eq {n : Nat} (h : 0 < n) (v : Nat) : sext n v = (BitVec.ofNat (8 * n) v).signExtend 64 := by
  rw [sext, signed_eq _ (by omega), BitVec.signExtend]

end Sys2Proof.Machine
end

