-- ==== Sys2Proof/Laws/State.lean ====
section
/-! SUPPORT. What each update of a state, a core or a strand leaves alone and what it writes: one lemma per field per
update, so that no later proof unfolds a record update. -/

namespace Sys2Proof.Machine

/-! Finite tables and vectors. -/

@[simp] theorem Table.get_set_same {α : Type} (t : Table α) (k : Nat) (v d : α) : (t.set k v).get k d = v := by
  induction t with
  | nil => simp [Table.set, Table.get]
  | cons e r ih =>
    obtain ⟨a, x⟩ := e
    simp only [Table.set]
    split
    · simp [Table.get]
    · split
      · simp [Table.get]
      · rename_i h _; simp [Table.get, h, ih]

@[simp] theorem Table.get_set_other {α : Type} (t : Table α) {k j : Nat} (v d : α) (h : k ≠ j) :
    (t.set k v).get j d = t.get j d := by
  induction t with
  | nil => simp [Table.set, Table.get, h]
  | cons e r ih =>
    obtain ⟨a, x⟩ := e
    simp only [Table.set]
    split
    · rename_i e; subst e; simp [Table.get, h]
    · split
      · simp [Table.get, h]
      · simp only [Table.get, ih]

theorem Table.set_set {α : Type} (t : Table α) (k : Nat) (v w : α) : (t.set k v).set k w = t.set k w := by
  induction t with
  | nil => simp [Table.set]
  | cons e r ih =>
    obtain ⟨a, x⟩ := e
    simp only [Table.set]
    split
    · simp [Table.set]
    · split
      · simp [Table.set]
      · rename_i h1 h2; simp [Table.set, h1, h2, ih]

@[simp] theorem vget_vset_same {α : Type} {n : Nat} (v : Vector α n) {i : Nat} (a d : α) (h : i < n) :
    vget (vset v i a) i d = a := by
  simp [vget, vset, Array.getD, h]

@[simp] theorem vget_vset_other {α : Type} {n : Nat} (v : Vector α n) {i j : Nat} (a d : α) (h : i ≠ j) :
    vget (vset v i a) j d = vget v j d := by
  simp [vget, vset, h]

@[simp] theorem vget_vmap {α β : Type} {n : Nat} (v : Vector α n) (f : α → β) {i : Nat} (d : α) :
    vget (vmap v f) i (f d) = f (vget v i d) := by
  simp only [vget, vmap, Array.getD_eq_getD_getElem?]
  cases h : v.toArray[i]? <;> simp_all

@[simp] theorem vget_tab {α : Type} (n : Nat) (f : Nat → α) {i : Nat} (d : α) (h : i < n) : vget (tab n f) i d = f i := by
  simp [vget, tab, Array.getD, h]

theorem strand_num_lt (st : Strand) : st.num < 4 := by cases st <;> decide

theorem strand_num_inj {a b : Strand} (h : a.num = b.num) : a = b := by
  cases a <;> cases b <;> first | rfl | cases h

theorem strand_num_ne {a b : Strand} (h : a ≠ b) : a.num ≠ b.num := fun e => h (strand_num_inj e)

/-! Updates of the whole state. -/

@[simp] theorem State.cycle_setCore (s : State) (c : Nat) (k : Core) : (s.setCore c k).cycle = s.cycle := rfl
@[simp] theorem State.gtcBase_setCore (s : State) (c : Nat) (k : Core) : (s.setCore c k).gtcBase = s.gtcBase := rfl
@[simp] theorem State.agenda_setCore (s : State) (c : Nat) (k : Core) : (s.setCore c k).agenda = s.agenda := rfl
@[simp] theorem State.focus_setCore (s : State) (c : Nat) (k : Core) : (s.setCore c k).focus = s.focus := rfl
@[simp] theorem State.round_setCore (s : State) (c : Nat) (k : Core) : (s.setCore c k).round = s.round := rfl
@[simp] theorem State.core_setCore (s : State) (c : Nat) (k : Core) : (s.setCore c k).core = s.core := rfl
@[simp] theorem State.late_setCore (s : State) (c : Nat) (k : Core) : (s.setCore c k).late = s.late := rfl
@[simp] theorem State.slot_setCore (s : State) (c : Nat) (k : Core) : (s.setCore c k).slot = s.slot := rfl
@[simp] theorem State.free_setCore (s : State) (c : Nat) (k : Core) : (s.setCore c k).free = s.free := rfl
@[simp] theorem State.around_setCore (s : State) (c : Nat) (k : Core) : (s.setCore c k).around = s.around := rfl
@[simp] theorem State.config_setCore (s : State) (c : Nat) (k : Core) : (s.setCore c k).config = s.config := rfl
@[simp] theorem State.boot_setCore (s : State) (c : Nat) (k : Core) : (s.setCore c k).boot = s.boot := rfl
@[simp] theorem State.railsOff_setCore (s : State) (c : Nat) (k : Core) : (s.setCore c k).railsOff = s.railsOff := rfl
@[simp] theorem State.halted_setCore (s : State) (c : Nat) (k : Core) : (s.setCore c k).halted = s.halted := rfl
@[simp] theorem State.hot_setCore (s : State) (c : Nat) (k : Core) : (s.setCore c k).hot = s.hot := rfl
@[simp] theorem State.hotStacks_setCore (s : State) (c : Nat) (k : Core) : (s.setCore c k).hotStacks = s.hotStacks := rfl
@[simp] theorem State.mem_setCore (s : State) (c : Nat) (k : Core) : (s.setCore c k).mem = s.mem := rfl
@[simp] theorem State.poison_setCore (s : State) (c : Nat) (k : Core) : (s.setCore c k).poison = s.poison := rfl
@[simp] theorem State.l2_setCore (s : State) (c : Nat) (k : Core) : (s.setCore c k).l2 = s.l2 := rfl
@[simp] theorem State.fills_setCore (s : State) (c : Nat) (k : Core) : (s.setCore c k).fills = s.fills := rfl
@[simp] theorem State.owners_setCore (s : State) (c : Nat) (k : Core) : (s.setCore c k).owners = s.owners := rfl
@[simp] theorem State.counters_setCore (s : State) (c : Nat) (k : Core) : (s.setCore c k).counters = s.counters := rfl
@[simp] theorem State.deliveries_setCore (s : State) (c : Nat) (k : Core) : (s.setCore c k).deliveries = s.deliveries := rfl
@[simp] theorem State.walks_setCore (s : State) (c : Nat) (k : Core) : (s.setCore c k).walks = s.walks := rfl
@[simp] theorem State.prefetches_setCore (s : State) (c : Nat) (k : Core) : (s.setCore c k).prefetches = s.prefetches := rfl
@[simp] theorem State.solvers_setCore (s : State) (c : Nat) (k : Core) : (s.setCore c k).solvers = s.solvers := rfl
@[simp] theorem State.engines_setCore (s : State) (c : Nat) (k : Core) : (s.setCore c k).engines = s.engines := rfl
@[simp] theorem State.collectives_setCore (s : State) (c : Nat) (k : Core) : (s.setCore c k).collectives = s.collectives := rfl
@[simp] theorem State.parts_setCore (s : State) (c : Nat) (k : Core) : (s.setCore c k).parts = s.parts := rfl
@[simp] theorem State.migration_setCore (s : State) (c : Nat) (k : Core) : (s.setCore c k).migration = s.migration := rfl
@[simp] theorem State.eqbase_setCore (s : State) (c : Nat) (k : Core) : (s.setCore c k).eqbase = s.eqbase := rfl
@[simp] theorem State.due_setCore (s : State) (c : Nat) (k : Core) : (s.setCore c k).due = s.due := rfl
@[simp] theorem State.pfEvents_setCore (s : State) (c : Nat) (k : Core) : (s.setCore c k).pfEvents = s.pfEvents := rfl
@[simp] theorem State.ecc_setCore (s : State) (c : Nat) (k : Core) : (s.setCore c k).ecc = s.ecc := rfl
@[simp] theorem State.coreTally_setCore (s : State) (c : Nat) (k : Core) : (s.setCore c k).coreTally = s.coreTally := rfl
@[simp] theorem State.rowTally_setCore (s : State) (c : Nat) (k : Core) : (s.setCore c k).rowTally = s.rowTally := rfl
@[simp] theorem State.chanTally_setCore (s : State) (c : Nat) (k : Core) : (s.setCore c k).chanTally = s.chanTally := rfl
@[simp] theorem State.repairs_setCore (s : State) (c : Nat) (k : Core) : (s.setCore c k).repairs = s.repairs := rfl
@[simp] theorem State.rowsOn_setCore (s : State) (c : Nat) (k : Core) : (s.setCore c k).rowsOn = s.rowsOn := rfl
@[simp] theorem State.power_setCore (s : State) (c : Nat) (k : Core) : (s.setCore c k).power = s.power := rfl
@[simp] theorem State.pkcap_setCore (s : State) (c : Nat) (k : Core) : (s.setCore c k).pkcap = s.pkcap := rfl
@[simp] theorem State.capSince_setCore (s : State) (c : Nat) (k : Core) : (s.setCore c k).capSince = s.capSince := rfl
@[simp] theorem State.pavg_setCore (s : State) (c : Nat) (k : Core) : (s.setCore c k).pavg = s.pavg := rfl
@[simp] theorem State.fscale_setCore (s : State) (c : Nat) (k : Core) : (s.setCore c k).fscale = s.fscale := rfl
@[simp] theorem State.belowFloor_setCore (s : State) (c : Nat) (k : Core) : (s.setCore c k).belowFloor = s.belowFloor := rfl
@[simp] theorem State.throt_setCore (s : State) (c : Nat) (k : Core) : (s.setCore c k).throt = s.throt := rfl
@[simp] theorem State.ports_setCore (s : State) (c : Nat) (k : Core) : (s.setCore c k).ports = s.ports := rfl
@[simp] theorem State.route_setCore (s : State) (c : Nat) (k : Core) : (s.setCore c k).route = s.route := rfl
@[simp] theorem State.onPort_setCore (s : State) (c : Nat) (k : Core) : (s.setCore c k).onPort = s.onPort := rfl
@[simp] theorem State.inb_setCore (s : State) (c : Nat) (k : Core) : (s.setCore c k).inb = s.inb := rfl
@[simp] theorem State.hdm_setCore (s : State) (c : Nat) (k : Core) : (s.setCore c k).hdm = s.hdm := rfl
@[simp] theorem State.hostDir_setCore (s : State) (c : Nat) (k : Core) : (s.setCore c k).hostDir = s.hostDir := rfl
@[simp] theorem State.snoop_setCore (s : State) (c : Nat) (k : Core) : (s.setCore c k).snoop = s.snoop := rfl
@[simp] theorem State.sent_setCore (s : State) (c : Nat) (k : Core) : (s.setCore c k).sent = s.sent := rfl
@[simp] theorem State.cycle_setMe (s : State) (k : Core) : (s.setMe k).cycle = s.cycle := rfl
@[simp] theorem State.gtcBase_setMe (s : State) (k : Core) : (s.setMe k).gtcBase = s.gtcBase := rfl
@[simp] theorem State.agenda_setMe (s : State) (k : Core) : (s.setMe k).agenda = s.agenda := rfl
@[simp] theorem State.focus_setMe (s : State) (k : Core) : (s.setMe k).focus = s.focus := rfl
@[simp] theorem State.round_setMe (s : State) (k : Core) : (s.setMe k).round = s.round := rfl
@[simp] theorem State.core_setMe (s : State) (k : Core) : (s.setMe k).core = s.core := rfl
@[simp] theorem State.late_setMe (s : State) (k : Core) : (s.setMe k).late = s.late := rfl
@[simp] theorem State.slot_setMe (s : State) (k : Core) : (s.setMe k).slot = s.slot := rfl
@[simp] theorem State.free_setMe (s : State) (k : Core) : (s.setMe k).free = s.free := rfl
@[simp] theorem State.around_setMe (s : State) (k : Core) : (s.setMe k).around = s.around := rfl
@[simp] theorem State.config_setMe (s : State) (k : Core) : (s.setMe k).config = s.config := rfl
@[simp] theorem State.boot_setMe (s : State) (k : Core) : (s.setMe k).boot = s.boot := rfl
@[simp] theorem State.railsOff_setMe (s : State) (k : Core) : (s.setMe k).railsOff = s.railsOff := rfl
@[simp] theorem State.halted_setMe (s : State) (k : Core) : (s.setMe k).halted = s.halted := rfl
@[simp] theorem State.hot_setMe (s : State) (k : Core) : (s.setMe k).hot = s.hot := rfl
@[simp] theorem State.hotStacks_setMe (s : State) (k : Core) : (s.setMe k).hotStacks = s.hotStacks := rfl
@[simp] theorem State.mem_setMe (s : State) (k : Core) : (s.setMe k).mem = s.mem := rfl
@[simp] theorem State.poison_setMe (s : State) (k : Core) : (s.setMe k).poison = s.poison := rfl
@[simp] theorem State.l2_setMe (s : State) (k : Core) : (s.setMe k).l2 = s.l2 := rfl
@[simp] theorem State.fills_setMe (s : State) (k : Core) : (s.setMe k).fills = s.fills := rfl
@[simp] theorem State.owners_setMe (s : State) (k : Core) : (s.setMe k).owners = s.owners := rfl
@[simp] theorem State.counters_setMe (s : State) (k : Core) : (s.setMe k).counters = s.counters := rfl
@[simp] theorem State.deliveries_setMe (s : State) (k : Core) : (s.setMe k).deliveries = s.deliveries := rfl
@[simp] theorem State.walks_setMe (s : State) (k : Core) : (s.setMe k).walks = s.walks := rfl
@[simp] theorem State.prefetches_setMe (s : State) (k : Core) : (s.setMe k).prefetches = s.prefetches := rfl
@[simp] theorem State.solvers_setMe (s : State) (k : Core) : (s.setMe k).solvers = s.solvers := rfl
@[simp] theorem State.engines_setMe (s : State) (k : Core) : (s.setMe k).engines = s.engines := rfl
@[simp] theorem State.collectives_setMe (s : State) (k : Core) : (s.setMe k).collectives = s.collectives := rfl
@[simp] theorem State.parts_setMe (s : State) (k : Core) : (s.setMe k).parts = s.parts := rfl
@[simp] theorem State.migration_setMe (s : State) (k : Core) : (s.setMe k).migration = s.migration := rfl
@[simp] theorem State.eqbase_setMe (s : State) (k : Core) : (s.setMe k).eqbase = s.eqbase := rfl
@[simp] theorem State.due_setMe (s : State) (k : Core) : (s.setMe k).due = s.due := rfl
@[simp] theorem State.pfEvents_setMe (s : State) (k : Core) : (s.setMe k).pfEvents = s.pfEvents := rfl
@[simp] theorem State.ecc_setMe (s : State) (k : Core) : (s.setMe k).ecc = s.ecc := rfl
@[simp] theorem State.coreTally_setMe (s : State) (k : Core) : (s.setMe k).coreTally = s.coreTally := rfl
@[simp] theorem State.rowTally_setMe (s : State) (k : Core) : (s.setMe k).rowTally = s.rowTally := rfl
@[simp] theorem State.chanTally_setMe (s : State) (k : Core) : (s.setMe k).chanTally = s.chanTally := rfl
@[simp] theorem State.repairs_setMe (s : State) (k : Core) : (s.setMe k).repairs = s.repairs := rfl
@[simp] theorem State.rowsOn_setMe (s : State) (k : Core) : (s.setMe k).rowsOn = s.rowsOn := rfl
@[simp] theorem State.power_setMe (s : State) (k : Core) : (s.setMe k).power = s.power := rfl
@[simp] theorem State.pkcap_setMe (s : State) (k : Core) : (s.setMe k).pkcap = s.pkcap := rfl
@[simp] theorem State.capSince_setMe (s : State) (k : Core) : (s.setMe k).capSince = s.capSince := rfl
@[simp] theorem State.pavg_setMe (s : State) (k : Core) : (s.setMe k).pavg = s.pavg := rfl
@[simp] theorem State.fscale_setMe (s : State) (k : Core) : (s.setMe k).fscale = s.fscale := rfl
@[simp] theorem State.belowFloor_setMe (s : State) (k : Core) : (s.setMe k).belowFloor = s.belowFloor := rfl
@[simp] theorem State.throt_setMe (s : State) (k : Core) : (s.setMe k).throt = s.throt := rfl
@[simp] theorem State.ports_setMe (s : State) (k : Core) : (s.setMe k).ports = s.ports := rfl
@[simp] theorem State.route_setMe (s : State) (k : Core) : (s.setMe k).route = s.route := rfl
@[simp] theorem State.onPort_setMe (s : State) (k : Core) : (s.setMe k).onPort = s.onPort := rfl
@[simp] theorem State.inb_setMe (s : State) (k : Core) : (s.setMe k).inb = s.inb := rfl
@[simp] theorem State.hdm_setMe (s : State) (k : Core) : (s.setMe k).hdm = s.hdm := rfl
@[simp] theorem State.hostDir_setMe (s : State) (k : Core) : (s.setMe k).hostDir = s.hostDir := rfl
@[simp] theorem State.snoop_setMe (s : State) (k : Core) : (s.setMe k).snoop = s.snoop := rfl
@[simp] theorem State.sent_setMe (s : State) (k : Core) : (s.setMe k).sent = s.sent := rfl
@[simp] theorem State.cycle_updMe (s : State) (f : Core → Core) : (s.updMe f).cycle = s.cycle := rfl
@[simp] theorem State.gtcBase_updMe (s : State) (f : Core → Core) : (s.updMe f).gtcBase = s.gtcBase := rfl
@[simp] theorem State.agenda_updMe (s : State) (f : Core → Core) : (s.updMe f).agenda = s.agenda := rfl
@[simp] theorem State.focus_updMe (s : State) (f : Core → Core) : (s.updMe f).focus = s.focus := rfl
@[simp] theorem State.round_updMe (s : State) (f : Core → Core) : (s.updMe f).round = s.round := rfl
@[simp] theorem State.core_updMe (s : State) (f : Core → Core) : (s.updMe f).core = s.core := rfl
@[simp] theorem State.late_updMe (s : State) (f : Core → Core) : (s.updMe f).late = s.late := rfl
@[simp] theorem State.slot_updMe (s : State) (f : Core → Core) : (s.updMe f).slot = s.slot := rfl
@[simp] theorem State.free_updMe (s : State) (f : Core → Core) : (s.updMe f).free = s.free := rfl
@[simp] theorem State.around_updMe (s : State) (f : Core → Core) : (s.updMe f).around = s.around := rfl
@[simp] theorem State.config_updMe (s : State) (f : Core → Core) : (s.updMe f).config = s.config := rfl
@[simp] theorem State.boot_updMe (s : State) (f : Core → Core) : (s.updMe f).boot = s.boot := rfl
@[simp] theorem State.railsOff_updMe (s : State) (f : Core → Core) : (s.updMe f).railsOff = s.railsOff := rfl
@[simp] theorem State.halted_updMe (s : State) (f : Core → Core) : (s.updMe f).halted = s.halted := rfl
@[simp] theorem State.hot_updMe (s : State) (f : Core → Core) : (s.updMe f).hot = s.hot := rfl
@[simp] theorem State.hotStacks_updMe (s : State) (f : Core → Core) : (s.updMe f).hotStacks = s.hotStacks := rfl
@[simp] theorem State.mem_updMe (s : State) (f : Core → Core) : (s.updMe f).mem = s.mem := rfl
@[simp] theorem State.poison_updMe (s : State) (f : Core → Core) : (s.updMe f).poison = s.poison := rfl
@[simp] theorem State.l2_updMe (s : State) (f : Core → Core) : (s.updMe f).l2 = s.l2 := rfl
@[simp] theorem State.fills_updMe (s : State) (f : Core → Core) : (s.updMe f).fills = s.fills := rfl
@[simp] theorem State.owners_updMe (s : State) (f : Core → Core) : (s.updMe f).owners = s.owners := rfl
@[simp] theorem State.counters_updMe (s : State) (f : Core → Core) : (s.updMe f).counters = s.counters := rfl
@[simp] theorem State.deliveries_updMe (s : State) (f : Core → Core) : (s.updMe f).deliveries = s.deliveries := rfl
@[simp] theorem State.walks_updMe (s : State) (f : Core → Core) : (s.updMe f).walks = s.walks := rfl
@[simp] theorem State.prefetches_updMe (s : State) (f : Core → Core) : (s.updMe f).prefetches = s.prefetches := rfl
@[simp] theorem State.solvers_updMe (s : State) (f : Core → Core) : (s.updMe f).solvers = s.solvers := rfl
@[simp] theorem State.engines_updMe (s : State) (f : Core → Core) : (s.updMe f).engines = s.engines := rfl
@[simp] theorem State.collectives_updMe (s : State) (f : Core → Core) : (s.updMe f).collectives = s.collectives := rfl
@[simp] theorem State.parts_updMe (s : State) (f : Core → Core) : (s.updMe f).parts = s.parts := rfl
@[simp] theorem State.migration_updMe (s : State) (f : Core → Core) : (s.updMe f).migration = s.migration := rfl
@[simp] theorem State.eqbase_updMe (s : State) (f : Core → Core) : (s.updMe f).eqbase = s.eqbase := rfl
@[simp] theorem State.due_updMe (s : State) (f : Core → Core) : (s.updMe f).due = s.due := rfl
@[simp] theorem State.pfEvents_updMe (s : State) (f : Core → Core) : (s.updMe f).pfEvents = s.pfEvents := rfl
@[simp] theorem State.ecc_updMe (s : State) (f : Core → Core) : (s.updMe f).ecc = s.ecc := rfl
@[simp] theorem State.coreTally_updMe (s : State) (f : Core → Core) : (s.updMe f).coreTally = s.coreTally := rfl
@[simp] theorem State.rowTally_updMe (s : State) (f : Core → Core) : (s.updMe f).rowTally = s.rowTally := rfl
@[simp] theorem State.chanTally_updMe (s : State) (f : Core → Core) : (s.updMe f).chanTally = s.chanTally := rfl
@[simp] theorem State.repairs_updMe (s : State) (f : Core → Core) : (s.updMe f).repairs = s.repairs := rfl
@[simp] theorem State.rowsOn_updMe (s : State) (f : Core → Core) : (s.updMe f).rowsOn = s.rowsOn := rfl
@[simp] theorem State.power_updMe (s : State) (f : Core → Core) : (s.updMe f).power = s.power := rfl
@[simp] theorem State.pkcap_updMe (s : State) (f : Core → Core) : (s.updMe f).pkcap = s.pkcap := rfl
@[simp] theorem State.capSince_updMe (s : State) (f : Core → Core) : (s.updMe f).capSince = s.capSince := rfl
@[simp] theorem State.pavg_updMe (s : State) (f : Core → Core) : (s.updMe f).pavg = s.pavg := rfl
@[simp] theorem State.fscale_updMe (s : State) (f : Core → Core) : (s.updMe f).fscale = s.fscale := rfl
@[simp] theorem State.belowFloor_updMe (s : State) (f : Core → Core) : (s.updMe f).belowFloor = s.belowFloor := rfl
@[simp] theorem State.throt_updMe (s : State) (f : Core → Core) : (s.updMe f).throt = s.throt := rfl
@[simp] theorem State.ports_updMe (s : State) (f : Core → Core) : (s.updMe f).ports = s.ports := rfl
@[simp] theorem State.route_updMe (s : State) (f : Core → Core) : (s.updMe f).route = s.route := rfl
@[simp] theorem State.onPort_updMe (s : State) (f : Core → Core) : (s.updMe f).onPort = s.onPort := rfl
@[simp] theorem State.inb_updMe (s : State) (f : Core → Core) : (s.updMe f).inb = s.inb := rfl
@[simp] theorem State.hdm_updMe (s : State) (f : Core → Core) : (s.updMe f).hdm = s.hdm := rfl
@[simp] theorem State.hostDir_updMe (s : State) (f : Core → Core) : (s.updMe f).hostDir = s.hostDir := rfl
@[simp] theorem State.snoop_updMe (s : State) (f : Core → Core) : (s.updMe f).snoop = s.snoop := rfl
@[simp] theorem State.sent_updMe (s : State) (f : Core → Core) : (s.updMe f).sent = s.sent := rfl
@[simp] theorem State.cycle_updCore (s : State) (c : Nat) (f : Core → Core) : (s.updCore c f).cycle = s.cycle := rfl
@[simp] theorem State.gtcBase_updCore (s : State) (c : Nat) (f : Core → Core) : (s.updCore c f).gtcBase = s.gtcBase := rfl
@[simp] theorem State.agenda_updCore (s : State) (c : Nat) (f : Core → Core) : (s.updCore c f).agenda = s.agenda := rfl
@[simp] theorem State.focus_updCore (s : State) (c : Nat) (f : Core → Core) : (s.updCore c f).focus = s.focus := rfl
@[simp] theorem State.round_updCore (s : State) (c : Nat) (f : Core → Core) : (s.updCore c f).round = s.round := rfl
@[simp] theorem State.core_updCore (s : State) (c : Nat) (f : Core → Core) : (s.updCore c f).core = s.core := rfl
@[simp] theorem State.late_updCore (s : State) (c : Nat) (f : Core → Core) : (s.updCore c f).late = s.late := rfl
@[simp] theorem State.slot_updCore (s : State) (c : Nat) (f : Core → Core) : (s.updCore c f).slot = s.slot := rfl
@[simp] theorem State.free_updCore (s : State) (c : Nat) (f : Core → Core) : (s.updCore c f).free = s.free := rfl
@[simp] theorem State.around_updCore (s : State) (c : Nat) (f : Core → Core) : (s.updCore c f).around = s.around := rfl
@[simp] theorem State.config_updCore (s : State) (c : Nat) (f : Core → Core) : (s.updCore c f).config = s.config := rfl
@[simp] theorem State.boot_updCore (s : State) (c : Nat) (f : Core → Core) : (s.updCore c f).boot = s.boot := rfl
@[simp] theorem State.railsOff_updCore (s : State) (c : Nat) (f : Core → Core) : (s.updCore c f).railsOff = s.railsOff := rfl
@[simp] theorem State.halted_updCore (s : State) (c : Nat) (f : Core → Core) : (s.updCore c f).halted = s.halted := rfl
@[simp] theorem State.hot_updCore (s : State) (c : Nat) (f : Core → Core) : (s.updCore c f).hot = s.hot := rfl
@[simp] theorem State.hotStacks_updCore (s : State) (c : Nat) (f : Core → Core) : (s.updCore c f).hotStacks = s.hotStacks := rfl
@[simp] theorem State.mem_updCore (s : State) (c : Nat) (f : Core → Core) : (s.updCore c f).mem = s.mem := rfl
@[simp] theorem State.poison_updCore (s : State) (c : Nat) (f : Core → Core) : (s.updCore c f).poison = s.poison := rfl
@[simp] theorem State.l2_updCore (s : State) (c : Nat) (f : Core → Core) : (s.updCore c f).l2 = s.l2 := rfl
@[simp] theorem State.fills_updCore (s : State) (c : Nat) (f : Core → Core) : (s.updCore c f).fills = s.fills := rfl
@[simp] theorem State.owners_updCore (s : State) (c : Nat) (f : Core → Core) : (s.updCore c f).owners = s.owners := rfl
@[simp] theorem State.counters_updCore (s : State) (c : Nat) (f : Core → Core) : (s.updCore c f).counters = s.counters := rfl
@[simp] theorem State.deliveries_updCore (s : State) (c : Nat) (f : Core → Core) : (s.updCore c f).deliveries = s.deliveries := rfl
@[simp] theorem State.walks_updCore (s : State) (c : Nat) (f : Core → Core) : (s.updCore c f).walks = s.walks := rfl
@[simp] theorem State.prefetches_updCore (s : State) (c : Nat) (f : Core → Core) : (s.updCore c f).prefetches = s.prefetches := rfl
@[simp] theorem State.solvers_updCore (s : State) (c : Nat) (f : Core → Core) : (s.updCore c f).solvers = s.solvers := rfl
@[simp] theorem State.engines_updCore (s : State) (c : Nat) (f : Core → Core) : (s.updCore c f).engines = s.engines := rfl
@[simp] theorem State.collectives_updCore (s : State) (c : Nat) (f : Core → Core) : (s.updCore c f).collectives = s.collectives := rfl
@[simp] theorem State.parts_updCore (s : State) (c : Nat) (f : Core → Core) : (s.updCore c f).parts = s.parts := rfl
@[simp] theorem State.migration_updCore (s : State) (c : Nat) (f : Core → Core) : (s.updCore c f).migration = s.migration := rfl
@[simp] theorem State.eqbase_updCore (s : State) (c : Nat) (f : Core → Core) : (s.updCore c f).eqbase = s.eqbase := rfl
@[simp] theorem State.due_updCore (s : State) (c : Nat) (f : Core → Core) : (s.updCore c f).due = s.due := rfl
@[simp] theorem State.pfEvents_updCore (s : State) (c : Nat) (f : Core → Core) : (s.updCore c f).pfEvents = s.pfEvents := rfl
@[simp] theorem State.ecc_updCore (s : State) (c : Nat) (f : Core → Core) : (s.updCore c f).ecc = s.ecc := rfl
@[simp] theorem State.coreTally_updCore (s : State) (c : Nat) (f : Core → Core) : (s.updCore c f).coreTally = s.coreTally := rfl
@[simp] theorem State.rowTally_updCore (s : State) (c : Nat) (f : Core → Core) : (s.updCore c f).rowTally = s.rowTally := rfl
@[simp] theorem State.chanTally_updCore (s : State) (c : Nat) (f : Core → Core) : (s.updCore c f).chanTally = s.chanTally := rfl
@[simp] theorem State.repairs_updCore (s : State) (c : Nat) (f : Core → Core) : (s.updCore c f).repairs = s.repairs := rfl
@[simp] theorem State.rowsOn_updCore (s : State) (c : Nat) (f : Core → Core) : (s.updCore c f).rowsOn = s.rowsOn := rfl
@[simp] theorem State.power_updCore (s : State) (c : Nat) (f : Core → Core) : (s.updCore c f).power = s.power := rfl
@[simp] theorem State.pkcap_updCore (s : State) (c : Nat) (f : Core → Core) : (s.updCore c f).pkcap = s.pkcap := rfl
@[simp] theorem State.capSince_updCore (s : State) (c : Nat) (f : Core → Core) : (s.updCore c f).capSince = s.capSince := rfl
@[simp] theorem State.pavg_updCore (s : State) (c : Nat) (f : Core → Core) : (s.updCore c f).pavg = s.pavg := rfl
@[simp] theorem State.fscale_updCore (s : State) (c : Nat) (f : Core → Core) : (s.updCore c f).fscale = s.fscale := rfl
@[simp] theorem State.belowFloor_updCore (s : State) (c : Nat) (f : Core → Core) : (s.updCore c f).belowFloor = s.belowFloor := rfl
@[simp] theorem State.throt_updCore (s : State) (c : Nat) (f : Core → Core) : (s.updCore c f).throt = s.throt := rfl
@[simp] theorem State.ports_updCore (s : State) (c : Nat) (f : Core → Core) : (s.updCore c f).ports = s.ports := rfl
@[simp] theorem State.route_updCore (s : State) (c : Nat) (f : Core → Core) : (s.updCore c f).route = s.route := rfl
@[simp] theorem State.onPort_updCore (s : State) (c : Nat) (f : Core → Core) : (s.updCore c f).onPort = s.onPort := rfl
@[simp] theorem State.inb_updCore (s : State) (c : Nat) (f : Core → Core) : (s.updCore c f).inb = s.inb := rfl
@[simp] theorem State.hdm_updCore (s : State) (c : Nat) (f : Core → Core) : (s.updCore c f).hdm = s.hdm := rfl
@[simp] theorem State.hostDir_updCore (s : State) (c : Nat) (f : Core → Core) : (s.updCore c f).hostDir = s.hostDir := rfl
@[simp] theorem State.snoop_updCore (s : State) (c : Nat) (f : Core → Core) : (s.updCore c f).snoop = s.snoop := rfl
@[simp] theorem State.sent_updCore (s : State) (c : Nat) (f : Core → Core) : (s.updCore c f).sent = s.sent := rfl
@[simp] theorem State.cycle_setPart (s : State) (p : Nat) (v : Part) : (s.setPart p v).cycle = s.cycle := rfl
@[simp] theorem State.gtcBase_setPart (s : State) (p : Nat) (v : Part) : (s.setPart p v).gtcBase = s.gtcBase := rfl
@[simp] theorem State.agenda_setPart (s : State) (p : Nat) (v : Part) : (s.setPart p v).agenda = s.agenda := rfl
@[simp] theorem State.focus_setPart (s : State) (p : Nat) (v : Part) : (s.setPart p v).focus = s.focus := rfl
@[simp] theorem State.round_setPart (s : State) (p : Nat) (v : Part) : (s.setPart p v).round = s.round := rfl
@[simp] theorem State.core_setPart (s : State) (p : Nat) (v : Part) : (s.setPart p v).core = s.core := rfl
@[simp] theorem State.late_setPart (s : State) (p : Nat) (v : Part) : (s.setPart p v).late = s.late := rfl
@[simp] theorem State.slot_setPart (s : State) (p : Nat) (v : Part) : (s.setPart p v).slot = s.slot := rfl
@[simp] theorem State.free_setPart (s : State) (p : Nat) (v : Part) : (s.setPart p v).free = s.free := rfl
@[simp] theorem State.around_setPart (s : State) (p : Nat) (v : Part) : (s.setPart p v).around = s.around := rfl
@[simp] theorem State.config_setPart (s : State) (p : Nat) (v : Part) : (s.setPart p v).config = s.config := rfl
@[simp] theorem State.boot_setPart (s : State) (p : Nat) (v : Part) : (s.setPart p v).boot = s.boot := rfl
@[simp] theorem State.railsOff_setPart (s : State) (p : Nat) (v : Part) : (s.setPart p v).railsOff = s.railsOff := rfl
@[simp] theorem State.halted_setPart (s : State) (p : Nat) (v : Part) : (s.setPart p v).halted = s.halted := rfl
@[simp] theorem State.hot_setPart (s : State) (p : Nat) (v : Part) : (s.setPart p v).hot = s.hot := rfl
@[simp] theorem State.hotStacks_setPart (s : State) (p : Nat) (v : Part) : (s.setPart p v).hotStacks = s.hotStacks := rfl
@[simp] theorem State.cores_setPart (s : State) (p : Nat) (v : Part) : (s.setPart p v).cores = s.cores := rfl
@[simp] theorem State.mem_setPart (s : State) (p : Nat) (v : Part) : (s.setPart p v).mem = s.mem := rfl
@[simp] theorem State.poison_setPart (s : State) (p : Nat) (v : Part) : (s.setPart p v).poison = s.poison := rfl
@[simp] theorem State.l2_setPart (s : State) (p : Nat) (v : Part) : (s.setPart p v).l2 = s.l2 := rfl
@[simp] theorem State.fills_setPart (s : State) (p : Nat) (v : Part) : (s.setPart p v).fills = s.fills := rfl
@[simp] theorem State.owners_setPart (s : State) (p : Nat) (v : Part) : (s.setPart p v).owners = s.owners := rfl
@[simp] theorem State.counters_setPart (s : State) (p : Nat) (v : Part) : (s.setPart p v).counters = s.counters := rfl
@[simp] theorem State.deliveries_setPart (s : State) (p : Nat) (v : Part) : (s.setPart p v).deliveries = s.deliveries := rfl
@[simp] theorem State.walks_setPart (s : State) (p : Nat) (v : Part) : (s.setPart p v).walks = s.walks := rfl
@[simp] theorem State.prefetches_setPart (s : State) (p : Nat) (v : Part) : (s.setPart p v).prefetches = s.prefetches := rfl
@[simp] theorem State.solvers_setPart (s : State) (p : Nat) (v : Part) : (s.setPart p v).solvers = s.solvers := rfl
@[simp] theorem State.engines_setPart (s : State) (p : Nat) (v : Part) : (s.setPart p v).engines = s.engines := rfl
@[simp] theorem State.collectives_setPart (s : State) (p : Nat) (v : Part) : (s.setPart p v).collectives = s.collectives := rfl
@[simp] theorem State.migration_setPart (s : State) (p : Nat) (v : Part) : (s.setPart p v).migration = s.migration := rfl
@[simp] theorem State.eqbase_setPart (s : State) (p : Nat) (v : Part) : (s.setPart p v).eqbase = s.eqbase := rfl
@[simp] theorem State.due_setPart (s : State) (p : Nat) (v : Part) : (s.setPart p v).due = s.due := rfl
@[simp] theorem State.pfEvents_setPart (s : State) (p : Nat) (v : Part) : (s.setPart p v).pfEvents = s.pfEvents := rfl
@[simp] theorem State.ecc_setPart (s : State) (p : Nat) (v : Part) : (s.setPart p v).ecc = s.ecc := rfl
@[simp] theorem State.coreTally_setPart (s : State) (p : Nat) (v : Part) : (s.setPart p v).coreTally = s.coreTally := rfl
@[simp] theorem State.rowTally_setPart (s : State) (p : Nat) (v : Part) : (s.setPart p v).rowTally = s.rowTally := rfl
@[simp] theorem State.chanTally_setPart (s : State) (p : Nat) (v : Part) : (s.setPart p v).chanTally = s.chanTally := rfl
@[simp] theorem State.repairs_setPart (s : State) (p : Nat) (v : Part) : (s.setPart p v).repairs = s.repairs := rfl
@[simp] theorem State.rowsOn_setPart (s : State) (p : Nat) (v : Part) : (s.setPart p v).rowsOn = s.rowsOn := rfl
@[simp] theorem State.power_setPart (s : State) (p : Nat) (v : Part) : (s.setPart p v).power = s.power := rfl
@[simp] theorem State.pkcap_setPart (s : State) (p : Nat) (v : Part) : (s.setPart p v).pkcap = s.pkcap := rfl
@[simp] theorem State.capSince_setPart (s : State) (p : Nat) (v : Part) : (s.setPart p v).capSince = s.capSince := rfl
@[simp] theorem State.pavg_setPart (s : State) (p : Nat) (v : Part) : (s.setPart p v).pavg = s.pavg := rfl
@[simp] theorem State.fscale_setPart (s : State) (p : Nat) (v : Part) : (s.setPart p v).fscale = s.fscale := rfl
@[simp] theorem State.belowFloor_setPart (s : State) (p : Nat) (v : Part) : (s.setPart p v).belowFloor = s.belowFloor := rfl
@[simp] theorem State.throt_setPart (s : State) (p : Nat) (v : Part) : (s.setPart p v).throt = s.throt := rfl
@[simp] theorem State.ports_setPart (s : State) (p : Nat) (v : Part) : (s.setPart p v).ports = s.ports := rfl
@[simp] theorem State.route_setPart (s : State) (p : Nat) (v : Part) : (s.setPart p v).route = s.route := rfl
@[simp] theorem State.onPort_setPart (s : State) (p : Nat) (v : Part) : (s.setPart p v).onPort = s.onPort := rfl
@[simp] theorem State.inb_setPart (s : State) (p : Nat) (v : Part) : (s.setPart p v).inb = s.inb := rfl
@[simp] theorem State.hdm_setPart (s : State) (p : Nat) (v : Part) : (s.setPart p v).hdm = s.hdm := rfl
@[simp] theorem State.hostDir_setPart (s : State) (p : Nat) (v : Part) : (s.setPart p v).hostDir = s.hostDir := rfl
@[simp] theorem State.snoop_setPart (s : State) (p : Nat) (v : Part) : (s.setPart p v).snoop = s.snoop := rfl
@[simp] theorem State.sent_setPart (s : State) (p : Nat) (v : Part) : (s.setPart p v).sent = s.sent := rfl
@[simp] theorem State.cycle_updPart (s : State) (p : Nat) (f : Part → Part) : (s.updPart p f).cycle = s.cycle := rfl
@[simp] theorem State.gtcBase_updPart (s : State) (p : Nat) (f : Part → Part) : (s.updPart p f).gtcBase = s.gtcBase := rfl
@[simp] theorem State.agenda_updPart (s : State) (p : Nat) (f : Part → Part) : (s.updPart p f).agenda = s.agenda := rfl
@[simp] theorem State.focus_updPart (s : State) (p : Nat) (f : Part → Part) : (s.updPart p f).focus = s.focus := rfl
@[simp] theorem State.round_updPart (s : State) (p : Nat) (f : Part → Part) : (s.updPart p f).round = s.round := rfl
@[simp] theorem State.core_updPart (s : State) (p : Nat) (f : Part → Part) : (s.updPart p f).core = s.core := rfl
@[simp] theorem State.late_updPart (s : State) (p : Nat) (f : Part → Part) : (s.updPart p f).late = s.late := rfl
@[simp] theorem State.slot_updPart (s : State) (p : Nat) (f : Part → Part) : (s.updPart p f).slot = s.slot := rfl
@[simp] theorem State.free_updPart (s : State) (p : Nat) (f : Part → Part) : (s.updPart p f).free = s.free := rfl
@[simp] theorem State.around_updPart (s : State) (p : Nat) (f : Part → Part) : (s.updPart p f).around = s.around := rfl
@[simp] theorem State.config_updPart (s : State) (p : Nat) (f : Part → Part) : (s.updPart p f).config = s.config := rfl
@[simp] theorem State.boot_updPart (s : State) (p : Nat) (f : Part → Part) : (s.updPart p f).boot = s.boot := rfl
@[simp] theorem State.railsOff_updPart (s : State) (p : Nat) (f : Part → Part) : (s.updPart p f).railsOff = s.railsOff := rfl
@[simp] theorem State.halted_updPart (s : State) (p : Nat) (f : Part → Part) : (s.updPart p f).halted = s.halted := rfl
@[simp] theorem State.hot_updPart (s : State) (p : Nat) (f : Part → Part) : (s.updPart p f).hot = s.hot := rfl
@[simp] theorem State.hotStacks_updPart (s : State) (p : Nat) (f : Part → Part) : (s.updPart p f).hotStacks = s.hotStacks := rfl
@[simp] theorem State.cores_updPart (s : State) (p : Nat) (f : Part → Part) : (s.updPart p f).cores = s.cores := rfl
@[simp] theorem State.mem_updPart (s : State) (p : Nat) (f : Part → Part) : (s.updPart p f).mem = s.mem := rfl
@[simp] theorem State.poison_updPart (s : State) (p : Nat) (f : Part → Part) : (s.updPart p f).poison = s.poison := rfl
@[simp] theorem State.l2_updPart (s : State) (p : Nat) (f : Part → Part) : (s.updPart p f).l2 = s.l2 := rfl
@[simp] theorem State.fills_updPart (s : State) (p : Nat) (f : Part → Part) : (s.updPart p f).fills = s.fills := rfl
@[simp] theorem State.owners_updPart (s : State) (p : Nat) (f : Part → Part) : (s.updPart p f).owners = s.owners := rfl
@[simp] theorem State.counters_updPart (s : State) (p : Nat) (f : Part → Part) : (s.updPart p f).counters = s.counters := rfl
@[simp] theorem State.deliveries_updPart (s : State) (p : Nat) (f : Part → Part) : (s.updPart p f).deliveries = s.deliveries := rfl
@[simp] theorem State.walks_updPart (s : State) (p : Nat) (f : Part → Part) : (s.updPart p f).walks = s.walks := rfl
@[simp] theorem State.prefetches_updPart (s : State) (p : Nat) (f : Part → Part) : (s.updPart p f).prefetches = s.prefetches := rfl
@[simp] theorem State.solvers_updPart (s : State) (p : Nat) (f : Part → Part) : (s.updPart p f).solvers = s.solvers := rfl
@[simp] theorem State.engines_updPart (s : State) (p : Nat) (f : Part → Part) : (s.updPart p f).engines = s.engines := rfl
@[simp] theorem State.collectives_updPart (s : State) (p : Nat) (f : Part → Part) : (s.updPart p f).collectives = s.collectives := rfl
@[simp] theorem State.migration_updPart (s : State) (p : Nat) (f : Part → Part) : (s.updPart p f).migration = s.migration := rfl
@[simp] theorem State.eqbase_updPart (s : State) (p : Nat) (f : Part → Part) : (s.updPart p f).eqbase = s.eqbase := rfl
@[simp] theorem State.due_updPart (s : State) (p : Nat) (f : Part → Part) : (s.updPart p f).due = s.due := rfl
@[simp] theorem State.pfEvents_updPart (s : State) (p : Nat) (f : Part → Part) : (s.updPart p f).pfEvents = s.pfEvents := rfl
@[simp] theorem State.ecc_updPart (s : State) (p : Nat) (f : Part → Part) : (s.updPart p f).ecc = s.ecc := rfl
@[simp] theorem State.coreTally_updPart (s : State) (p : Nat) (f : Part → Part) : (s.updPart p f).coreTally = s.coreTally := rfl
@[simp] theorem State.rowTally_updPart (s : State) (p : Nat) (f : Part → Part) : (s.updPart p f).rowTally = s.rowTally := rfl
@[simp] theorem State.chanTally_updPart (s : State) (p : Nat) (f : Part → Part) : (s.updPart p f).chanTally = s.chanTally := rfl
@[simp] theorem State.repairs_updPart (s : State) (p : Nat) (f : Part → Part) : (s.updPart p f).repairs = s.repairs := rfl
@[simp] theorem State.rowsOn_updPart (s : State) (p : Nat) (f : Part → Part) : (s.updPart p f).rowsOn = s.rowsOn := rfl
@[simp] theorem State.power_updPart (s : State) (p : Nat) (f : Part → Part) : (s.updPart p f).power = s.power := rfl
@[simp] theorem State.pkcap_updPart (s : State) (p : Nat) (f : Part → Part) : (s.updPart p f).pkcap = s.pkcap := rfl
@[simp] theorem State.capSince_updPart (s : State) (p : Nat) (f : Part → Part) : (s.updPart p f).capSince = s.capSince := rfl
@[simp] theorem State.pavg_updPart (s : State) (p : Nat) (f : Part → Part) : (s.updPart p f).pavg = s.pavg := rfl
@[simp] theorem State.fscale_updPart (s : State) (p : Nat) (f : Part → Part) : (s.updPart p f).fscale = s.fscale := rfl
@[simp] theorem State.belowFloor_updPart (s : State) (p : Nat) (f : Part → Part) : (s.updPart p f).belowFloor = s.belowFloor := rfl
@[simp] theorem State.throt_updPart (s : State) (p : Nat) (f : Part → Part) : (s.updPart p f).throt = s.throt := rfl
@[simp] theorem State.ports_updPart (s : State) (p : Nat) (f : Part → Part) : (s.updPart p f).ports = s.ports := rfl
@[simp] theorem State.route_updPart (s : State) (p : Nat) (f : Part → Part) : (s.updPart p f).route = s.route := rfl
@[simp] theorem State.onPort_updPart (s : State) (p : Nat) (f : Part → Part) : (s.updPart p f).onPort = s.onPort := rfl
@[simp] theorem State.inb_updPart (s : State) (p : Nat) (f : Part → Part) : (s.updPart p f).inb = s.inb := rfl
@[simp] theorem State.hdm_updPart (s : State) (p : Nat) (f : Part → Part) : (s.updPart p f).hdm = s.hdm := rfl
@[simp] theorem State.hostDir_updPart (s : State) (p : Nat) (f : Part → Part) : (s.updPart p f).hostDir = s.hostDir := rfl
@[simp] theorem State.snoop_updPart (s : State) (p : Nat) (f : Part → Part) : (s.updPart p f).snoop = s.snoop := rfl
@[simp] theorem State.sent_updPart (s : State) (p : Nat) (f : Part → Part) : (s.updPart p f).sent = s.sent := rfl
@[simp] theorem State.cycle_setCounter (s : State) (c : Nat) (k : Counter) : (s.setCounter c k).cycle = s.cycle := rfl
@[simp] theorem State.gtcBase_setCounter (s : State) (c : Nat) (k : Counter) : (s.setCounter c k).gtcBase = s.gtcBase := rfl
@[simp] theorem State.agenda_setCounter (s : State) (c : Nat) (k : Counter) : (s.setCounter c k).agenda = s.agenda := rfl
@[simp] theorem State.focus_setCounter (s : State) (c : Nat) (k : Counter) : (s.setCounter c k).focus = s.focus := rfl
@[simp] theorem State.round_setCounter (s : State) (c : Nat) (k : Counter) : (s.setCounter c k).round = s.round := rfl
@[simp] theorem State.core_setCounter (s : State) (c : Nat) (k : Counter) : (s.setCounter c k).core = s.core := rfl
@[simp] theorem State.late_setCounter (s : State) (c : Nat) (k : Counter) : (s.setCounter c k).late = s.late := rfl
@[simp] theorem State.slot_setCounter (s : State) (c : Nat) (k : Counter) : (s.setCounter c k).slot = s.slot := rfl
@[simp] theorem State.free_setCounter (s : State) (c : Nat) (k : Counter) : (s.setCounter c k).free = s.free := rfl
@[simp] theorem State.around_setCounter (s : State) (c : Nat) (k : Counter) : (s.setCounter c k).around = s.around := rfl
@[simp] theorem State.config_setCounter (s : State) (c : Nat) (k : Counter) : (s.setCounter c k).config = s.config := rfl
@[simp] theorem State.boot_setCounter (s : State) (c : Nat) (k : Counter) : (s.setCounter c k).boot = s.boot := rfl
@[simp] theorem State.railsOff_setCounter (s : State) (c : Nat) (k : Counter) : (s.setCounter c k).railsOff = s.railsOff := rfl
@[simp] theorem State.halted_setCounter (s : State) (c : Nat) (k : Counter) : (s.setCounter c k).halted = s.halted := rfl
@[simp] theorem State.hot_setCounter (s : State) (c : Nat) (k : Counter) : (s.setCounter c k).hot = s.hot := rfl
@[simp] theorem State.hotStacks_setCounter (s : State) (c : Nat) (k : Counter) : (s.setCounter c k).hotStacks = s.hotStacks := rfl
@[simp] theorem State.cores_setCounter (s : State) (c : Nat) (k : Counter) : (s.setCounter c k).cores = s.cores := rfl
@[simp] theorem State.mem_setCounter (s : State) (c : Nat) (k : Counter) : (s.setCounter c k).mem = s.mem := rfl
@[simp] theorem State.poison_setCounter (s : State) (c : Nat) (k : Counter) : (s.setCounter c k).poison = s.poison := rfl
@[simp] theorem State.l2_setCounter (s : State) (c : Nat) (k : Counter) : (s.setCounter c k).l2 = s.l2 := rfl
@[simp] theorem State.fills_setCounter (s : State) (c : Nat) (k : Counter) : (s.setCounter c k).fills = s.fills := rfl
@[simp] theorem State.owners_setCounter (s : State) (c : Nat) (k : Counter) : (s.setCounter c k).owners = s.owners := rfl
@[simp] theorem State.deliveries_setCounter (s : State) (c : Nat) (k : Counter) : (s.setCounter c k).deliveries = s.deliveries := rfl
@[simp] theorem State.walks_setCounter (s : State) (c : Nat) (k : Counter) : (s.setCounter c k).walks = s.walks := rfl
@[simp] theorem State.prefetches_setCounter (s : State) (c : Nat) (k : Counter) : (s.setCounter c k).prefetches = s.prefetches := rfl
@[simp] theorem State.solvers_setCounter (s : State) (c : Nat) (k : Counter) : (s.setCounter c k).solvers = s.solvers := rfl
@[simp] theorem State.engines_setCounter (s : State) (c : Nat) (k : Counter) : (s.setCounter c k).engines = s.engines := rfl
@[simp] theorem State.collectives_setCounter (s : State) (c : Nat) (k : Counter) : (s.setCounter c k).collectives = s.collectives := rfl
@[simp] theorem State.parts_setCounter (s : State) (c : Nat) (k : Counter) : (s.setCounter c k).parts = s.parts := rfl
@[simp] theorem State.migration_setCounter (s : State) (c : Nat) (k : Counter) : (s.setCounter c k).migration = s.migration := rfl
@[simp] theorem State.eqbase_setCounter (s : State) (c : Nat) (k : Counter) : (s.setCounter c k).eqbase = s.eqbase := rfl
@[simp] theorem State.due_setCounter (s : State) (c : Nat) (k : Counter) : (s.setCounter c k).due = s.due := rfl
@[simp] theorem State.pfEvents_setCounter (s : State) (c : Nat) (k : Counter) : (s.setCounter c k).pfEvents = s.pfEvents := rfl
@[simp] theorem State.ecc_setCounter (s : State) (c : Nat) (k : Counter) : (s.setCounter c k).ecc = s.ecc := rfl
@[simp] theorem State.coreTally_setCounter (s : State) (c : Nat) (k : Counter) : (s.setCounter c k).coreTally = s.coreTally := rfl
@[simp] theorem State.rowTally_setCounter (s : State) (c : Nat) (k : Counter) : (s.setCounter c k).rowTally = s.rowTally := rfl
@[simp] theorem State.chanTally_setCounter (s : State) (c : Nat) (k : Counter) : (s.setCounter c k).chanTally = s.chanTally := rfl
@[simp] theorem State.repairs_setCounter (s : State) (c : Nat) (k : Counter) : (s.setCounter c k).repairs = s.repairs := rfl
@[simp] theorem State.rowsOn_setCounter (s : State) (c : Nat) (k : Counter) : (s.setCounter c k).rowsOn = s.rowsOn := rfl
@[simp] theorem State.power_setCounter (s : State) (c : Nat) (k : Counter) : (s.setCounter c k).power = s.power := rfl
@[simp] theorem State.pkcap_setCounter (s : State) (c : Nat) (k : Counter) : (s.setCounter c k).pkcap = s.pkcap := rfl
@[simp] theorem State.capSince_setCounter (s : State) (c : Nat) (k : Counter) : (s.setCounter c k).capSince = s.capSince := rfl
@[simp] theorem State.pavg_setCounter (s : State) (c : Nat) (k : Counter) : (s.setCounter c k).pavg = s.pavg := rfl
@[simp] theorem State.fscale_setCounter (s : State) (c : Nat) (k : Counter) : (s.setCounter c k).fscale = s.fscale := rfl
@[simp] theorem State.belowFloor_setCounter (s : State) (c : Nat) (k : Counter) : (s.setCounter c k).belowFloor = s.belowFloor := rfl
@[simp] theorem State.throt_setCounter (s : State) (c : Nat) (k : Counter) : (s.setCounter c k).throt = s.throt := rfl
@[simp] theorem State.ports_setCounter (s : State) (c : Nat) (k : Counter) : (s.setCounter c k).ports = s.ports := rfl
@[simp] theorem State.route_setCounter (s : State) (c : Nat) (k : Counter) : (s.setCounter c k).route = s.route := rfl
@[simp] theorem State.onPort_setCounter (s : State) (c : Nat) (k : Counter) : (s.setCounter c k).onPort = s.onPort := rfl
@[simp] theorem State.inb_setCounter (s : State) (c : Nat) (k : Counter) : (s.setCounter c k).inb = s.inb := rfl
@[simp] theorem State.hdm_setCounter (s : State) (c : Nat) (k : Counter) : (s.setCounter c k).hdm = s.hdm := rfl
@[simp] theorem State.hostDir_setCounter (s : State) (c : Nat) (k : Counter) : (s.setCounter c k).hostDir = s.hostDir := rfl
@[simp] theorem State.snoop_setCounter (s : State) (c : Nat) (k : Counter) : (s.setCounter c k).snoop = s.snoop := rfl
@[simp] theorem State.sent_setCounter (s : State) (c : Nat) (k : Counter) : (s.setCounter c k).sent = s.sent := rfl
@[simp] theorem State.cycle_useFree (s : State) : s.useFree.cycle = s.cycle := rfl
@[simp] theorem State.gtcBase_useFree (s : State) : s.useFree.gtcBase = s.gtcBase := rfl
@[simp] theorem State.agenda_useFree (s : State) : s.useFree.agenda = s.agenda := rfl
@[simp] theorem State.focus_useFree (s : State) : s.useFree.focus = s.focus := rfl
@[simp] theorem State.round_useFree (s : State) : s.useFree.round = s.round := rfl
@[simp] theorem State.core_useFree (s : State) : s.useFree.core = s.core := rfl
@[simp] theorem State.late_useFree (s : State) : s.useFree.late = s.late := rfl
@[simp] theorem State.slot_useFree (s : State) : s.useFree.slot = s.slot := rfl
@[simp] theorem State.around_useFree (s : State) : s.useFree.around = s.around := rfl
@[simp] theorem State.config_useFree (s : State) : s.useFree.config = s.config := rfl
@[simp] theorem State.boot_useFree (s : State) : s.useFree.boot = s.boot := rfl
@[simp] theorem State.railsOff_useFree (s : State) : s.useFree.railsOff = s.railsOff := rfl
@[simp] theorem State.halted_useFree (s : State) : s.useFree.halted = s.halted := rfl
@[simp] theorem State.hot_useFree (s : State) : s.useFree.hot = s.hot := rfl
@[simp] theorem State.hotStacks_useFree (s : State) : s.useFree.hotStacks = s.hotStacks := rfl
@[simp] theorem State.cores_useFree (s : State) : s.useFree.cores = s.cores := rfl
@[simp] theorem State.mem_useFree (s : State) : s.useFree.mem = s.mem := rfl
@[simp] theorem State.poison_useFree (s : State) : s.useFree.poison = s.poison := rfl
@[simp] theorem State.l2_useFree (s : State) : s.useFree.l2 = s.l2 := rfl
@[simp] theorem State.fills_useFree (s : State) : s.useFree.fills = s.fills := rfl
@[simp] theorem State.owners_useFree (s : State) : s.useFree.owners = s.owners := rfl
@[simp] theorem State.counters_useFree (s : State) : s.useFree.counters = s.counters := rfl
@[simp] theorem State.deliveries_useFree (s : State) : s.useFree.deliveries = s.deliveries := rfl
@[simp] theorem State.walks_useFree (s : State) : s.useFree.walks = s.walks := rfl
@[simp] theorem State.prefetches_useFree (s : State) : s.useFree.prefetches = s.prefetches := rfl
@[simp] theorem State.solvers_useFree (s : State) : s.useFree.solvers = s.solvers := rfl
@[simp] theorem State.engines_useFree (s : State) : s.useFree.engines = s.engines := rfl
@[simp] theorem State.collectives_useFree (s : State) : s.useFree.collectives = s.collectives := rfl
@[simp] theorem State.parts_useFree (s : State) : s.useFree.parts = s.parts := rfl
@[simp] theorem State.migration_useFree (s : State) : s.useFree.migration = s.migration := rfl
@[simp] theorem State.eqbase_useFree (s : State) : s.useFree.eqbase = s.eqbase := rfl
@[simp] theorem State.due_useFree (s : State) : s.useFree.due = s.due := rfl
@[simp] theorem State.pfEvents_useFree (s : State) : s.useFree.pfEvents = s.pfEvents := rfl
@[simp] theorem State.ecc_useFree (s : State) : s.useFree.ecc = s.ecc := rfl
@[simp] theorem State.coreTally_useFree (s : State) : s.useFree.coreTally = s.coreTally := rfl
@[simp] theorem State.rowTally_useFree (s : State) : s.useFree.rowTally = s.rowTally := rfl
@[simp] theorem State.chanTally_useFree (s : State) : s.useFree.chanTally = s.chanTally := rfl
@[simp] theorem State.repairs_useFree (s : State) : s.useFree.repairs = s.repairs := rfl
@[simp] theorem State.rowsOn_useFree (s : State) : s.useFree.rowsOn = s.rowsOn := rfl
@[simp] theorem State.power_useFree (s : State) : s.useFree.power = s.power := rfl
@[simp] theorem State.pkcap_useFree (s : State) : s.useFree.pkcap = s.pkcap := rfl
@[simp] theorem State.capSince_useFree (s : State) : s.useFree.capSince = s.capSince := rfl
@[simp] theorem State.pavg_useFree (s : State) : s.useFree.pavg = s.pavg := rfl
@[simp] theorem State.fscale_useFree (s : State) : s.useFree.fscale = s.fscale := rfl
@[simp] theorem State.belowFloor_useFree (s : State) : s.useFree.belowFloor = s.belowFloor := rfl
@[simp] theorem State.throt_useFree (s : State) : s.useFree.throt = s.throt := rfl
@[simp] theorem State.ports_useFree (s : State) : s.useFree.ports = s.ports := rfl
@[simp] theorem State.route_useFree (s : State) : s.useFree.route = s.route := rfl
@[simp] theorem State.onPort_useFree (s : State) : s.useFree.onPort = s.onPort := rfl
@[simp] theorem State.inb_useFree (s : State) : s.useFree.inb = s.inb := rfl
@[simp] theorem State.hdm_useFree (s : State) : s.useFree.hdm = s.hdm := rfl
@[simp] theorem State.hostDir_useFree (s : State) : s.useFree.hostDir = s.hostDir := rfl
@[simp] theorem State.snoop_useFree (s : State) : s.useFree.snoop = s.snoop := rfl
@[simp] theorem State.sent_useFree (s : State) : s.useFree.sent = s.sent := rfl

/-! The cores of a changed state. -/

@[simp] theorem State.coreAt_setCore_same (s : State) (c : Nat) (k : Core) : (s.setCore c k).coreAt c = k :=
  Table.get_set_same _ _ _ _

@[simp] theorem State.coreAt_setCore_other (s : State) {c d : Nat} (k : Core) (h : c ≠ d) :
    (s.setCore c k).coreAt d = s.coreAt d := Table.get_set_other _ _ _ h

@[simp] theorem State.me_setMe (s : State) (k : Core) : (s.setMe k).me = k := Table.get_set_same _ _ _ _

@[simp] theorem State.me_updMe (s : State) (f : Core → Core) : (s.updMe f).me = f s.me := Table.get_set_same _ _ _ _

@[simp] theorem State.coreAt_updMe_other (s : State) (f : Core → Core) {c : Nat} (h : s.core ≠ c) :
    (s.updMe f).coreAt c = s.coreAt c := Table.get_set_other _ _ _ h

@[simp] theorem State.updMe_updMe (s : State) (f g : Core → Core) : (s.updMe f).updMe g = s.updMe (fun k => g (f k)) := by
  show State.setCore _ _ _ = _
  rw [State.me_updMe]
  simp [State.updMe, State.setMe, State.setCore, Table.set_set]

@[simp] theorem State.part_setPart_same (s : State) (p : Nat) (v : Part) : (s.setPart p v).part p = v :=
  Table.get_set_same _ _ _ _

@[simp] theorem State.part_setPart_other (s : State) {p q : Nat} (v : Part) (h : p ≠ q) :
    (s.setPart p v).part q = s.part q := Table.get_set_other _ _ _ h

@[simp] theorem State.counter_setCounter_same (s : State) (c : Nat) (k : Counter) : (s.setCounter c k).counter c = k :=
  Table.get_set_same _ _ _ _

@[simp] theorem State.counter_setCounter_other (s : State) {c d : Nat} (k : Counter) (h : c ≠ d) :
    (s.setCounter c k).counter d = s.counter d := Table.get_set_other _ _ _ h

@[simp] theorem State.me_useFree (s : State) : s.useFree.me = s.me := rfl

@[simp] theorem State.me_setPart (s : State) (p : Nat) (v : Part) : (s.setPart p v).me = s.me := rfl

@[simp] theorem State.me_updPart (s : State) (p : Nat) (f : Part → Part) : (s.updPart p f).me = s.me := rfl

@[simp] theorem State.me_setCounter (s : State) (c : Nat) (k : Counter) : (s.setCounter c k).me = s.me := rfl

/-! Updates of a core. -/

@[simp] theorem Core.v_setX (k : Core) (r : BitVec 5) (w : Word) : (k.setX r w).v = k.v := by unfold Core.setX; split <;> rfl
@[simp] theorem Core.k_setX (k : Core) (r : BitVec 5) (w : Word) : (k.setX r w).k = k.k := by unfold Core.setX; split <;> rfl
@[simp] theorem Core.lat_setX (k : Core) (r : BitVec 5) (w : Word) : (k.setX r w).lat = k.lat := by unfold Core.setX; split <;> rfl
@[simp] theorem Core.p_setX (k : Core) (r : BitVec 5) (w : Word) : (k.setX r w).p = k.p := by unfold Core.setX; split <;> rfl
@[simp] theorem Core.q_setX (k : Core) (r : BitVec 5) (w : Word) : (k.setX r w).q = k.q := by unfold Core.setX; split <;> rfl
@[simp] theorem Core.tiles_setX (k : Core) (r : BitVec 5) (w : Word) : (k.setX r w).tiles = k.tiles := by unfold Core.setX; split <;> rfl
@[simp] theorem Core.wtags_setX (k : Core) (r : BitVec 5) (w : Word) : (k.setX r w).wtags = k.wtags := by unfold Core.setX; split <;> rfl
@[simp] theorem Core.live_setX (k : Core) (r : BitVec 5) (w : Word) : (k.setX r w).live = k.live := by unfold Core.setX; split <;> rfl
@[simp] theorem Core.shadow_setX (k : Core) (r : BitVec 5) (w : Word) : (k.setX r w).shadow = k.shadow := by unfold Core.setX; split <;> rfl
@[simp] theorem Core.handles_setX (k : Core) (r : BitVec 5) (w : Word) : (k.setX r w).handles = k.handles := by unfold Core.setX; split <;> rfl
@[simp] theorem Core.pals_setX (k : Core) (r : BitVec 5) (w : Word) : (k.setX r w).pals = k.pals := by unfold Core.setX; split <;> rfl
@[simp] theorem Core.window_setX (k : Core) (r : BitVec 5) (w : Word) : (k.setX r w).window = k.window := by unfold Core.setX; split <;> rfl
@[simp] theorem Core.winPoison_setX (k : Core) (r : BitVec 5) (w : Word) : (k.setX r w).winPoison = k.winPoison := by unfold Core.setX; split <;> rfl
@[simp] theorem Core.tvec_setX (k : Core) (r : BitVec 5) (w : Word) : (k.setX r w).tvec = k.tvec := by unfold Core.setX; split <;> rfl
@[simp] theorem Core.tcause_setX (k : Core) (r : BitVec 5) (w : Word) : (k.setX r w).tcause = k.tcause := by unfold Core.setX; split <;> rfl
@[simp] theorem Core.tepc_setX (k : Core) (r : BitVec 5) (w : Word) : (k.setX r w).tepc = k.tepc := by unfold Core.setX; split <;> rfl
@[simp] theorem Core.tval_setX (k : Core) (r : BitVec 5) (w : Word) : (k.setX r w).tval = k.tval := by unfold Core.setX; split <;> rfl
@[simp] theorem Core.psup_setX (k : Core) (r : BitVec 5) (w : Word) : (k.setX r w).psup = k.psup := by unfold Core.setX; split <;> rfl
@[simp] theorem Core.sup_setX (k : Core) (r : BitVec 5) (w : Word) : (k.setX r w).sup = k.sup := by unfold Core.setX; split <;> rfl
@[simp] theorem Core.twin_setX (k : Core) (r : BitVec 5) (w : Word) : (k.setX r w).twin = k.twin := by unfold Core.setX; split <;> rfl
@[simp] theorem Core.tk_setX (k : Core) (r : BitVec 5) (w : Word) : (k.setX r w).tk = k.tk := by unfold Core.setX; split <;> rfl
@[simp] theorem Core.bands_setX (k : Core) (r : BitVec 5) (w : Word) : (k.setX r w).bands = k.bands := by unfold Core.setX; split <;> rfl
@[simp] theorem Core.lsc_setX (k : Core) (r : BitVec 5) (w : Word) : (k.setX r w).lsc = k.lsc := by unfold Core.setX; split <;> rfl
@[simp] theorem Core.srseed_setX (k : Core) (r : BitVec 5) (w : Word) : (k.setX r w).srseed = k.srseed := by unfold Core.setX; split <;> rfl
@[simp] theorem Core.ovf_setX (k : Core) (r : BitVec 5) (w : Word) : (k.setX r w).ovf = k.ovf := by unfold Core.setX; split <;> rfl
@[simp] theorem Core.psnv_setX (k : Core) (r : BitVec 5) (w : Word) : (k.setX r w).psnv = k.psnv := by unfold Core.setX; split <;> rfl
@[simp] theorem Core.psns_setX (k : Core) (r : BitVec 5) (w : Word) : (k.setX r w).psns = k.psns := by unfold Core.setX; split <;> rfl
@[simp] theorem Core.psna_setX (k : Core) (r : BitVec 5) (w : Word) : (k.setX r w).psna = k.psna := by unfold Core.setX; split <;> rfl
@[simp] theorem Core.req_setX (k : Core) (r : BitVec 5) (w : Word) : (k.setX r w).req = k.req := by unfold Core.setX; split <;> rfl
@[simp] theorem Core.grant_setX (k : Core) (r : BitVec 5) (w : Word) : (k.setX r w).grant = k.grant := by unfold Core.setX; split <;> rfl
@[simp] theorem Core.pend_setX (k : Core) (r : BitVec 5) (w : Word) : (k.setX r w).pend = k.pend := by unfold Core.setX; split <;> rfl
@[simp] theorem Core.lslt_setX (k : Core) (r : BitVec 5) (w : Word) : (k.setX r w).lslt = k.lslt := by unfold Core.setX; split <;> rfl
@[simp] theorem Core.brka_setX (k : Core) (r : BitVec 5) (w : Word) : (k.setX r w).brka = k.brka := by unfold Core.setX; split <;> rfl
@[simp] theorem Core.brkc_setX (k : Core) (r : BitVec 5) (w : Word) : (k.setX r w).brkc = k.brkc := by unfold Core.setX; split <;> rfl
@[simp] theorem Core.strands_setX (k : Core) (r : BitVec 5) (w : Word) : (k.setX r w).strands = k.strands := by unfold Core.setX; split <;> rfl
@[simp] theorem Core.loops_setX (k : Core) (r : BitVec 5) (w : Word) : (k.setX r w).loops = k.loops := by unfold Core.setX; split <;> rfl
@[simp] theorem Core.chain_setX (k : Core) (r : BitVec 5) (w : Word) : (k.setX r w).chain = k.chain := by unfold Core.setX; split <;> rfl
@[simp] theorem Core.mq_setX (k : Core) (r : BitVec 5) (w : Word) : (k.setX r w).mq = k.mq := by unfold Core.setX; split <;> rfl
@[simp] theorem Core.cout_setX (k : Core) (r : BitVec 5) (w : Word) : (k.setX r w).cout = k.cout := by unfold Core.setX; split <;> rfl
@[simp] theorem Core.charges_setX (k : Core) (r : BitVec 5) (w : Word) : (k.setX r w).charges = k.charges := by unfold Core.setX; split <;> rfl
@[simp] theorem Core.limit_setX (k : Core) (r : BitVec 5) (w : Word) : (k.setX r w).limit = k.limit := by unfold Core.setX; split <;> rfl
@[simp] theorem Core.l1_setX (k : Core) (r : BitVec 5) (w : Word) : (k.setX r w).l1 = k.l1 := by unfold Core.setX; split <;> rfl
@[simp] theorem Core.now_setX (k : Core) (r : BitVec 5) (w : Word) : (k.setX r w).now = k.now := by unfold Core.setX; split <;> rfl
@[simp] theorem Core.node_setX (k : Core) (r : BitVec 5) (w : Word) : (k.setX r w).node = k.node := by unfold Core.setX; split <;> rfl
@[simp] theorem Core.last_setX (k : Core) (r : BitVec 5) (w : Word) : (k.setX r w).last = k.last := by unfold Core.setX; split <;> rfl
@[simp] theorem Core.spared_setX (k : Core) (r : BitVec 5) (w : Word) : (k.setX r w).spared = k.spared := by unfold Core.setX; split <;> rfl
@[simp] theorem Core.x_setK (k : Core) (r : BitVec 3) (w : Word) : (k.setK r w).x = k.x := by unfold Core.setK; split <;> rfl
@[simp] theorem Core.v_setK (k : Core) (r : BitVec 3) (w : Word) : (k.setK r w).v = k.v := by unfold Core.setK; split <;> rfl
@[simp] theorem Core.lat_setK (k : Core) (r : BitVec 3) (w : Word) : (k.setK r w).lat = k.lat := by unfold Core.setK; split <;> rfl
@[simp] theorem Core.p_setK (k : Core) (r : BitVec 3) (w : Word) : (k.setK r w).p = k.p := by unfold Core.setK; split <;> rfl
@[simp] theorem Core.q_setK (k : Core) (r : BitVec 3) (w : Word) : (k.setK r w).q = k.q := by unfold Core.setK; split <;> rfl
@[simp] theorem Core.tiles_setK (k : Core) (r : BitVec 3) (w : Word) : (k.setK r w).tiles = k.tiles := by unfold Core.setK; split <;> rfl
@[simp] theorem Core.wtags_setK (k : Core) (r : BitVec 3) (w : Word) : (k.setK r w).wtags = k.wtags := by unfold Core.setK; split <;> rfl
@[simp] theorem Core.live_setK (k : Core) (r : BitVec 3) (w : Word) : (k.setK r w).live = k.live := by unfold Core.setK; split <;> rfl
@[simp] theorem Core.shadow_setK (k : Core) (r : BitVec 3) (w : Word) : (k.setK r w).shadow = k.shadow := by unfold Core.setK; split <;> rfl
@[simp] theorem Core.handles_setK (k : Core) (r : BitVec 3) (w : Word) : (k.setK r w).handles = k.handles := by unfold Core.setK; split <;> rfl
@[simp] theorem Core.pals_setK (k : Core) (r : BitVec 3) (w : Word) : (k.setK r w).pals = k.pals := by unfold Core.setK; split <;> rfl
@[simp] theorem Core.window_setK (k : Core) (r : BitVec 3) (w : Word) : (k.setK r w).window = k.window := by unfold Core.setK; split <;> rfl
@[simp] theorem Core.winPoison_setK (k : Core) (r : BitVec 3) (w : Word) : (k.setK r w).winPoison = k.winPoison := by unfold Core.setK; split <;> rfl
@[simp] theorem Core.tvec_setK (k : Core) (r : BitVec 3) (w : Word) : (k.setK r w).tvec = k.tvec := by unfold Core.setK; split <;> rfl
@[simp] theorem Core.tcause_setK (k : Core) (r : BitVec 3) (w : Word) : (k.setK r w).tcause = k.tcause := by unfold Core.setK; split <;> rfl
@[simp] theorem Core.tepc_setK (k : Core) (r : BitVec 3) (w : Word) : (k.setK r w).tepc = k.tepc := by unfold Core.setK; split <;> rfl
@[simp] theorem Core.tval_setK (k : Core) (r : BitVec 3) (w : Word) : (k.setK r w).tval = k.tval := by unfold Core.setK; split <;> rfl
@[simp] theorem Core.psup_setK (k : Core) (r : BitVec 3) (w : Word) : (k.setK r w).psup = k.psup := by unfold Core.setK; split <;> rfl
@[simp] theorem Core.sup_setK (k : Core) (r : BitVec 3) (w : Word) : (k.setK r w).sup = k.sup := by unfold Core.setK; split <;> rfl
@[simp] theorem Core.twin_setK (k : Core) (r : BitVec 3) (w : Word) : (k.setK r w).twin = k.twin := by unfold Core.setK; split <;> rfl
@[simp] theorem Core.tk_setK (k : Core) (r : BitVec 3) (w : Word) : (k.setK r w).tk = k.tk := by unfold Core.setK; split <;> rfl
@[simp] theorem Core.bands_setK (k : Core) (r : BitVec 3) (w : Word) : (k.setK r w).bands = k.bands := by unfold Core.setK; split <;> rfl
@[simp] theorem Core.lsc_setK (k : Core) (r : BitVec 3) (w : Word) : (k.setK r w).lsc = k.lsc := by unfold Core.setK; split <;> rfl
@[simp] theorem Core.srseed_setK (k : Core) (r : BitVec 3) (w : Word) : (k.setK r w).srseed = k.srseed := by unfold Core.setK; split <;> rfl
@[simp] theorem Core.ovf_setK (k : Core) (r : BitVec 3) (w : Word) : (k.setK r w).ovf = k.ovf := by unfold Core.setK; split <;> rfl
@[simp] theorem Core.psnv_setK (k : Core) (r : BitVec 3) (w : Word) : (k.setK r w).psnv = k.psnv := by unfold Core.setK; split <;> rfl
@[simp] theorem Core.psns_setK (k : Core) (r : BitVec 3) (w : Word) : (k.setK r w).psns = k.psns := by unfold Core.setK; split <;> rfl
@[simp] theorem Core.psna_setK (k : Core) (r : BitVec 3) (w : Word) : (k.setK r w).psna = k.psna := by unfold Core.setK; split <;> rfl
@[simp] theorem Core.req_setK (k : Core) (r : BitVec 3) (w : Word) : (k.setK r w).req = k.req := by unfold Core.setK; split <;> rfl
@[simp] theorem Core.grant_setK (k : Core) (r : BitVec 3) (w : Word) : (k.setK r w).grant = k.grant := by unfold Core.setK; split <;> rfl
@[simp] theorem Core.pend_setK (k : Core) (r : BitVec 3) (w : Word) : (k.setK r w).pend = k.pend := by unfold Core.setK; split <;> rfl
@[simp] theorem Core.lslt_setK (k : Core) (r : BitVec 3) (w : Word) : (k.setK r w).lslt = k.lslt := by unfold Core.setK; split <;> rfl
@[simp] theorem Core.brka_setK (k : Core) (r : BitVec 3) (w : Word) : (k.setK r w).brka = k.brka := by unfold Core.setK; split <;> rfl
@[simp] theorem Core.brkc_setK (k : Core) (r : BitVec 3) (w : Word) : (k.setK r w).brkc = k.brkc := by unfold Core.setK; split <;> rfl
@[simp] theorem Core.strands_setK (k : Core) (r : BitVec 3) (w : Word) : (k.setK r w).strands = k.strands := by unfold Core.setK; split <;> rfl
@[simp] theorem Core.loops_setK (k : Core) (r : BitVec 3) (w : Word) : (k.setK r w).loops = k.loops := by unfold Core.setK; split <;> rfl
@[simp] theorem Core.chain_setK (k : Core) (r : BitVec 3) (w : Word) : (k.setK r w).chain = k.chain := by unfold Core.setK; split <;> rfl
@[simp] theorem Core.mq_setK (k : Core) (r : BitVec 3) (w : Word) : (k.setK r w).mq = k.mq := by unfold Core.setK; split <;> rfl
@[simp] theorem Core.cout_setK (k : Core) (r : BitVec 3) (w : Word) : (k.setK r w).cout = k.cout := by unfold Core.setK; split <;> rfl
@[simp] theorem Core.charges_setK (k : Core) (r : BitVec 3) (w : Word) : (k.setK r w).charges = k.charges := by unfold Core.setK; split <;> rfl
@[simp] theorem Core.limit_setK (k : Core) (r : BitVec 3) (w : Word) : (k.setK r w).limit = k.limit := by unfold Core.setK; split <;> rfl
@[simp] theorem Core.l1_setK (k : Core) (r : BitVec 3) (w : Word) : (k.setK r w).l1 = k.l1 := by unfold Core.setK; split <;> rfl
@[simp] theorem Core.now_setK (k : Core) (r : BitVec 3) (w : Word) : (k.setK r w).now = k.now := by unfold Core.setK; split <;> rfl
@[simp] theorem Core.node_setK (k : Core) (r : BitVec 3) (w : Word) : (k.setK r w).node = k.node := by unfold Core.setK; split <;> rfl
@[simp] theorem Core.last_setK (k : Core) (r : BitVec 3) (w : Word) : (k.setK r w).last = k.last := by unfold Core.setK; split <;> rfl
@[simp] theorem Core.spared_setK (k : Core) (r : BitVec 3) (w : Word) : (k.setK r w).spared = k.spared := by unfold Core.setK; split <;> rfl
@[simp] theorem Core.x_setV (k : Core) (r : BitVec 5) (w : VReg) : (k.setV r w).x = k.x := rfl
@[simp] theorem Core.k_setV (k : Core) (r : BitVec 5) (w : VReg) : (k.setV r w).k = k.k := rfl
@[simp] theorem Core.lat_setV (k : Core) (r : BitVec 5) (w : VReg) : (k.setV r w).lat = k.lat := rfl
@[simp] theorem Core.p_setV (k : Core) (r : BitVec 5) (w : VReg) : (k.setV r w).p = k.p := rfl
@[simp] theorem Core.q_setV (k : Core) (r : BitVec 5) (w : VReg) : (k.setV r w).q = k.q := rfl
@[simp] theorem Core.tiles_setV (k : Core) (r : BitVec 5) (w : VReg) : (k.setV r w).tiles = k.tiles := rfl
@[simp] theorem Core.wtags_setV (k : Core) (r : BitVec 5) (w : VReg) : (k.setV r w).wtags = k.wtags := rfl
@[simp] theorem Core.live_setV (k : Core) (r : BitVec 5) (w : VReg) : (k.setV r w).live = k.live := rfl
@[simp] theorem Core.shadow_setV (k : Core) (r : BitVec 5) (w : VReg) : (k.setV r w).shadow = k.shadow := rfl
@[simp] theorem Core.handles_setV (k : Core) (r : BitVec 5) (w : VReg) : (k.setV r w).handles = k.handles := rfl
@[simp] theorem Core.pals_setV (k : Core) (r : BitVec 5) (w : VReg) : (k.setV r w).pals = k.pals := rfl
@[simp] theorem Core.window_setV (k : Core) (r : BitVec 5) (w : VReg) : (k.setV r w).window = k.window := rfl
@[simp] theorem Core.winPoison_setV (k : Core) (r : BitVec 5) (w : VReg) : (k.setV r w).winPoison = k.winPoison := rfl
@[simp] theorem Core.tvec_setV (k : Core) (r : BitVec 5) (w : VReg) : (k.setV r w).tvec = k.tvec := rfl
@[simp] theorem Core.tcause_setV (k : Core) (r : BitVec 5) (w : VReg) : (k.setV r w).tcause = k.tcause := rfl
@[simp] theorem Core.tepc_setV (k : Core) (r : BitVec 5) (w : VReg) : (k.setV r w).tepc = k.tepc := rfl
@[simp] theorem Core.tval_setV (k : Core) (r : BitVec 5) (w : VReg) : (k.setV r w).tval = k.tval := rfl
@[simp] theorem Core.psup_setV (k : Core) (r : BitVec 5) (w : VReg) : (k.setV r w).psup = k.psup := rfl
@[simp] theorem Core.sup_setV (k : Core) (r : BitVec 5) (w : VReg) : (k.setV r w).sup = k.sup := rfl
@[simp] theorem Core.twin_setV (k : Core) (r : BitVec 5) (w : VReg) : (k.setV r w).twin = k.twin := rfl
@[simp] theorem Core.tk_setV (k : Core) (r : BitVec 5) (w : VReg) : (k.setV r w).tk = k.tk := rfl
@[simp] theorem Core.bands_setV (k : Core) (r : BitVec 5) (w : VReg) : (k.setV r w).bands = k.bands := rfl
@[simp] theorem Core.lsc_setV (k : Core) (r : BitVec 5) (w : VReg) : (k.setV r w).lsc = k.lsc := rfl
@[simp] theorem Core.srseed_setV (k : Core) (r : BitVec 5) (w : VReg) : (k.setV r w).srseed = k.srseed := rfl
@[simp] theorem Core.ovf_setV (k : Core) (r : BitVec 5) (w : VReg) : (k.setV r w).ovf = k.ovf := rfl
@[simp] theorem Core.psnv_setV (k : Core) (r : BitVec 5) (w : VReg) : (k.setV r w).psnv = k.psnv := rfl
@[simp] theorem Core.psns_setV (k : Core) (r : BitVec 5) (w : VReg) : (k.setV r w).psns = k.psns := rfl
@[simp] theorem Core.psna_setV (k : Core) (r : BitVec 5) (w : VReg) : (k.setV r w).psna = k.psna := rfl
@[simp] theorem Core.req_setV (k : Core) (r : BitVec 5) (w : VReg) : (k.setV r w).req = k.req := rfl
@[simp] theorem Core.grant_setV (k : Core) (r : BitVec 5) (w : VReg) : (k.setV r w).grant = k.grant := rfl
@[simp] theorem Core.pend_setV (k : Core) (r : BitVec 5) (w : VReg) : (k.setV r w).pend = k.pend := rfl
@[simp] theorem Core.lslt_setV (k : Core) (r : BitVec 5) (w : VReg) : (k.setV r w).lslt = k.lslt := rfl
@[simp] theorem Core.brka_setV (k : Core) (r : BitVec 5) (w : VReg) : (k.setV r w).brka = k.brka := rfl
@[simp] theorem Core.brkc_setV (k : Core) (r : BitVec 5) (w : VReg) : (k.setV r w).brkc = k.brkc := rfl
@[simp] theorem Core.strands_setV (k : Core) (r : BitVec 5) (w : VReg) : (k.setV r w).strands = k.strands := rfl
@[simp] theorem Core.loops_setV (k : Core) (r : BitVec 5) (w : VReg) : (k.setV r w).loops = k.loops := rfl
@[simp] theorem Core.chain_setV (k : Core) (r : BitVec 5) (w : VReg) : (k.setV r w).chain = k.chain := rfl
@[simp] theorem Core.mq_setV (k : Core) (r : BitVec 5) (w : VReg) : (k.setV r w).mq = k.mq := rfl
@[simp] theorem Core.cout_setV (k : Core) (r : BitVec 5) (w : VReg) : (k.setV r w).cout = k.cout := rfl
@[simp] theorem Core.charges_setV (k : Core) (r : BitVec 5) (w : VReg) : (k.setV r w).charges = k.charges := rfl
@[simp] theorem Core.limit_setV (k : Core) (r : BitVec 5) (w : VReg) : (k.setV r w).limit = k.limit := rfl
@[simp] theorem Core.l1_setV (k : Core) (r : BitVec 5) (w : VReg) : (k.setV r w).l1 = k.l1 := rfl
@[simp] theorem Core.now_setV (k : Core) (r : BitVec 5) (w : VReg) : (k.setV r w).now = k.now := rfl
@[simp] theorem Core.node_setV (k : Core) (r : BitVec 5) (w : VReg) : (k.setV r w).node = k.node := rfl
@[simp] theorem Core.last_setV (k : Core) (r : BitVec 5) (w : VReg) : (k.setV r w).last = k.last := rfl
@[simp] theorem Core.spared_setV (k : Core) (r : BitVec 5) (w : VReg) : (k.setV r w).spared = k.spared := rfl
@[simp] theorem Core.x_setP (k : Core) (r : BitVec 4) (w : Lane) : (k.setP r w).x = k.x := rfl
@[simp] theorem Core.v_setP (k : Core) (r : BitVec 4) (w : Lane) : (k.setP r w).v = k.v := rfl
@[simp] theorem Core.k_setP (k : Core) (r : BitVec 4) (w : Lane) : (k.setP r w).k = k.k := rfl
@[simp] theorem Core.lat_setP (k : Core) (r : BitVec 4) (w : Lane) : (k.setP r w).lat = k.lat := rfl
@[simp] theorem Core.q_setP (k : Core) (r : BitVec 4) (w : Lane) : (k.setP r w).q = k.q := rfl
@[simp] theorem Core.tiles_setP (k : Core) (r : BitVec 4) (w : Lane) : (k.setP r w).tiles = k.tiles := rfl
@[simp] theorem Core.wtags_setP (k : Core) (r : BitVec 4) (w : Lane) : (k.setP r w).wtags = k.wtags := rfl
@[simp] theorem Core.live_setP (k : Core) (r : BitVec 4) (w : Lane) : (k.setP r w).live = k.live := rfl
@[simp] theorem Core.shadow_setP (k : Core) (r : BitVec 4) (w : Lane) : (k.setP r w).shadow = k.shadow := rfl
@[simp] theorem Core.handles_setP (k : Core) (r : BitVec 4) (w : Lane) : (k.setP r w).handles = k.handles := rfl
@[simp] theorem Core.pals_setP (k : Core) (r : BitVec 4) (w : Lane) : (k.setP r w).pals = k.pals := rfl
@[simp] theorem Core.window_setP (k : Core) (r : BitVec 4) (w : Lane) : (k.setP r w).window = k.window := rfl
@[simp] theorem Core.winPoison_setP (k : Core) (r : BitVec 4) (w : Lane) : (k.setP r w).winPoison = k.winPoison := rfl
@[simp] theorem Core.tvec_setP (k : Core) (r : BitVec 4) (w : Lane) : (k.setP r w).tvec = k.tvec := rfl
@[simp] theorem Core.tcause_setP (k : Core) (r : BitVec 4) (w : Lane) : (k.setP r w).tcause = k.tcause := rfl
@[simp] theorem Core.tepc_setP (k : Core) (r : BitVec 4) (w : Lane) : (k.setP r w).tepc = k.tepc := rfl
@[simp] theorem Core.tval_setP (k : Core) (r : BitVec 4) (w : Lane) : (k.setP r w).tval = k.tval := rfl
@[simp] theorem Core.psup_setP (k : Core) (r : BitVec 4) (w : Lane) : (k.setP r w).psup = k.psup := rfl
@[simp] theorem Core.sup_setP (k : Core) (r : BitVec 4) (w : Lane) : (k.setP r w).sup = k.sup := rfl
@[simp] theorem Core.twin_setP (k : Core) (r : BitVec 4) (w : Lane) : (k.setP r w).twin = k.twin := rfl
@[simp] theorem Core.tk_setP (k : Core) (r : BitVec 4) (w : Lane) : (k.setP r w).tk = k.tk := rfl
@[simp] theorem Core.bands_setP (k : Core) (r : BitVec 4) (w : Lane) : (k.setP r w).bands = k.bands := rfl
@[simp] theorem Core.lsc_setP (k : Core) (r : BitVec 4) (w : Lane) : (k.setP r w).lsc = k.lsc := rfl
@[simp] theorem Core.srseed_setP (k : Core) (r : BitVec 4) (w : Lane) : (k.setP r w).srseed = k.srseed := rfl
@[simp] theorem Core.ovf_setP (k : Core) (r : BitVec 4) (w : Lane) : (k.setP r w).ovf = k.ovf := rfl
@[simp] theorem Core.psnv_setP (k : Core) (r : BitVec 4) (w : Lane) : (k.setP r w).psnv = k.psnv := rfl
@[simp] theorem Core.psns_setP (k : Core) (r : BitVec 4) (w : Lane) : (k.setP r w).psns = k.psns := rfl
@[simp] theorem Core.psna_setP (k : Core) (r : BitVec 4) (w : Lane) : (k.setP r w).psna = k.psna := rfl
@[simp] theorem Core.req_setP (k : Core) (r : BitVec 4) (w : Lane) : (k.setP r w).req = k.req := rfl
@[simp] theorem Core.grant_setP (k : Core) (r : BitVec 4) (w : Lane) : (k.setP r w).grant = k.grant := rfl
@[simp] theorem Core.pend_setP (k : Core) (r : BitVec 4) (w : Lane) : (k.setP r w).pend = k.pend := rfl
@[simp] theorem Core.lslt_setP (k : Core) (r : BitVec 4) (w : Lane) : (k.setP r w).lslt = k.lslt := rfl
@[simp] theorem Core.brka_setP (k : Core) (r : BitVec 4) (w : Lane) : (k.setP r w).brka = k.brka := rfl
@[simp] theorem Core.brkc_setP (k : Core) (r : BitVec 4) (w : Lane) : (k.setP r w).brkc = k.brkc := rfl
@[simp] theorem Core.strands_setP (k : Core) (r : BitVec 4) (w : Lane) : (k.setP r w).strands = k.strands := rfl
@[simp] theorem Core.loops_setP (k : Core) (r : BitVec 4) (w : Lane) : (k.setP r w).loops = k.loops := rfl
@[simp] theorem Core.chain_setP (k : Core) (r : BitVec 4) (w : Lane) : (k.setP r w).chain = k.chain := rfl
@[simp] theorem Core.mq_setP (k : Core) (r : BitVec 4) (w : Lane) : (k.setP r w).mq = k.mq := rfl
@[simp] theorem Core.cout_setP (k : Core) (r : BitVec 4) (w : Lane) : (k.setP r w).cout = k.cout := rfl
@[simp] theorem Core.charges_setP (k : Core) (r : BitVec 4) (w : Lane) : (k.setP r w).charges = k.charges := rfl
@[simp] theorem Core.limit_setP (k : Core) (r : BitVec 4) (w : Lane) : (k.setP r w).limit = k.limit := rfl
@[simp] theorem Core.l1_setP (k : Core) (r : BitVec 4) (w : Lane) : (k.setP r w).l1 = k.l1 := rfl
@[simp] theorem Core.now_setP (k : Core) (r : BitVec 4) (w : Lane) : (k.setP r w).now = k.now := rfl
@[simp] theorem Core.node_setP (k : Core) (r : BitVec 4) (w : Lane) : (k.setP r w).node = k.node := rfl
@[simp] theorem Core.last_setP (k : Core) (r : BitVec 4) (w : Lane) : (k.setP r w).last = k.last := rfl
@[simp] theorem Core.spared_setP (k : Core) (r : BitVec 4) (w : Lane) : (k.setP r w).spared = k.spared := rfl
@[simp] theorem Core.x_setQ (k : Core) (r : BitVec 4) (w : Lane) : (k.setQ r w).x = k.x := rfl
@[simp] theorem Core.v_setQ (k : Core) (r : BitVec 4) (w : Lane) : (k.setQ r w).v = k.v := rfl
@[simp] theorem Core.k_setQ (k : Core) (r : BitVec 4) (w : Lane) : (k.setQ r w).k = k.k := rfl
@[simp] theorem Core.lat_setQ (k : Core) (r : BitVec 4) (w : Lane) : (k.setQ r w).lat = k.lat := rfl
@[simp] theorem Core.p_setQ (k : Core) (r : BitVec 4) (w : Lane) : (k.setQ r w).p = k.p := rfl
@[simp] theorem Core.tiles_setQ (k : Core) (r : BitVec 4) (w : Lane) : (k.setQ r w).tiles = k.tiles := rfl
@[simp] theorem Core.wtags_setQ (k : Core) (r : BitVec 4) (w : Lane) : (k.setQ r w).wtags = k.wtags := rfl
@[simp] theorem Core.live_setQ (k : Core) (r : BitVec 4) (w : Lane) : (k.setQ r w).live = k.live := rfl
@[simp] theorem Core.shadow_setQ (k : Core) (r : BitVec 4) (w : Lane) : (k.setQ r w).shadow = k.shadow := rfl
@[simp] theorem Core.handles_setQ (k : Core) (r : BitVec 4) (w : Lane) : (k.setQ r w).handles = k.handles := rfl
@[simp] theorem Core.pals_setQ (k : Core) (r : BitVec 4) (w : Lane) : (k.setQ r w).pals = k.pals := rfl
@[simp] theorem Core.window_setQ (k : Core) (r : BitVec 4) (w : Lane) : (k.setQ r w).window = k.window := rfl
@[simp] theorem Core.winPoison_setQ (k : Core) (r : BitVec 4) (w : Lane) : (k.setQ r w).winPoison = k.winPoison := rfl
@[simp] theorem Core.tvec_setQ (k : Core) (r : BitVec 4) (w : Lane) : (k.setQ r w).tvec = k.tvec := rfl
@[simp] theorem Core.tcause_setQ (k : Core) (r : BitVec 4) (w : Lane) : (k.setQ r w).tcause = k.tcause := rfl
@[simp] theorem Core.tepc_setQ (k : Core) (r : BitVec 4) (w : Lane) : (k.setQ r w).tepc = k.tepc := rfl
@[simp] theorem Core.tval_setQ (k : Core) (r : BitVec 4) (w : Lane) : (k.setQ r w).tval = k.tval := rfl
@[simp] theorem Core.psup_setQ (k : Core) (r : BitVec 4) (w : Lane) : (k.setQ r w).psup = k.psup := rfl
@[simp] theorem Core.sup_setQ (k : Core) (r : BitVec 4) (w : Lane) : (k.setQ r w).sup = k.sup := rfl
@[simp] theorem Core.twin_setQ (k : Core) (r : BitVec 4) (w : Lane) : (k.setQ r w).twin = k.twin := rfl
@[simp] theorem Core.tk_setQ (k : Core) (r : BitVec 4) (w : Lane) : (k.setQ r w).tk = k.tk := rfl
@[simp] theorem Core.bands_setQ (k : Core) (r : BitVec 4) (w : Lane) : (k.setQ r w).bands = k.bands := rfl
@[simp] theorem Core.lsc_setQ (k : Core) (r : BitVec 4) (w : Lane) : (k.setQ r w).lsc = k.lsc := rfl
@[simp] theorem Core.srseed_setQ (k : Core) (r : BitVec 4) (w : Lane) : (k.setQ r w).srseed = k.srseed := rfl
@[simp] theorem Core.ovf_setQ (k : Core) (r : BitVec 4) (w : Lane) : (k.setQ r w).ovf = k.ovf := rfl
@[simp] theorem Core.psnv_setQ (k : Core) (r : BitVec 4) (w : Lane) : (k.setQ r w).psnv = k.psnv := rfl
@[simp] theorem Core.psns_setQ (k : Core) (r : BitVec 4) (w : Lane) : (k.setQ r w).psns = k.psns := rfl
@[simp] theorem Core.psna_setQ (k : Core) (r : BitVec 4) (w : Lane) : (k.setQ r w).psna = k.psna := rfl
@[simp] theorem Core.req_setQ (k : Core) (r : BitVec 4) (w : Lane) : (k.setQ r w).req = k.req := rfl
@[simp] theorem Core.grant_setQ (k : Core) (r : BitVec 4) (w : Lane) : (k.setQ r w).grant = k.grant := rfl
@[simp] theorem Core.pend_setQ (k : Core) (r : BitVec 4) (w : Lane) : (k.setQ r w).pend = k.pend := rfl
@[simp] theorem Core.lslt_setQ (k : Core) (r : BitVec 4) (w : Lane) : (k.setQ r w).lslt = k.lslt := rfl
@[simp] theorem Core.brka_setQ (k : Core) (r : BitVec 4) (w : Lane) : (k.setQ r w).brka = k.brka := rfl
@[simp] theorem Core.brkc_setQ (k : Core) (r : BitVec 4) (w : Lane) : (k.setQ r w).brkc = k.brkc := rfl
@[simp] theorem Core.strands_setQ (k : Core) (r : BitVec 4) (w : Lane) : (k.setQ r w).strands = k.strands := rfl
@[simp] theorem Core.loops_setQ (k : Core) (r : BitVec 4) (w : Lane) : (k.setQ r w).loops = k.loops := rfl
@[simp] theorem Core.chain_setQ (k : Core) (r : BitVec 4) (w : Lane) : (k.setQ r w).chain = k.chain := rfl
@[simp] theorem Core.mq_setQ (k : Core) (r : BitVec 4) (w : Lane) : (k.setQ r w).mq = k.mq := rfl
@[simp] theorem Core.cout_setQ (k : Core) (r : BitVec 4) (w : Lane) : (k.setQ r w).cout = k.cout := rfl
@[simp] theorem Core.charges_setQ (k : Core) (r : BitVec 4) (w : Lane) : (k.setQ r w).charges = k.charges := rfl
@[simp] theorem Core.limit_setQ (k : Core) (r : BitVec 4) (w : Lane) : (k.setQ r w).limit = k.limit := rfl
@[simp] theorem Core.l1_setQ (k : Core) (r : BitVec 4) (w : Lane) : (k.setQ r w).l1 = k.l1 := rfl
@[simp] theorem Core.now_setQ (k : Core) (r : BitVec 4) (w : Lane) : (k.setQ r w).now = k.now := rfl
@[simp] theorem Core.node_setQ (k : Core) (r : BitVec 4) (w : Lane) : (k.setQ r w).node = k.node := rfl
@[simp] theorem Core.last_setQ (k : Core) (r : BitVec 4) (w : Lane) : (k.setQ r w).last = k.last := rfl
@[simp] theorem Core.spared_setQ (k : Core) (r : BitVec 4) (w : Lane) : (k.setQ r w).spared = k.spared := rfl
@[simp] theorem Core.x_setTile (k : Core) (t : BitVec 3) (v : Tile) : (k.setTile t v).x = k.x := rfl
@[simp] theorem Core.v_setTile (k : Core) (t : BitVec 3) (v : Tile) : (k.setTile t v).v = k.v := rfl
@[simp] theorem Core.k_setTile (k : Core) (t : BitVec 3) (v : Tile) : (k.setTile t v).k = k.k := rfl
@[simp] theorem Core.lat_setTile (k : Core) (t : BitVec 3) (v : Tile) : (k.setTile t v).lat = k.lat := rfl
@[simp] theorem Core.p_setTile (k : Core) (t : BitVec 3) (v : Tile) : (k.setTile t v).p = k.p := rfl
@[simp] theorem Core.q_setTile (k : Core) (t : BitVec 3) (v : Tile) : (k.setTile t v).q = k.q := rfl
@[simp] theorem Core.wtags_setTile (k : Core) (t : BitVec 3) (v : Tile) : (k.setTile t v).wtags = k.wtags := rfl
@[simp] theorem Core.live_setTile (k : Core) (t : BitVec 3) (v : Tile) : (k.setTile t v).live = k.live := rfl
@[simp] theorem Core.shadow_setTile (k : Core) (t : BitVec 3) (v : Tile) : (k.setTile t v).shadow = k.shadow := rfl
@[simp] theorem Core.handles_setTile (k : Core) (t : BitVec 3) (v : Tile) : (k.setTile t v).handles = k.handles := rfl
@[simp] theorem Core.pals_setTile (k : Core) (t : BitVec 3) (v : Tile) : (k.setTile t v).pals = k.pals := rfl
@[simp] theorem Core.window_setTile (k : Core) (t : BitVec 3) (v : Tile) : (k.setTile t v).window = k.window := rfl
@[simp] theorem Core.winPoison_setTile (k : Core) (t : BitVec 3) (v : Tile) : (k.setTile t v).winPoison = k.winPoison := rfl
@[simp] theorem Core.tvec_setTile (k : Core) (t : BitVec 3) (v : Tile) : (k.setTile t v).tvec = k.tvec := rfl
@[simp] theorem Core.tcause_setTile (k : Core) (t : BitVec 3) (v : Tile) : (k.setTile t v).tcause = k.tcause := rfl
@[simp] theorem Core.tepc_setTile (k : Core) (t : BitVec 3) (v : Tile) : (k.setTile t v).tepc = k.tepc := rfl
@[simp] theorem Core.tval_setTile (k : Core) (t : BitVec 3) (v : Tile) : (k.setTile t v).tval = k.tval := rfl
@[simp] theorem Core.psup_setTile (k : Core) (t : BitVec 3) (v : Tile) : (k.setTile t v).psup = k.psup := rfl
@[simp] theorem Core.sup_setTile (k : Core) (t : BitVec 3) (v : Tile) : (k.setTile t v).sup = k.sup := rfl
@[simp] theorem Core.twin_setTile (k : Core) (t : BitVec 3) (v : Tile) : (k.setTile t v).twin = k.twin := rfl
@[simp] theorem Core.tk_setTile (k : Core) (t : BitVec 3) (v : Tile) : (k.setTile t v).tk = k.tk := rfl
@[simp] theorem Core.bands_setTile (k : Core) (t : BitVec 3) (v : Tile) : (k.setTile t v).bands = k.bands := rfl
@[simp] theorem Core.lsc_setTile (k : Core) (t : BitVec 3) (v : Tile) : (k.setTile t v).lsc = k.lsc := rfl
@[simp] theorem Core.srseed_setTile (k : Core) (t : BitVec 3) (v : Tile) : (k.setTile t v).srseed = k.srseed := rfl
@[simp] theorem Core.ovf_setTile (k : Core) (t : BitVec 3) (v : Tile) : (k.setTile t v).ovf = k.ovf := rfl
@[simp] theorem Core.psnv_setTile (k : Core) (t : BitVec 3) (v : Tile) : (k.setTile t v).psnv = k.psnv := rfl
@[simp] theorem Core.psns_setTile (k : Core) (t : BitVec 3) (v : Tile) : (k.setTile t v).psns = k.psns := rfl
@[simp] theorem Core.psna_setTile (k : Core) (t : BitVec 3) (v : Tile) : (k.setTile t v).psna = k.psna := rfl
@[simp] theorem Core.req_setTile (k : Core) (t : BitVec 3) (v : Tile) : (k.setTile t v).req = k.req := rfl
@[simp] theorem Core.grant_setTile (k : Core) (t : BitVec 3) (v : Tile) : (k.setTile t v).grant = k.grant := rfl
@[simp] theorem Core.pend_setTile (k : Core) (t : BitVec 3) (v : Tile) : (k.setTile t v).pend = k.pend := rfl
@[simp] theorem Core.lslt_setTile (k : Core) (t : BitVec 3) (v : Tile) : (k.setTile t v).lslt = k.lslt := rfl
@[simp] theorem Core.brka_setTile (k : Core) (t : BitVec 3) (v : Tile) : (k.setTile t v).brka = k.brka := rfl
@[simp] theorem Core.brkc_setTile (k : Core) (t : BitVec 3) (v : Tile) : (k.setTile t v).brkc = k.brkc := rfl
@[simp] theorem Core.strands_setTile (k : Core) (t : BitVec 3) (v : Tile) : (k.setTile t v).strands = k.strands := rfl
@[simp] theorem Core.loops_setTile (k : Core) (t : BitVec 3) (v : Tile) : (k.setTile t v).loops = k.loops := rfl
@[simp] theorem Core.chain_setTile (k : Core) (t : BitVec 3) (v : Tile) : (k.setTile t v).chain = k.chain := rfl
@[simp] theorem Core.mq_setTile (k : Core) (t : BitVec 3) (v : Tile) : (k.setTile t v).mq = k.mq := rfl
@[simp] theorem Core.cout_setTile (k : Core) (t : BitVec 3) (v : Tile) : (k.setTile t v).cout = k.cout := rfl
@[simp] theorem Core.charges_setTile (k : Core) (t : BitVec 3) (v : Tile) : (k.setTile t v).charges = k.charges := rfl
@[simp] theorem Core.limit_setTile (k : Core) (t : BitVec 3) (v : Tile) : (k.setTile t v).limit = k.limit := rfl
@[simp] theorem Core.l1_setTile (k : Core) (t : BitVec 3) (v : Tile) : (k.setTile t v).l1 = k.l1 := rfl
@[simp] theorem Core.now_setTile (k : Core) (t : BitVec 3) (v : Tile) : (k.setTile t v).now = k.now := rfl
@[simp] theorem Core.node_setTile (k : Core) (t : BitVec 3) (v : Tile) : (k.setTile t v).node = k.node := rfl
@[simp] theorem Core.last_setTile (k : Core) (t : BitVec 3) (v : Tile) : (k.setTile t v).last = k.last := rfl
@[simp] theorem Core.spared_setTile (k : Core) (t : BitVec 3) (v : Tile) : (k.setTile t v).spared = k.spared := rfl
@[simp] theorem Core.x_setStrand (k : Core) (st : Strand) (v : StrandSt) : (k.setStrand st v).x = k.x := rfl
@[simp] theorem Core.v_setStrand (k : Core) (st : Strand) (v : StrandSt) : (k.setStrand st v).v = k.v := rfl
@[simp] theorem Core.k_setStrand (k : Core) (st : Strand) (v : StrandSt) : (k.setStrand st v).k = k.k := rfl
@[simp] theorem Core.lat_setStrand (k : Core) (st : Strand) (v : StrandSt) : (k.setStrand st v).lat = k.lat := rfl
@[simp] theorem Core.p_setStrand (k : Core) (st : Strand) (v : StrandSt) : (k.setStrand st v).p = k.p := rfl
@[simp] theorem Core.q_setStrand (k : Core) (st : Strand) (v : StrandSt) : (k.setStrand st v).q = k.q := rfl
@[simp] theorem Core.tiles_setStrand (k : Core) (st : Strand) (v : StrandSt) : (k.setStrand st v).tiles = k.tiles := rfl
@[simp] theorem Core.wtags_setStrand (k : Core) (st : Strand) (v : StrandSt) : (k.setStrand st v).wtags = k.wtags := rfl
@[simp] theorem Core.live_setStrand (k : Core) (st : Strand) (v : StrandSt) : (k.setStrand st v).live = k.live := rfl
@[simp] theorem Core.shadow_setStrand (k : Core) (st : Strand) (v : StrandSt) : (k.setStrand st v).shadow = k.shadow := rfl
@[simp] theorem Core.handles_setStrand (k : Core) (st : Strand) (v : StrandSt) : (k.setStrand st v).handles = k.handles := rfl
@[simp] theorem Core.pals_setStrand (k : Core) (st : Strand) (v : StrandSt) : (k.setStrand st v).pals = k.pals := rfl
@[simp] theorem Core.window_setStrand (k : Core) (st : Strand) (v : StrandSt) : (k.setStrand st v).window = k.window := rfl
@[simp] theorem Core.winPoison_setStrand (k : Core) (st : Strand) (v : StrandSt) : (k.setStrand st v).winPoison = k.winPoison := rfl
@[simp] theorem Core.tvec_setStrand (k : Core) (st : Strand) (v : StrandSt) : (k.setStrand st v).tvec = k.tvec := rfl
@[simp] theorem Core.tcause_setStrand (k : Core) (st : Strand) (v : StrandSt) : (k.setStrand st v).tcause = k.tcause := rfl
@[simp] theorem Core.tepc_setStrand (k : Core) (st : Strand) (v : StrandSt) : (k.setStrand st v).tepc = k.tepc := rfl
@[simp] theorem Core.tval_setStrand (k : Core) (st : Strand) (v : StrandSt) : (k.setStrand st v).tval = k.tval := rfl
@[simp] theorem Core.psup_setStrand (k : Core) (st : Strand) (v : StrandSt) : (k.setStrand st v).psup = k.psup := rfl
@[simp] theorem Core.sup_setStrand (k : Core) (st : Strand) (v : StrandSt) : (k.setStrand st v).sup = k.sup := rfl
@[simp] theorem Core.twin_setStrand (k : Core) (st : Strand) (v : StrandSt) : (k.setStrand st v).twin = k.twin := rfl
@[simp] theorem Core.tk_setStrand (k : Core) (st : Strand) (v : StrandSt) : (k.setStrand st v).tk = k.tk := rfl
@[simp] theorem Core.bands_setStrand (k : Core) (st : Strand) (v : StrandSt) : (k.setStrand st v).bands = k.bands := rfl
@[simp] theorem Core.lsc_setStrand (k : Core) (st : Strand) (v : StrandSt) : (k.setStrand st v).lsc = k.lsc := rfl
@[simp] theorem Core.srseed_setStrand (k : Core) (st : Strand) (v : StrandSt) : (k.setStrand st v).srseed = k.srseed := rfl
@[simp] theorem Core.ovf_setStrand (k : Core) (st : Strand) (v : StrandSt) : (k.setStrand st v).ovf = k.ovf := rfl
@[simp] theorem Core.psnv_setStrand (k : Core) (st : Strand) (v : StrandSt) : (k.setStrand st v).psnv = k.psnv := rfl
@[simp] theorem Core.psns_setStrand (k : Core) (st : Strand) (v : StrandSt) : (k.setStrand st v).psns = k.psns := rfl
@[simp] theorem Core.psna_setStrand (k : Core) (st : Strand) (v : StrandSt) : (k.setStrand st v).psna = k.psna := rfl
@[simp] theorem Core.req_setStrand (k : Core) (st : Strand) (v : StrandSt) : (k.setStrand st v).req = k.req := rfl
@[simp] theorem Core.grant_setStrand (k : Core) (st : Strand) (v : StrandSt) : (k.setStrand st v).grant = k.grant := rfl
@[simp] theorem Core.pend_setStrand (k : Core) (st : Strand) (v : StrandSt) : (k.setStrand st v).pend = k.pend := rfl
@[simp] theorem Core.lslt_setStrand (k : Core) (st : Strand) (v : StrandSt) : (k.setStrand st v).lslt = k.lslt := rfl
@[simp] theorem Core.brka_setStrand (k : Core) (st : Strand) (v : StrandSt) : (k.setStrand st v).brka = k.brka := rfl
@[simp] theorem Core.brkc_setStrand (k : Core) (st : Strand) (v : StrandSt) : (k.setStrand st v).brkc = k.brkc := rfl
@[simp] theorem Core.loops_setStrand (k : Core) (st : Strand) (v : StrandSt) : (k.setStrand st v).loops = k.loops := rfl
@[simp] theorem Core.chain_setStrand (k : Core) (st : Strand) (v : StrandSt) : (k.setStrand st v).chain = k.chain := rfl
@[simp] theorem Core.mq_setStrand (k : Core) (st : Strand) (v : StrandSt) : (k.setStrand st v).mq = k.mq := rfl
@[simp] theorem Core.cout_setStrand (k : Core) (st : Strand) (v : StrandSt) : (k.setStrand st v).cout = k.cout := rfl
@[simp] theorem Core.charges_setStrand (k : Core) (st : Strand) (v : StrandSt) : (k.setStrand st v).charges = k.charges := rfl
@[simp] theorem Core.limit_setStrand (k : Core) (st : Strand) (v : StrandSt) : (k.setStrand st v).limit = k.limit := rfl
@[simp] theorem Core.l1_setStrand (k : Core) (st : Strand) (v : StrandSt) : (k.setStrand st v).l1 = k.l1 := rfl
@[simp] theorem Core.now_setStrand (k : Core) (st : Strand) (v : StrandSt) : (k.setStrand st v).now = k.now := rfl
@[simp] theorem Core.node_setStrand (k : Core) (st : Strand) (v : StrandSt) : (k.setStrand st v).node = k.node := rfl
@[simp] theorem Core.last_setStrand (k : Core) (st : Strand) (v : StrandSt) : (k.setStrand st v).last = k.last := rfl
@[simp] theorem Core.spared_setStrand (k : Core) (st : Strand) (v : StrandSt) : (k.setStrand st v).spared = k.spared := rfl
@[simp] theorem Core.x_updStrand (k : Core) (st : Strand) (f : StrandSt → StrandSt) : (k.updStrand st f).x = k.x := rfl
@[simp] theorem Core.v_updStrand (k : Core) (st : Strand) (f : StrandSt → StrandSt) : (k.updStrand st f).v = k.v := rfl
@[simp] theorem Core.k_updStrand (k : Core) (st : Strand) (f : StrandSt → StrandSt) : (k.updStrand st f).k = k.k := rfl
@[simp] theorem Core.lat_updStrand (k : Core) (st : Strand) (f : StrandSt → StrandSt) : (k.updStrand st f).lat = k.lat := rfl
@[simp] theorem Core.p_updStrand (k : Core) (st : Strand) (f : StrandSt → StrandSt) : (k.updStrand st f).p = k.p := rfl
@[simp] theorem Core.q_updStrand (k : Core) (st : Strand) (f : StrandSt → StrandSt) : (k.updStrand st f).q = k.q := rfl
@[simp] theorem Core.tiles_updStrand (k : Core) (st : Strand) (f : StrandSt → StrandSt) : (k.updStrand st f).tiles = k.tiles := rfl
@[simp] theorem Core.wtags_updStrand (k : Core) (st : Strand) (f : StrandSt → StrandSt) : (k.updStrand st f).wtags = k.wtags := rfl
@[simp] theorem Core.live_updStrand (k : Core) (st : Strand) (f : StrandSt → StrandSt) : (k.updStrand st f).live = k.live := rfl
@[simp] theorem Core.shadow_updStrand (k : Core) (st : Strand) (f : StrandSt → StrandSt) : (k.updStrand st f).shadow = k.shadow := rfl
@[simp] theorem Core.handles_updStrand (k : Core) (st : Strand) (f : StrandSt → StrandSt) : (k.updStrand st f).handles = k.handles := rfl
@[simp] theorem Core.pals_updStrand (k : Core) (st : Strand) (f : StrandSt → StrandSt) : (k.updStrand st f).pals = k.pals := rfl
@[simp] theorem Core.window_updStrand (k : Core) (st : Strand) (f : StrandSt → StrandSt) : (k.updStrand st f).window = k.window := rfl
@[simp] theorem Core.winPoison_updStrand (k : Core) (st : Strand) (f : StrandSt → StrandSt) : (k.updStrand st f).winPoison = k.winPoison := rfl
@[simp] theorem Core.tvec_updStrand (k : Core) (st : Strand) (f : StrandSt → StrandSt) : (k.updStrand st f).tvec = k.tvec := rfl
@[simp] theorem Core.tcause_updStrand (k : Core) (st : Strand) (f : StrandSt → StrandSt) : (k.updStrand st f).tcause = k.tcause := rfl
@[simp] theorem Core.tepc_updStrand (k : Core) (st : Strand) (f : StrandSt → StrandSt) : (k.updStrand st f).tepc = k.tepc := rfl
@[simp] theorem Core.tval_updStrand (k : Core) (st : Strand) (f : StrandSt → StrandSt) : (k.updStrand st f).tval = k.tval := rfl
@[simp] theorem Core.psup_updStrand (k : Core) (st : Strand) (f : StrandSt → StrandSt) : (k.updStrand st f).psup = k.psup := rfl
@[simp] theorem Core.sup_updStrand (k : Core) (st : Strand) (f : StrandSt → StrandSt) : (k.updStrand st f).sup = k.sup := rfl
@[simp] theorem Core.twin_updStrand (k : Core) (st : Strand) (f : StrandSt → StrandSt) : (k.updStrand st f).twin = k.twin := rfl
@[simp] theorem Core.tk_updStrand (k : Core) (st : Strand) (f : StrandSt → StrandSt) : (k.updStrand st f).tk = k.tk := rfl
@[simp] theorem Core.bands_updStrand (k : Core) (st : Strand) (f : StrandSt → StrandSt) : (k.updStrand st f).bands = k.bands := rfl
@[simp] theorem Core.lsc_updStrand (k : Core) (st : Strand) (f : StrandSt → StrandSt) : (k.updStrand st f).lsc = k.lsc := rfl
@[simp] theorem Core.srseed_updStrand (k : Core) (st : Strand) (f : StrandSt → StrandSt) : (k.updStrand st f).srseed = k.srseed := rfl
@[simp] theorem Core.ovf_updStrand (k : Core) (st : Strand) (f : StrandSt → StrandSt) : (k.updStrand st f).ovf = k.ovf := rfl
@[simp] theorem Core.psnv_updStrand (k : Core) (st : Strand) (f : StrandSt → StrandSt) : (k.updStrand st f).psnv = k.psnv := rfl
@[simp] theorem Core.psns_updStrand (k : Core) (st : Strand) (f : StrandSt → StrandSt) : (k.updStrand st f).psns = k.psns := rfl
@[simp] theorem Core.psna_updStrand (k : Core) (st : Strand) (f : StrandSt → StrandSt) : (k.updStrand st f).psna = k.psna := rfl
@[simp] theorem Core.req_updStrand (k : Core) (st : Strand) (f : StrandSt → StrandSt) : (k.updStrand st f).req = k.req := rfl
@[simp] theorem Core.grant_updStrand (k : Core) (st : Strand) (f : StrandSt → StrandSt) : (k.updStrand st f).grant = k.grant := rfl
@[simp] theorem Core.pend_updStrand (k : Core) (st : Strand) (f : StrandSt → StrandSt) : (k.updStrand st f).pend = k.pend := rfl
@[simp] theorem Core.lslt_updStrand (k : Core) (st : Strand) (f : StrandSt → StrandSt) : (k.updStrand st f).lslt = k.lslt := rfl
@[simp] theorem Core.brka_updStrand (k : Core) (st : Strand) (f : StrandSt → StrandSt) : (k.updStrand st f).brka = k.brka := rfl
@[simp] theorem Core.brkc_updStrand (k : Core) (st : Strand) (f : StrandSt → StrandSt) : (k.updStrand st f).brkc = k.brkc := rfl
@[simp] theorem Core.loops_updStrand (k : Core) (st : Strand) (f : StrandSt → StrandSt) : (k.updStrand st f).loops = k.loops := rfl
@[simp] theorem Core.chain_updStrand (k : Core) (st : Strand) (f : StrandSt → StrandSt) : (k.updStrand st f).chain = k.chain := rfl
@[simp] theorem Core.mq_updStrand (k : Core) (st : Strand) (f : StrandSt → StrandSt) : (k.updStrand st f).mq = k.mq := rfl
@[simp] theorem Core.cout_updStrand (k : Core) (st : Strand) (f : StrandSt → StrandSt) : (k.updStrand st f).cout = k.cout := rfl
@[simp] theorem Core.charges_updStrand (k : Core) (st : Strand) (f : StrandSt → StrandSt) : (k.updStrand st f).charges = k.charges := rfl
@[simp] theorem Core.limit_updStrand (k : Core) (st : Strand) (f : StrandSt → StrandSt) : (k.updStrand st f).limit = k.limit := rfl
@[simp] theorem Core.l1_updStrand (k : Core) (st : Strand) (f : StrandSt → StrandSt) : (k.updStrand st f).l1 = k.l1 := rfl
@[simp] theorem Core.now_updStrand (k : Core) (st : Strand) (f : StrandSt → StrandSt) : (k.updStrand st f).now = k.now := rfl
@[simp] theorem Core.node_updStrand (k : Core) (st : Strand) (f : StrandSt → StrandSt) : (k.updStrand st f).node = k.node := rfl
@[simp] theorem Core.last_updStrand (k : Core) (st : Strand) (f : StrandSt → StrandSt) : (k.updStrand st f).last = k.last := rfl
@[simp] theorem Core.spared_updStrand (k : Core) (st : Strand) (f : StrandSt → StrandSt) : (k.updStrand st f).spared = k.spared := rfl
@[simp] theorem Core.x_setTokens (k : Core) (n c : Nat) : (k.setTokens n c).x = k.x := rfl
@[simp] theorem Core.v_setTokens (k : Core) (n c : Nat) : (k.setTokens n c).v = k.v := rfl
@[simp] theorem Core.k_setTokens (k : Core) (n c : Nat) : (k.setTokens n c).k = k.k := rfl
@[simp] theorem Core.lat_setTokens (k : Core) (n c : Nat) : (k.setTokens n c).lat = k.lat := rfl
@[simp] theorem Core.p_setTokens (k : Core) (n c : Nat) : (k.setTokens n c).p = k.p := rfl
@[simp] theorem Core.q_setTokens (k : Core) (n c : Nat) : (k.setTokens n c).q = k.q := rfl
@[simp] theorem Core.tiles_setTokens (k : Core) (n c : Nat) : (k.setTokens n c).tiles = k.tiles := rfl
@[simp] theorem Core.wtags_setTokens (k : Core) (n c : Nat) : (k.setTokens n c).wtags = k.wtags := rfl
@[simp] theorem Core.live_setTokens (k : Core) (n c : Nat) : (k.setTokens n c).live = k.live := rfl
@[simp] theorem Core.shadow_setTokens (k : Core) (n c : Nat) : (k.setTokens n c).shadow = k.shadow := rfl
@[simp] theorem Core.handles_setTokens (k : Core) (n c : Nat) : (k.setTokens n c).handles = k.handles := rfl
@[simp] theorem Core.pals_setTokens (k : Core) (n c : Nat) : (k.setTokens n c).pals = k.pals := rfl
@[simp] theorem Core.window_setTokens (k : Core) (n c : Nat) : (k.setTokens n c).window = k.window := rfl
@[simp] theorem Core.winPoison_setTokens (k : Core) (n c : Nat) : (k.setTokens n c).winPoison = k.winPoison := rfl
@[simp] theorem Core.tvec_setTokens (k : Core) (n c : Nat) : (k.setTokens n c).tvec = k.tvec := rfl
@[simp] theorem Core.tcause_setTokens (k : Core) (n c : Nat) : (k.setTokens n c).tcause = k.tcause := rfl
@[simp] theorem Core.tepc_setTokens (k : Core) (n c : Nat) : (k.setTokens n c).tepc = k.tepc := rfl
@[simp] theorem Core.tval_setTokens (k : Core) (n c : Nat) : (k.setTokens n c).tval = k.tval := rfl
@[simp] theorem Core.psup_setTokens (k : Core) (n c : Nat) : (k.setTokens n c).psup = k.psup := rfl
@[simp] theorem Core.sup_setTokens (k : Core) (n c : Nat) : (k.setTokens n c).sup = k.sup := rfl
@[simp] theorem Core.twin_setTokens (k : Core) (n c : Nat) : (k.setTokens n c).twin = k.twin := rfl
@[simp] theorem Core.bands_setTokens (k : Core) (n c : Nat) : (k.setTokens n c).bands = k.bands := rfl
@[simp] theorem Core.lsc_setTokens (k : Core) (n c : Nat) : (k.setTokens n c).lsc = k.lsc := rfl
@[simp] theorem Core.srseed_setTokens (k : Core) (n c : Nat) : (k.setTokens n c).srseed = k.srseed := rfl
@[simp] theorem Core.ovf_setTokens (k : Core) (n c : Nat) : (k.setTokens n c).ovf = k.ovf := rfl
@[simp] theorem Core.psnv_setTokens (k : Core) (n c : Nat) : (k.setTokens n c).psnv = k.psnv := rfl
@[simp] theorem Core.psns_setTokens (k : Core) (n c : Nat) : (k.setTokens n c).psns = k.psns := rfl
@[simp] theorem Core.psna_setTokens (k : Core) (n c : Nat) : (k.setTokens n c).psna = k.psna := rfl
@[simp] theorem Core.req_setTokens (k : Core) (n c : Nat) : (k.setTokens n c).req = k.req := rfl
@[simp] theorem Core.grant_setTokens (k : Core) (n c : Nat) : (k.setTokens n c).grant = k.grant := rfl
@[simp] theorem Core.pend_setTokens (k : Core) (n c : Nat) : (k.setTokens n c).pend = k.pend := rfl
@[simp] theorem Core.lslt_setTokens (k : Core) (n c : Nat) : (k.setTokens n c).lslt = k.lslt := rfl
@[simp] theorem Core.brka_setTokens (k : Core) (n c : Nat) : (k.setTokens n c).brka = k.brka := rfl
@[simp] theorem Core.brkc_setTokens (k : Core) (n c : Nat) : (k.setTokens n c).brkc = k.brkc := rfl
@[simp] theorem Core.strands_setTokens (k : Core) (n c : Nat) : (k.setTokens n c).strands = k.strands := rfl
@[simp] theorem Core.loops_setTokens (k : Core) (n c : Nat) : (k.setTokens n c).loops = k.loops := rfl
@[simp] theorem Core.chain_setTokens (k : Core) (n c : Nat) : (k.setTokens n c).chain = k.chain := rfl
@[simp] theorem Core.mq_setTokens (k : Core) (n c : Nat) : (k.setTokens n c).mq = k.mq := rfl
@[simp] theorem Core.cout_setTokens (k : Core) (n c : Nat) : (k.setTokens n c).cout = k.cout := rfl
@[simp] theorem Core.charges_setTokens (k : Core) (n c : Nat) : (k.setTokens n c).charges = k.charges := rfl
@[simp] theorem Core.limit_setTokens (k : Core) (n c : Nat) : (k.setTokens n c).limit = k.limit := rfl
@[simp] theorem Core.l1_setTokens (k : Core) (n c : Nat) : (k.setTokens n c).l1 = k.l1 := rfl
@[simp] theorem Core.now_setTokens (k : Core) (n c : Nat) : (k.setTokens n c).now = k.now := rfl
@[simp] theorem Core.node_setTokens (k : Core) (n c : Nat) : (k.setTokens n c).node = k.node := rfl
@[simp] theorem Core.last_setTokens (k : Core) (n c : Nat) : (k.setTokens n c).last = k.last := rfl
@[simp] theorem Core.spared_setTokens (k : Core) (n c : Nat) : (k.setTokens n c).spared = k.spared := rfl
@[simp] theorem Core.x_popFrom (k : Core) (n : Nat) : (k.popFrom n).x = k.x := rfl
@[simp] theorem Core.v_popFrom (k : Core) (n : Nat) : (k.popFrom n).v = k.v := rfl
@[simp] theorem Core.k_popFrom (k : Core) (n : Nat) : (k.popFrom n).k = k.k := rfl
@[simp] theorem Core.lat_popFrom (k : Core) (n : Nat) : (k.popFrom n).lat = k.lat := rfl
@[simp] theorem Core.p_popFrom (k : Core) (n : Nat) : (k.popFrom n).p = k.p := rfl
@[simp] theorem Core.q_popFrom (k : Core) (n : Nat) : (k.popFrom n).q = k.q := rfl
@[simp] theorem Core.tiles_popFrom (k : Core) (n : Nat) : (k.popFrom n).tiles = k.tiles := rfl
@[simp] theorem Core.wtags_popFrom (k : Core) (n : Nat) : (k.popFrom n).wtags = k.wtags := rfl
@[simp] theorem Core.live_popFrom (k : Core) (n : Nat) : (k.popFrom n).live = k.live := rfl
@[simp] theorem Core.shadow_popFrom (k : Core) (n : Nat) : (k.popFrom n).shadow = k.shadow := rfl
@[simp] theorem Core.handles_popFrom (k : Core) (n : Nat) : (k.popFrom n).handles = k.handles := rfl
@[simp] theorem Core.pals_popFrom (k : Core) (n : Nat) : (k.popFrom n).pals = k.pals := rfl
@[simp] theorem Core.window_popFrom (k : Core) (n : Nat) : (k.popFrom n).window = k.window := rfl
@[simp] theorem Core.winPoison_popFrom (k : Core) (n : Nat) : (k.popFrom n).winPoison = k.winPoison := rfl
@[simp] theorem Core.tvec_popFrom (k : Core) (n : Nat) : (k.popFrom n).tvec = k.tvec := rfl
@[simp] theorem Core.tcause_popFrom (k : Core) (n : Nat) : (k.popFrom n).tcause = k.tcause := rfl
@[simp] theorem Core.tepc_popFrom (k : Core) (n : Nat) : (k.popFrom n).tepc = k.tepc := rfl
@[simp] theorem Core.tval_popFrom (k : Core) (n : Nat) : (k.popFrom n).tval = k.tval := rfl
@[simp] theorem Core.psup_popFrom (k : Core) (n : Nat) : (k.popFrom n).psup = k.psup := rfl
@[simp] theorem Core.sup_popFrom (k : Core) (n : Nat) : (k.popFrom n).sup = k.sup := rfl
@[simp] theorem Core.twin_popFrom (k : Core) (n : Nat) : (k.popFrom n).twin = k.twin := rfl
@[simp] theorem Core.bands_popFrom (k : Core) (n : Nat) : (k.popFrom n).bands = k.bands := rfl
@[simp] theorem Core.lsc_popFrom (k : Core) (n : Nat) : (k.popFrom n).lsc = k.lsc := rfl
@[simp] theorem Core.srseed_popFrom (k : Core) (n : Nat) : (k.popFrom n).srseed = k.srseed := rfl
@[simp] theorem Core.ovf_popFrom (k : Core) (n : Nat) : (k.popFrom n).ovf = k.ovf := rfl
@[simp] theorem Core.psnv_popFrom (k : Core) (n : Nat) : (k.popFrom n).psnv = k.psnv := rfl
@[simp] theorem Core.psns_popFrom (k : Core) (n : Nat) : (k.popFrom n).psns = k.psns := rfl
@[simp] theorem Core.psna_popFrom (k : Core) (n : Nat) : (k.popFrom n).psna = k.psna := rfl
@[simp] theorem Core.req_popFrom (k : Core) (n : Nat) : (k.popFrom n).req = k.req := rfl
@[simp] theorem Core.grant_popFrom (k : Core) (n : Nat) : (k.popFrom n).grant = k.grant := rfl
@[simp] theorem Core.pend_popFrom (k : Core) (n : Nat) : (k.popFrom n).pend = k.pend := rfl
@[simp] theorem Core.lslt_popFrom (k : Core) (n : Nat) : (k.popFrom n).lslt = k.lslt := rfl
@[simp] theorem Core.brka_popFrom (k : Core) (n : Nat) : (k.popFrom n).brka = k.brka := rfl
@[simp] theorem Core.brkc_popFrom (k : Core) (n : Nat) : (k.popFrom n).brkc = k.brkc := rfl
@[simp] theorem Core.strands_popFrom (k : Core) (n : Nat) : (k.popFrom n).strands = k.strands := rfl
@[simp] theorem Core.loops_popFrom (k : Core) (n : Nat) : (k.popFrom n).loops = k.loops := rfl
@[simp] theorem Core.chain_popFrom (k : Core) (n : Nat) : (k.popFrom n).chain = k.chain := rfl
@[simp] theorem Core.mq_popFrom (k : Core) (n : Nat) : (k.popFrom n).mq = k.mq := rfl
@[simp] theorem Core.cout_popFrom (k : Core) (n : Nat) : (k.popFrom n).cout = k.cout := rfl
@[simp] theorem Core.charges_popFrom (k : Core) (n : Nat) : (k.popFrom n).charges = k.charges := rfl
@[simp] theorem Core.limit_popFrom (k : Core) (n : Nat) : (k.popFrom n).limit = k.limit := rfl
@[simp] theorem Core.l1_popFrom (k : Core) (n : Nat) : (k.popFrom n).l1 = k.l1 := rfl
@[simp] theorem Core.node_popFrom (k : Core) (n : Nat) : (k.popFrom n).node = k.node := rfl
@[simp] theorem Core.last_popFrom (k : Core) (n : Nat) : (k.popFrom n).last = k.last := rfl
@[simp] theorem Core.spared_popFrom (k : Core) (n : Nat) : (k.popFrom n).spared = k.spared := rfl
@[simp] theorem Core.x_pushInto (k : Core) (n : Nat) : (k.pushInto n).x = k.x := rfl
@[simp] theorem Core.v_pushInto (k : Core) (n : Nat) : (k.pushInto n).v = k.v := rfl
@[simp] theorem Core.k_pushInto (k : Core) (n : Nat) : (k.pushInto n).k = k.k := rfl
@[simp] theorem Core.lat_pushInto (k : Core) (n : Nat) : (k.pushInto n).lat = k.lat := rfl
@[simp] theorem Core.p_pushInto (k : Core) (n : Nat) : (k.pushInto n).p = k.p := rfl
@[simp] theorem Core.q_pushInto (k : Core) (n : Nat) : (k.pushInto n).q = k.q := rfl
@[simp] theorem Core.tiles_pushInto (k : Core) (n : Nat) : (k.pushInto n).tiles = k.tiles := rfl
@[simp] theorem Core.wtags_pushInto (k : Core) (n : Nat) : (k.pushInto n).wtags = k.wtags := rfl
@[simp] theorem Core.live_pushInto (k : Core) (n : Nat) : (k.pushInto n).live = k.live := rfl
@[simp] theorem Core.shadow_pushInto (k : Core) (n : Nat) : (k.pushInto n).shadow = k.shadow := rfl
@[simp] theorem Core.handles_pushInto (k : Core) (n : Nat) : (k.pushInto n).handles = k.handles := rfl
@[simp] theorem Core.pals_pushInto (k : Core) (n : Nat) : (k.pushInto n).pals = k.pals := rfl
@[simp] theorem Core.window_pushInto (k : Core) (n : Nat) : (k.pushInto n).window = k.window := rfl
@[simp] theorem Core.winPoison_pushInto (k : Core) (n : Nat) : (k.pushInto n).winPoison = k.winPoison := rfl
@[simp] theorem Core.tvec_pushInto (k : Core) (n : Nat) : (k.pushInto n).tvec = k.tvec := rfl
@[simp] theorem Core.tcause_pushInto (k : Core) (n : Nat) : (k.pushInto n).tcause = k.tcause := rfl
@[simp] theorem Core.tepc_pushInto (k : Core) (n : Nat) : (k.pushInto n).tepc = k.tepc := rfl
@[simp] theorem Core.tval_pushInto (k : Core) (n : Nat) : (k.pushInto n).tval = k.tval := rfl
@[simp] theorem Core.psup_pushInto (k : Core) (n : Nat) : (k.pushInto n).psup = k.psup := rfl
@[simp] theorem Core.sup_pushInto (k : Core) (n : Nat) : (k.pushInto n).sup = k.sup := rfl
@[simp] theorem Core.twin_pushInto (k : Core) (n : Nat) : (k.pushInto n).twin = k.twin := rfl
@[simp] theorem Core.bands_pushInto (k : Core) (n : Nat) : (k.pushInto n).bands = k.bands := rfl
@[simp] theorem Core.lsc_pushInto (k : Core) (n : Nat) : (k.pushInto n).lsc = k.lsc := rfl
@[simp] theorem Core.srseed_pushInto (k : Core) (n : Nat) : (k.pushInto n).srseed = k.srseed := rfl
@[simp] theorem Core.ovf_pushInto (k : Core) (n : Nat) : (k.pushInto n).ovf = k.ovf := rfl
@[simp] theorem Core.psnv_pushInto (k : Core) (n : Nat) : (k.pushInto n).psnv = k.psnv := rfl
@[simp] theorem Core.psns_pushInto (k : Core) (n : Nat) : (k.pushInto n).psns = k.psns := rfl
@[simp] theorem Core.psna_pushInto (k : Core) (n : Nat) : (k.pushInto n).psna = k.psna := rfl
@[simp] theorem Core.req_pushInto (k : Core) (n : Nat) : (k.pushInto n).req = k.req := rfl
@[simp] theorem Core.grant_pushInto (k : Core) (n : Nat) : (k.pushInto n).grant = k.grant := rfl
@[simp] theorem Core.pend_pushInto (k : Core) (n : Nat) : (k.pushInto n).pend = k.pend := rfl
@[simp] theorem Core.lslt_pushInto (k : Core) (n : Nat) : (k.pushInto n).lslt = k.lslt := rfl
@[simp] theorem Core.brka_pushInto (k : Core) (n : Nat) : (k.pushInto n).brka = k.brka := rfl
@[simp] theorem Core.brkc_pushInto (k : Core) (n : Nat) : (k.pushInto n).brkc = k.brkc := rfl
@[simp] theorem Core.strands_pushInto (k : Core) (n : Nat) : (k.pushInto n).strands = k.strands := rfl
@[simp] theorem Core.loops_pushInto (k : Core) (n : Nat) : (k.pushInto n).loops = k.loops := rfl
@[simp] theorem Core.chain_pushInto (k : Core) (n : Nat) : (k.pushInto n).chain = k.chain := rfl
@[simp] theorem Core.mq_pushInto (k : Core) (n : Nat) : (k.pushInto n).mq = k.mq := rfl
@[simp] theorem Core.cout_pushInto (k : Core) (n : Nat) : (k.pushInto n).cout = k.cout := rfl
@[simp] theorem Core.charges_pushInto (k : Core) (n : Nat) : (k.pushInto n).charges = k.charges := rfl
@[simp] theorem Core.limit_pushInto (k : Core) (n : Nat) : (k.pushInto n).limit = k.limit := rfl
@[simp] theorem Core.l1_pushInto (k : Core) (n : Nat) : (k.pushInto n).l1 = k.l1 := rfl
@[simp] theorem Core.node_pushInto (k : Core) (n : Nat) : (k.pushInto n).node = k.node := rfl
@[simp] theorem Core.last_pushInto (k : Core) (n : Nat) : (k.pushInto n).last = k.last := rfl
@[simp] theorem Core.spared_pushInto (k : Core) (n : Nat) : (k.pushInto n).spared = k.spared := rfl
@[simp] theorem Core.x_putBack (k : Core) (n : Nat) : (k.putBack n).x = k.x := rfl
@[simp] theorem Core.v_putBack (k : Core) (n : Nat) : (k.putBack n).v = k.v := rfl
@[simp] theorem Core.k_putBack (k : Core) (n : Nat) : (k.putBack n).k = k.k := rfl
@[simp] theorem Core.lat_putBack (k : Core) (n : Nat) : (k.putBack n).lat = k.lat := rfl
@[simp] theorem Core.p_putBack (k : Core) (n : Nat) : (k.putBack n).p = k.p := rfl
@[simp] theorem Core.q_putBack (k : Core) (n : Nat) : (k.putBack n).q = k.q := rfl
@[simp] theorem Core.tiles_putBack (k : Core) (n : Nat) : (k.putBack n).tiles = k.tiles := rfl
@[simp] theorem Core.wtags_putBack (k : Core) (n : Nat) : (k.putBack n).wtags = k.wtags := rfl
@[simp] theorem Core.live_putBack (k : Core) (n : Nat) : (k.putBack n).live = k.live := rfl
@[simp] theorem Core.shadow_putBack (k : Core) (n : Nat) : (k.putBack n).shadow = k.shadow := rfl
@[simp] theorem Core.handles_putBack (k : Core) (n : Nat) : (k.putBack n).handles = k.handles := rfl
@[simp] theorem Core.pals_putBack (k : Core) (n : Nat) : (k.putBack n).pals = k.pals := rfl
@[simp] theorem Core.window_putBack (k : Core) (n : Nat) : (k.putBack n).window = k.window := rfl
@[simp] theorem Core.winPoison_putBack (k : Core) (n : Nat) : (k.putBack n).winPoison = k.winPoison := rfl
@[simp] theorem Core.tvec_putBack (k : Core) (n : Nat) : (k.putBack n).tvec = k.tvec := rfl
@[simp] theorem Core.tcause_putBack (k : Core) (n : Nat) : (k.putBack n).tcause = k.tcause := rfl
@[simp] theorem Core.tepc_putBack (k : Core) (n : Nat) : (k.putBack n).tepc = k.tepc := rfl
@[simp] theorem Core.tval_putBack (k : Core) (n : Nat) : (k.putBack n).tval = k.tval := rfl
@[simp] theorem Core.psup_putBack (k : Core) (n : Nat) : (k.putBack n).psup = k.psup := rfl
@[simp] theorem Core.sup_putBack (k : Core) (n : Nat) : (k.putBack n).sup = k.sup := rfl
@[simp] theorem Core.twin_putBack (k : Core) (n : Nat) : (k.putBack n).twin = k.twin := rfl
@[simp] theorem Core.bands_putBack (k : Core) (n : Nat) : (k.putBack n).bands = k.bands := rfl
@[simp] theorem Core.lsc_putBack (k : Core) (n : Nat) : (k.putBack n).lsc = k.lsc := rfl
@[simp] theorem Core.srseed_putBack (k : Core) (n : Nat) : (k.putBack n).srseed = k.srseed := rfl
@[simp] theorem Core.ovf_putBack (k : Core) (n : Nat) : (k.putBack n).ovf = k.ovf := rfl
@[simp] theorem Core.psnv_putBack (k : Core) (n : Nat) : (k.putBack n).psnv = k.psnv := rfl
@[simp] theorem Core.psns_putBack (k : Core) (n : Nat) : (k.putBack n).psns = k.psns := rfl
@[simp] theorem Core.psna_putBack (k : Core) (n : Nat) : (k.putBack n).psna = k.psna := rfl
@[simp] theorem Core.req_putBack (k : Core) (n : Nat) : (k.putBack n).req = k.req := rfl
@[simp] theorem Core.grant_putBack (k : Core) (n : Nat) : (k.putBack n).grant = k.grant := rfl
@[simp] theorem Core.pend_putBack (k : Core) (n : Nat) : (k.putBack n).pend = k.pend := rfl
@[simp] theorem Core.lslt_putBack (k : Core) (n : Nat) : (k.putBack n).lslt = k.lslt := rfl
@[simp] theorem Core.brka_putBack (k : Core) (n : Nat) : (k.putBack n).brka = k.brka := rfl
@[simp] theorem Core.brkc_putBack (k : Core) (n : Nat) : (k.putBack n).brkc = k.brkc := rfl
@[simp] theorem Core.strands_putBack (k : Core) (n : Nat) : (k.putBack n).strands = k.strands := rfl
@[simp] theorem Core.loops_putBack (k : Core) (n : Nat) : (k.putBack n).loops = k.loops := rfl
@[simp] theorem Core.chain_putBack (k : Core) (n : Nat) : (k.putBack n).chain = k.chain := rfl
@[simp] theorem Core.mq_putBack (k : Core) (n : Nat) : (k.putBack n).mq = k.mq := rfl
@[simp] theorem Core.cout_putBack (k : Core) (n : Nat) : (k.putBack n).cout = k.cout := rfl
@[simp] theorem Core.charges_putBack (k : Core) (n : Nat) : (k.putBack n).charges = k.charges := rfl
@[simp] theorem Core.limit_putBack (k : Core) (n : Nat) : (k.putBack n).limit = k.limit := rfl
@[simp] theorem Core.l1_putBack (k : Core) (n : Nat) : (k.putBack n).l1 = k.l1 := rfl
@[simp] theorem Core.node_putBack (k : Core) (n : Nat) : (k.putBack n).node = k.node := rfl
@[simp] theorem Core.last_putBack (k : Core) (n : Nat) : (k.putBack n).last = k.last := rfl
@[simp] theorem Core.spared_putBack (k : Core) (n : Nat) : (k.putBack n).spared = k.spared := rfl
@[simp] theorem Core.x_writeNext (k : Core) (cr : BitVec 12) (w : Word) : (k.writeNext cr w).x = k.x := rfl
@[simp] theorem Core.v_writeNext (k : Core) (cr : BitVec 12) (w : Word) : (k.writeNext cr w).v = k.v := rfl
@[simp] theorem Core.k_writeNext (k : Core) (cr : BitVec 12) (w : Word) : (k.writeNext cr w).k = k.k := rfl
@[simp] theorem Core.lat_writeNext (k : Core) (cr : BitVec 12) (w : Word) : (k.writeNext cr w).lat = k.lat := rfl
@[simp] theorem Core.p_writeNext (k : Core) (cr : BitVec 12) (w : Word) : (k.writeNext cr w).p = k.p := rfl
@[simp] theorem Core.q_writeNext (k : Core) (cr : BitVec 12) (w : Word) : (k.writeNext cr w).q = k.q := rfl
@[simp] theorem Core.tiles_writeNext (k : Core) (cr : BitVec 12) (w : Word) : (k.writeNext cr w).tiles = k.tiles := rfl
@[simp] theorem Core.wtags_writeNext (k : Core) (cr : BitVec 12) (w : Word) : (k.writeNext cr w).wtags = k.wtags := rfl
@[simp] theorem Core.live_writeNext (k : Core) (cr : BitVec 12) (w : Word) : (k.writeNext cr w).live = k.live := rfl
@[simp] theorem Core.shadow_writeNext (k : Core) (cr : BitVec 12) (w : Word) : (k.writeNext cr w).shadow = k.shadow := rfl
@[simp] theorem Core.handles_writeNext (k : Core) (cr : BitVec 12) (w : Word) : (k.writeNext cr w).handles = k.handles := rfl
@[simp] theorem Core.pals_writeNext (k : Core) (cr : BitVec 12) (w : Word) : (k.writeNext cr w).pals = k.pals := rfl
@[simp] theorem Core.window_writeNext (k : Core) (cr : BitVec 12) (w : Word) : (k.writeNext cr w).window = k.window := rfl
@[simp] theorem Core.winPoison_writeNext (k : Core) (cr : BitVec 12) (w : Word) : (k.writeNext cr w).winPoison = k.winPoison := rfl
@[simp] theorem Core.tvec_writeNext (k : Core) (cr : BitVec 12) (w : Word) : (k.writeNext cr w).tvec = k.tvec := rfl
@[simp] theorem Core.tcause_writeNext (k : Core) (cr : BitVec 12) (w : Word) : (k.writeNext cr w).tcause = k.tcause := rfl
@[simp] theorem Core.tepc_writeNext (k : Core) (cr : BitVec 12) (w : Word) : (k.writeNext cr w).tepc = k.tepc := rfl
@[simp] theorem Core.tval_writeNext (k : Core) (cr : BitVec 12) (w : Word) : (k.writeNext cr w).tval = k.tval := rfl
@[simp] theorem Core.psup_writeNext (k : Core) (cr : BitVec 12) (w : Word) : (k.writeNext cr w).psup = k.psup := rfl
@[simp] theorem Core.sup_writeNext (k : Core) (cr : BitVec 12) (w : Word) : (k.writeNext cr w).sup = k.sup := rfl
@[simp] theorem Core.twin_writeNext (k : Core) (cr : BitVec 12) (w : Word) : (k.writeNext cr w).twin = k.twin := rfl
@[simp] theorem Core.tk_writeNext (k : Core) (cr : BitVec 12) (w : Word) : (k.writeNext cr w).tk = k.tk := rfl
@[simp] theorem Core.bands_writeNext (k : Core) (cr : BitVec 12) (w : Word) : (k.writeNext cr w).bands = k.bands := rfl
@[simp] theorem Core.lsc_writeNext (k : Core) (cr : BitVec 12) (w : Word) : (k.writeNext cr w).lsc = k.lsc := rfl
@[simp] theorem Core.srseed_writeNext (k : Core) (cr : BitVec 12) (w : Word) : (k.writeNext cr w).srseed = k.srseed := rfl
@[simp] theorem Core.ovf_writeNext (k : Core) (cr : BitVec 12) (w : Word) : (k.writeNext cr w).ovf = k.ovf := rfl
@[simp] theorem Core.psnv_writeNext (k : Core) (cr : BitVec 12) (w : Word) : (k.writeNext cr w).psnv = k.psnv := rfl
@[simp] theorem Core.psns_writeNext (k : Core) (cr : BitVec 12) (w : Word) : (k.writeNext cr w).psns = k.psns := rfl
@[simp] theorem Core.psna_writeNext (k : Core) (cr : BitVec 12) (w : Word) : (k.writeNext cr w).psna = k.psna := rfl
@[simp] theorem Core.req_writeNext (k : Core) (cr : BitVec 12) (w : Word) : (k.writeNext cr w).req = k.req := rfl
@[simp] theorem Core.grant_writeNext (k : Core) (cr : BitVec 12) (w : Word) : (k.writeNext cr w).grant = k.grant := rfl
@[simp] theorem Core.pend_writeNext (k : Core) (cr : BitVec 12) (w : Word) : (k.writeNext cr w).pend = k.pend := rfl
@[simp] theorem Core.lslt_writeNext (k : Core) (cr : BitVec 12) (w : Word) : (k.writeNext cr w).lslt = k.lslt := rfl
@[simp] theorem Core.brka_writeNext (k : Core) (cr : BitVec 12) (w : Word) : (k.writeNext cr w).brka = k.brka := rfl
@[simp] theorem Core.brkc_writeNext (k : Core) (cr : BitVec 12) (w : Word) : (k.writeNext cr w).brkc = k.brkc := rfl
@[simp] theorem Core.strands_writeNext (k : Core) (cr : BitVec 12) (w : Word) : (k.writeNext cr w).strands = k.strands := rfl
@[simp] theorem Core.loops_writeNext (k : Core) (cr : BitVec 12) (w : Word) : (k.writeNext cr w).loops = k.loops := rfl
@[simp] theorem Core.chain_writeNext (k : Core) (cr : BitVec 12) (w : Word) : (k.writeNext cr w).chain = k.chain := rfl
@[simp] theorem Core.mq_writeNext (k : Core) (cr : BitVec 12) (w : Word) : (k.writeNext cr w).mq = k.mq := rfl
@[simp] theorem Core.cout_writeNext (k : Core) (cr : BitVec 12) (w : Word) : (k.writeNext cr w).cout = k.cout := rfl
@[simp] theorem Core.charges_writeNext (k : Core) (cr : BitVec 12) (w : Word) : (k.writeNext cr w).charges = k.charges := rfl
@[simp] theorem Core.limit_writeNext (k : Core) (cr : BitVec 12) (w : Word) : (k.writeNext cr w).limit = k.limit := rfl
@[simp] theorem Core.l1_writeNext (k : Core) (cr : BitVec 12) (w : Word) : (k.writeNext cr w).l1 = k.l1 := rfl
@[simp] theorem Core.node_writeNext (k : Core) (cr : BitVec 12) (w : Word) : (k.writeNext cr w).node = k.node := rfl
@[simp] theorem Core.last_writeNext (k : Core) (cr : BitVec 12) (w : Word) : (k.writeNext cr w).last = k.last := rfl
@[simp] theorem Core.spared_writeNext (k : Core) (cr : BitVec 12) (w : Word) : (k.writeNext cr w).spared = k.spared := rfl
@[simp] theorem Core.x_clearLatches (k : Core) : k.clearLatches.x = k.x := rfl
@[simp] theorem Core.v_clearLatches (k : Core) : k.clearLatches.v = k.v := rfl
@[simp] theorem Core.k_clearLatches (k : Core) : k.clearLatches.k = k.k := rfl
@[simp] theorem Core.p_clearLatches (k : Core) : k.clearLatches.p = k.p := rfl
@[simp] theorem Core.q_clearLatches (k : Core) : k.clearLatches.q = k.q := rfl
@[simp] theorem Core.tiles_clearLatches (k : Core) : k.clearLatches.tiles = k.tiles := rfl
@[simp] theorem Core.wtags_clearLatches (k : Core) : k.clearLatches.wtags = k.wtags := rfl
@[simp] theorem Core.live_clearLatches (k : Core) : k.clearLatches.live = k.live := rfl
@[simp] theorem Core.shadow_clearLatches (k : Core) : k.clearLatches.shadow = k.shadow := rfl
@[simp] theorem Core.handles_clearLatches (k : Core) : k.clearLatches.handles = k.handles := rfl
@[simp] theorem Core.pals_clearLatches (k : Core) : k.clearLatches.pals = k.pals := rfl
@[simp] theorem Core.window_clearLatches (k : Core) : k.clearLatches.window = k.window := rfl
@[simp] theorem Core.winPoison_clearLatches (k : Core) : k.clearLatches.winPoison = k.winPoison := rfl
@[simp] theorem Core.tvec_clearLatches (k : Core) : k.clearLatches.tvec = k.tvec := rfl
@[simp] theorem Core.tcause_clearLatches (k : Core) : k.clearLatches.tcause = k.tcause := rfl
@[simp] theorem Core.tepc_clearLatches (k : Core) : k.clearLatches.tepc = k.tepc := rfl
@[simp] theorem Core.tval_clearLatches (k : Core) : k.clearLatches.tval = k.tval := rfl
@[simp] theorem Core.psup_clearLatches (k : Core) : k.clearLatches.psup = k.psup := rfl
@[simp] theorem Core.sup_clearLatches (k : Core) : k.clearLatches.sup = k.sup := rfl
@[simp] theorem Core.twin_clearLatches (k : Core) : k.clearLatches.twin = k.twin := rfl
@[simp] theorem Core.tk_clearLatches (k : Core) : k.clearLatches.tk = k.tk := rfl
@[simp] theorem Core.bands_clearLatches (k : Core) : k.clearLatches.bands = k.bands := rfl
@[simp] theorem Core.lsc_clearLatches (k : Core) : k.clearLatches.lsc = k.lsc := rfl
@[simp] theorem Core.srseed_clearLatches (k : Core) : k.clearLatches.srseed = k.srseed := rfl
@[simp] theorem Core.ovf_clearLatches (k : Core) : k.clearLatches.ovf = k.ovf := rfl
@[simp] theorem Core.psnv_clearLatches (k : Core) : k.clearLatches.psnv = k.psnv := rfl
@[simp] theorem Core.psns_clearLatches (k : Core) : k.clearLatches.psns = k.psns := rfl
@[simp] theorem Core.psna_clearLatches (k : Core) : k.clearLatches.psna = k.psna := rfl
@[simp] theorem Core.req_clearLatches (k : Core) : k.clearLatches.req = k.req := rfl
@[simp] theorem Core.grant_clearLatches (k : Core) : k.clearLatches.grant = k.grant := rfl
@[simp] theorem Core.pend_clearLatches (k : Core) : k.clearLatches.pend = k.pend := rfl
@[simp] theorem Core.lslt_clearLatches (k : Core) : k.clearLatches.lslt = k.lslt := rfl
@[simp] theorem Core.brka_clearLatches (k : Core) : k.clearLatches.brka = k.brka := rfl
@[simp] theorem Core.brkc_clearLatches (k : Core) : k.clearLatches.brkc = k.brkc := rfl
@[simp] theorem Core.strands_clearLatches (k : Core) : k.clearLatches.strands = k.strands := rfl
@[simp] theorem Core.loops_clearLatches (k : Core) : k.clearLatches.loops = k.loops := rfl
@[simp] theorem Core.mq_clearLatches (k : Core) : k.clearLatches.mq = k.mq := rfl
@[simp] theorem Core.cout_clearLatches (k : Core) : k.clearLatches.cout = k.cout := rfl
@[simp] theorem Core.charges_clearLatches (k : Core) : k.clearLatches.charges = k.charges := rfl
@[simp] theorem Core.limit_clearLatches (k : Core) : k.clearLatches.limit = k.limit := rfl
@[simp] theorem Core.l1_clearLatches (k : Core) : k.clearLatches.l1 = k.l1 := rfl
@[simp] theorem Core.now_clearLatches (k : Core) : k.clearLatches.now = k.now := rfl
@[simp] theorem Core.node_clearLatches (k : Core) : k.clearLatches.node = k.node := rfl
@[simp] theorem Core.last_clearLatches (k : Core) : k.clearLatches.last = k.last := rfl
@[simp] theorem Core.spared_clearLatches (k : Core) : k.clearLatches.spared = k.spared := rfl
@[simp] theorem Core.x_setPoison (k : Core) (sp : BitVec 2) (a : Nat) : (k.setPoison sp a).x = k.x := rfl
@[simp] theorem Core.v_setPoison (k : Core) (sp : BitVec 2) (a : Nat) : (k.setPoison sp a).v = k.v := rfl
@[simp] theorem Core.k_setPoison (k : Core) (sp : BitVec 2) (a : Nat) : (k.setPoison sp a).k = k.k := rfl
@[simp] theorem Core.lat_setPoison (k : Core) (sp : BitVec 2) (a : Nat) : (k.setPoison sp a).lat = k.lat := rfl
@[simp] theorem Core.p_setPoison (k : Core) (sp : BitVec 2) (a : Nat) : (k.setPoison sp a).p = k.p := rfl
@[simp] theorem Core.q_setPoison (k : Core) (sp : BitVec 2) (a : Nat) : (k.setPoison sp a).q = k.q := rfl
@[simp] theorem Core.tiles_setPoison (k : Core) (sp : BitVec 2) (a : Nat) : (k.setPoison sp a).tiles = k.tiles := rfl
@[simp] theorem Core.wtags_setPoison (k : Core) (sp : BitVec 2) (a : Nat) : (k.setPoison sp a).wtags = k.wtags := rfl
@[simp] theorem Core.live_setPoison (k : Core) (sp : BitVec 2) (a : Nat) : (k.setPoison sp a).live = k.live := rfl
@[simp] theorem Core.shadow_setPoison (k : Core) (sp : BitVec 2) (a : Nat) : (k.setPoison sp a).shadow = k.shadow := rfl
@[simp] theorem Core.handles_setPoison (k : Core) (sp : BitVec 2) (a : Nat) : (k.setPoison sp a).handles = k.handles := rfl
@[simp] theorem Core.pals_setPoison (k : Core) (sp : BitVec 2) (a : Nat) : (k.setPoison sp a).pals = k.pals := rfl
@[simp] theorem Core.window_setPoison (k : Core) (sp : BitVec 2) (a : Nat) : (k.setPoison sp a).window = k.window := rfl
@[simp] theorem Core.winPoison_setPoison (k : Core) (sp : BitVec 2) (a : Nat) : (k.setPoison sp a).winPoison = k.winPoison := rfl
@[simp] theorem Core.tvec_setPoison (k : Core) (sp : BitVec 2) (a : Nat) : (k.setPoison sp a).tvec = k.tvec := rfl
@[simp] theorem Core.tcause_setPoison (k : Core) (sp : BitVec 2) (a : Nat) : (k.setPoison sp a).tcause = k.tcause := rfl
@[simp] theorem Core.tepc_setPoison (k : Core) (sp : BitVec 2) (a : Nat) : (k.setPoison sp a).tepc = k.tepc := rfl
@[simp] theorem Core.tval_setPoison (k : Core) (sp : BitVec 2) (a : Nat) : (k.setPoison sp a).tval = k.tval := rfl
@[simp] theorem Core.psup_setPoison (k : Core) (sp : BitVec 2) (a : Nat) : (k.setPoison sp a).psup = k.psup := rfl
@[simp] theorem Core.sup_setPoison (k : Core) (sp : BitVec 2) (a : Nat) : (k.setPoison sp a).sup = k.sup := rfl
@[simp] theorem Core.twin_setPoison (k : Core) (sp : BitVec 2) (a : Nat) : (k.setPoison sp a).twin = k.twin := rfl
@[simp] theorem Core.tk_setPoison (k : Core) (sp : BitVec 2) (a : Nat) : (k.setPoison sp a).tk = k.tk := rfl
@[simp] theorem Core.bands_setPoison (k : Core) (sp : BitVec 2) (a : Nat) : (k.setPoison sp a).bands = k.bands := rfl
@[simp] theorem Core.lsc_setPoison (k : Core) (sp : BitVec 2) (a : Nat) : (k.setPoison sp a).lsc = k.lsc := rfl
@[simp] theorem Core.srseed_setPoison (k : Core) (sp : BitVec 2) (a : Nat) : (k.setPoison sp a).srseed = k.srseed := rfl
@[simp] theorem Core.ovf_setPoison (k : Core) (sp : BitVec 2) (a : Nat) : (k.setPoison sp a).ovf = k.ovf := rfl
@[simp] theorem Core.req_setPoison (k : Core) (sp : BitVec 2) (a : Nat) : (k.setPoison sp a).req = k.req := rfl
@[simp] theorem Core.grant_setPoison (k : Core) (sp : BitVec 2) (a : Nat) : (k.setPoison sp a).grant = k.grant := rfl
@[simp] theorem Core.pend_setPoison (k : Core) (sp : BitVec 2) (a : Nat) : (k.setPoison sp a).pend = k.pend := rfl
@[simp] theorem Core.lslt_setPoison (k : Core) (sp : BitVec 2) (a : Nat) : (k.setPoison sp a).lslt = k.lslt := rfl
@[simp] theorem Core.brka_setPoison (k : Core) (sp : BitVec 2) (a : Nat) : (k.setPoison sp a).brka = k.brka := rfl
@[simp] theorem Core.brkc_setPoison (k : Core) (sp : BitVec 2) (a : Nat) : (k.setPoison sp a).brkc = k.brkc := rfl
@[simp] theorem Core.strands_setPoison (k : Core) (sp : BitVec 2) (a : Nat) : (k.setPoison sp a).strands = k.strands := rfl
@[simp] theorem Core.loops_setPoison (k : Core) (sp : BitVec 2) (a : Nat) : (k.setPoison sp a).loops = k.loops := rfl
@[simp] theorem Core.chain_setPoison (k : Core) (sp : BitVec 2) (a : Nat) : (k.setPoison sp a).chain = k.chain := rfl
@[simp] theorem Core.mq_setPoison (k : Core) (sp : BitVec 2) (a : Nat) : (k.setPoison sp a).mq = k.mq := rfl
@[simp] theorem Core.cout_setPoison (k : Core) (sp : BitVec 2) (a : Nat) : (k.setPoison sp a).cout = k.cout := rfl
@[simp] theorem Core.charges_setPoison (k : Core) (sp : BitVec 2) (a : Nat) : (k.setPoison sp a).charges = k.charges := rfl
@[simp] theorem Core.limit_setPoison (k : Core) (sp : BitVec 2) (a : Nat) : (k.setPoison sp a).limit = k.limit := rfl
@[simp] theorem Core.l1_setPoison (k : Core) (sp : BitVec 2) (a : Nat) : (k.setPoison sp a).l1 = k.l1 := rfl
@[simp] theorem Core.now_setPoison (k : Core) (sp : BitVec 2) (a : Nat) : (k.setPoison sp a).now = k.now := rfl
@[simp] theorem Core.node_setPoison (k : Core) (sp : BitVec 2) (a : Nat) : (k.setPoison sp a).node = k.node := rfl
@[simp] theorem Core.last_setPoison (k : Core) (sp : BitVec 2) (a : Nat) : (k.setPoison sp a).last = k.last := rfl
@[simp] theorem Core.spared_setPoison (k : Core) (sp : BitVec 2) (a : Nat) : (k.setPoison sp a).spared = k.spared := rfl

/-! The registers of a changed core. -/

@[simp] theorem Core.getX_zero (k : Core) : k.getX 0 = 0 := rfl

@[simp] theorem Core.setX_zero (k : Core) (w : Word) : k.setX 0 w = k := rfl

@[simp] theorem Core.getX_setX_same (k : Core) {r : BitVec 5} (w : Word) (h : r ≠ 0) : (k.setX r w).getX r = w := by
  simp only [Core.getX, Core.setX, if_neg h]
  exact vget_vset_same _ _ _ r.isLt

@[simp] theorem Core.getX_setX_other (k : Core) {r q : BitVec 5} (w : Word) (h : r ≠ q) : (k.setX r w).getX q = k.getX q := by
  by_cases hr : r = 0
  · subst hr; rfl
  · simp only [Core.getX, Core.setX, if_neg hr]
    split
    · rfl
    · exact vget_vset_other _ _ _ (fun e => h (BitVec.eq_of_toNat_eq e))

@[simp] theorem Core.getK_setK_same (k : Core) {r : BitVec 3} (w : Word) (h : r ≠ 0) : (k.setK r w).getK r = w := by
  simp only [Core.getK, Core.setK, if_neg h]
  exact vget_vset_same _ _ _ r.isLt

@[simp] theorem Core.getK_setK_other (k : Core) {r q : BitVec 3} (w : Word) (h : r ≠ q) : (k.setK r w).getK q = k.getK q := by
  by_cases hr : r = 0
  · subst hr; rfl
  · simp only [Core.getK, Core.setK, if_neg hr]
    split
    · rfl
    · exact vget_vset_other _ _ _ (fun e => h (BitVec.eq_of_toNat_eq e))

@[simp] theorem Core.getV_setV_same (k : Core) (r : BitVec 5) (w : VReg) : (k.setV r w).getV r = w :=
  vget_vset_same _ _ _ r.isLt

@[simp] theorem Core.getV_setV_other (k : Core) {r q : BitVec 5} (w : VReg) (h : r ≠ q) : (k.setV r w).getV q = k.getV q :=
  vget_vset_other _ _ _ (fun e => h (BitVec.eq_of_toNat_eq e))

@[simp] theorem Core.getP_setP_same (k : Core) (r : BitVec 4) (w : Lane) : (k.setP r w).getP r = w :=
  vget_vset_same _ _ _ r.isLt

@[simp] theorem Core.getP_setP_other (k : Core) {r q : BitVec 4} (w : Lane) (h : r ≠ q) : (k.setP r w).getP q = k.getP q :=
  vget_vset_other _ _ _ (fun e => h (BitVec.eq_of_toNat_eq e))

@[simp] theorem Core.getQ_setQ_same (k : Core) (r : BitVec 4) (w : Lane) : (k.setQ r w).getQ r = w :=
  vget_vset_same _ _ _ r.isLt

@[simp] theorem Core.getQ_setQ_other (k : Core) {r q : BitVec 4} (w : Lane) (h : r ≠ q) : (k.setQ r w).getQ q = k.getQ q :=
  vget_vset_other _ _ _ (fun e => h (BitVec.eq_of_toNat_eq e))

@[simp] theorem Core.getTile_setTile_same (k : Core) (r : BitVec 3) (w : Tile) : (k.setTile r w).getTile r = w :=
  vget_vset_same _ _ _ r.isLt

@[simp] theorem Core.getTile_setTile_other (k : Core) {r q : BitVec 3} (w : Tile) (h : r ≠ q) : (k.setTile r w).getTile q = k.getTile q :=
  vget_vset_other _ _ _ (fun e => h (BitVec.eq_of_toNat_eq e))

@[simp] theorem Core.strand_setStrand_same (k : Core) (st : Strand) (v : StrandSt) : (k.setStrand st v).strand st = v :=
  vget_vset_same _ _ _ (strand_num_lt st)

@[simp] theorem Core.strand_setStrand_other (k : Core) {st x : Strand} (v : StrandSt) (h : st ≠ x) :
    (k.setStrand st v).strand x = k.strand x := vget_vset_other _ _ _ (strand_num_ne h)

@[simp] theorem Core.strand_updStrand_same (k : Core) (st : Strand) (f : StrandSt → StrandSt) :
    (k.updStrand st f).strand st = f (k.strand st) := Core.strand_setStrand_same _ _ _

@[simp] theorem Core.strand_updStrand_other (k : Core) {st x : Strand} (f : StrandSt → StrandSt) (h : st ≠ x) :
    (k.updStrand st f).strand x = k.strand x := Core.strand_setStrand_other _ _ h

@[simp] theorem Core.tokens_setTokens_same (k : Core) {n : Nat} (c : Nat) (h : n < 12) : (k.setTokens n c).tokens n = c :=
  vget_vset_same _ _ _ h

@[simp] theorem Core.tokens_setTokens_other (k : Core) {n m : Nat} (c : Nat) (h : n ≠ m) :
    (k.setTokens n c).tokens m = k.tokens m := vget_vset_other _ _ _ h

@[simp] theorem Core.tokens_popFrom_same (k : Core) {n : Nat} (h : n < 12) : (k.popFrom n).tokens n = k.tokens n - 1 :=
  vget_vset_same _ _ _ h

@[simp] theorem Core.tokens_popFrom_other (k : Core) {n m : Nat} (h : n ≠ m) : (k.popFrom n).tokens m = k.tokens m :=
  vget_vset_other _ _ _ h

@[simp] theorem Core.tokens_pushInto_same (k : Core) {n : Nat} (h : n < 12) : (k.pushInto n).tokens n = k.tokens n + 1 :=
  vget_vset_same _ _ _ h

@[simp] theorem Core.tokens_pushInto_other (k : Core) {n m : Nat} (h : n ≠ m) : (k.pushInto n).tokens m = k.tokens m :=
  vget_vset_other _ _ _ h

@[simp] theorem Core.tokens_putBack_same (k : Core) {n : Nat} (h : n < 12) : (k.putBack n).tokens n = k.tokens n + 1 :=
  vget_vset_same _ _ _ h

@[simp] theorem Core.tokens_putBack_other (k : Core) {n m : Nat} (h : n ≠ m) : (k.putBack n).tokens m = k.tokens m :=
  vget_vset_other _ _ _ h

/-! The cycle under way. -/

@[simp] theorem Core.now_popFrom (k : Core) (n : Nat) : (k.popFrom n).now = { k.now with popped := n :: k.now.popped } := rfl
@[simp] theorem Core.now_pushInto (k : Core) (n : Nat) : (k.pushInto n).now = { k.now with pushed := n :: k.now.pushed } := rfl
@[simp] theorem Core.now_writeNext (k : Core) (cr : BitVec 12) (w : Word) :
    (k.writeNext cr w).now = { k.now with write := some (cr, w) } := rfl
@[simp] theorem Core.now_endCycle (k : Core) : k.endCycle.now = Now.none := rfl

/-! Readings that an update leaves alone. -/

@[simp] theorem Core.getK_setX (k : Core) (r : BitVec 5) (w : Word) (q' : BitVec 3) : (k.setX r w).getK q' = k.getK q' := by unfold Core.setX; split <;> rfl
@[simp] theorem Core.getV_setX (k : Core) (r : BitVec 5) (w : Word) (q' : BitVec 5) : (k.setX r w).getV q' = k.getV q' := by unfold Core.setX; split <;> rfl
@[simp] theorem Core.getP_setX (k : Core) (r : BitVec 5) (w : Word) (q' : BitVec 4) : (k.setX r w).getP q' = k.getP q' := by unfold Core.setX; split <;> rfl
@[simp] theorem Core.getQ_setX (k : Core) (r : BitVec 5) (w : Word) (q' : BitVec 4) : (k.setX r w).getQ q' = k.getQ q' := by unfold Core.setX; split <;> rfl
@[simp] theorem Core.getTile_setX (k : Core) (r : BitVec 5) (w : Word) (q' : BitVec 3) : (k.setX r w).getTile q' = k.getTile q' := by unfold Core.setX; split <;> rfl
@[simp] theorem Core.strand_setX (k : Core) (r : BitVec 5) (w : Word) (q' : Strand) : (k.setX r w).strand q' = k.strand q' := by unfold Core.setX; split <;> rfl
@[simp] theorem Core.tokens_setX (k : Core) (r : BitVec 5) (w : Word) (q' : Nat) : (k.setX r w).tokens q' = k.tokens q' := by unfold Core.setX; split <;> rfl
@[simp] theorem Core.getH_setX (k : Core) (r : BitVec 5) (w : Word) (q' : BitVec 2) : (k.setX r w).getH q' = k.getH q' := by unfold Core.setX; split <;> rfl
@[simp] theorem Core.getPal_setX (k : Core) (r : BitVec 5) (w : Word) (q' : Nat) : (k.setX r w).getPal q' = k.getPal q' := by unfold Core.setX; split <;> rfl
@[simp] theorem Core.windowOf_setX (k : Core) (r : BitVec 5) (w : Word) (q' : Nat) : (k.setX r w).windowOf q' = k.windowOf q' := by unfold Core.setX; split <;> rfl
@[simp] theorem Core.getX_setK (k : Core) (r : BitVec 3) (w : Word) (q' : BitVec 5) : (k.setK r w).getX q' = k.getX q' := by unfold Core.setK; split <;> rfl
@[simp] theorem Core.getV_setK (k : Core) (r : BitVec 3) (w : Word) (q' : BitVec 5) : (k.setK r w).getV q' = k.getV q' := by unfold Core.setK; split <;> rfl
@[simp] theorem Core.getP_setK (k : Core) (r : BitVec 3) (w : Word) (q' : BitVec 4) : (k.setK r w).getP q' = k.getP q' := by unfold Core.setK; split <;> rfl
@[simp] theorem Core.getQ_setK (k : Core) (r : BitVec 3) (w : Word) (q' : BitVec 4) : (k.setK r w).getQ q' = k.getQ q' := by unfold Core.setK; split <;> rfl
@[simp] theorem Core.getTile_setK (k : Core) (r : BitVec 3) (w : Word) (q' : BitVec 3) : (k.setK r w).getTile q' = k.getTile q' := by unfold Core.setK; split <;> rfl
@[simp] theorem Core.strand_setK (k : Core) (r : BitVec 3) (w : Word) (q' : Strand) : (k.setK r w).strand q' = k.strand q' := by unfold Core.setK; split <;> rfl
@[simp] theorem Core.tokens_setK (k : Core) (r : BitVec 3) (w : Word) (q' : Nat) : (k.setK r w).tokens q' = k.tokens q' := by unfold Core.setK; split <;> rfl
@[simp] theorem Core.getH_setK (k : Core) (r : BitVec 3) (w : Word) (q' : BitVec 2) : (k.setK r w).getH q' = k.getH q' := by unfold Core.setK; split <;> rfl
@[simp] theorem Core.getPal_setK (k : Core) (r : BitVec 3) (w : Word) (q' : Nat) : (k.setK r w).getPal q' = k.getPal q' := by unfold Core.setK; split <;> rfl
@[simp] theorem Core.windowOf_setK (k : Core) (r : BitVec 3) (w : Word) (q' : Nat) : (k.setK r w).windowOf q' = k.windowOf q' := by unfold Core.setK; split <;> rfl
@[simp] theorem Core.getX_setV (k : Core) (r : BitVec 5) (w : VReg) (q' : BitVec 5) : (k.setV r w).getX q' = k.getX q' := rfl
@[simp] theorem Core.getK_setV (k : Core) (r : BitVec 5) (w : VReg) (q' : BitVec 3) : (k.setV r w).getK q' = k.getK q' := rfl
@[simp] theorem Core.getP_setV (k : Core) (r : BitVec 5) (w : VReg) (q' : BitVec 4) : (k.setV r w).getP q' = k.getP q' := rfl
@[simp] theorem Core.getQ_setV (k : Core) (r : BitVec 5) (w : VReg) (q' : BitVec 4) : (k.setV r w).getQ q' = k.getQ q' := rfl
@[simp] theorem Core.getTile_setV (k : Core) (r : BitVec 5) (w : VReg) (q' : BitVec 3) : (k.setV r w).getTile q' = k.getTile q' := rfl
@[simp] theorem Core.strand_setV (k : Core) (r : BitVec 5) (w : VReg) (q' : Strand) : (k.setV r w).strand q' = k.strand q' := rfl
@[simp] theorem Core.tokens_setV (k : Core) (r : BitVec 5) (w : VReg) (q' : Nat) : (k.setV r w).tokens q' = k.tokens q' := rfl
@[simp] theorem Core.getH_setV (k : Core) (r : BitVec 5) (w : VReg) (q' : BitVec 2) : (k.setV r w).getH q' = k.getH q' := rfl
@[simp] theorem Core.getPal_setV (k : Core) (r : BitVec 5) (w : VReg) (q' : Nat) : (k.setV r w).getPal q' = k.getPal q' := rfl
@[simp] theorem Core.windowOf_setV (k : Core) (r : BitVec 5) (w : VReg) (q' : Nat) : (k.setV r w).windowOf q' = k.windowOf q' := rfl
@[simp] theorem Core.getX_setP (k : Core) (r : BitVec 4) (w : Lane) (q' : BitVec 5) : (k.setP r w).getX q' = k.getX q' := rfl
@[simp] theorem Core.getK_setP (k : Core) (r : BitVec 4) (w : Lane) (q' : BitVec 3) : (k.setP r w).getK q' = k.getK q' := rfl
@[simp] theorem Core.getV_setP (k : Core) (r : BitVec 4) (w : Lane) (q' : BitVec 5) : (k.setP r w).getV q' = k.getV q' := rfl
@[simp] theorem Core.getQ_setP (k : Core) (r : BitVec 4) (w : Lane) (q' : BitVec 4) : (k.setP r w).getQ q' = k.getQ q' := rfl
@[simp] theorem Core.getTile_setP (k : Core) (r : BitVec 4) (w : Lane) (q' : BitVec 3) : (k.setP r w).getTile q' = k.getTile q' := rfl
@[simp] theorem Core.strand_setP (k : Core) (r : BitVec 4) (w : Lane) (q' : Strand) : (k.setP r w).strand q' = k.strand q' := rfl
@[simp] theorem Core.tokens_setP (k : Core) (r : BitVec 4) (w : Lane) (q' : Nat) : (k.setP r w).tokens q' = k.tokens q' := rfl
@[simp] theorem Core.getH_setP (k : Core) (r : BitVec 4) (w : Lane) (q' : BitVec 2) : (k.setP r w).getH q' = k.getH q' := rfl
@[simp] theorem Core.getPal_setP (k : Core) (r : BitVec 4) (w : Lane) (q' : Nat) : (k.setP r w).getPal q' = k.getPal q' := rfl
@[simp] theorem Core.windowOf_setP (k : Core) (r : BitVec 4) (w : Lane) (q' : Nat) : (k.setP r w).windowOf q' = k.windowOf q' := rfl
@[simp] theorem Core.getX_setQ (k : Core) (r : BitVec 4) (w : Lane) (q' : BitVec 5) : (k.setQ r w).getX q' = k.getX q' := rfl
@[simp] theorem Core.getK_setQ (k : Core) (r : BitVec 4) (w : Lane) (q' : BitVec 3) : (k.setQ r w).getK q' = k.getK q' := rfl
@[simp] theorem Core.getV_setQ (k : Core) (r : BitVec 4) (w : Lane) (q' : BitVec 5) : (k.setQ r w).getV q' = k.getV q' := rfl
@[simp] theorem Core.getP_setQ (k : Core) (r : BitVec 4) (w : Lane) (q' : BitVec 4) : (k.setQ r w).getP q' = k.getP q' := rfl
@[simp] theorem Core.getTile_setQ (k : Core) (r : BitVec 4) (w : Lane) (q' : BitVec 3) : (k.setQ r w).getTile q' = k.getTile q' := rfl
@[simp] theorem Core.strand_setQ (k : Core) (r : BitVec 4) (w : Lane) (q' : Strand) : (k.setQ r w).strand q' = k.strand q' := rfl
@[simp] theorem Core.tokens_setQ (k : Core) (r : BitVec 4) (w : Lane) (q' : Nat) : (k.setQ r w).tokens q' = k.tokens q' := rfl
@[simp] theorem Core.getH_setQ (k : Core) (r : BitVec 4) (w : Lane) (q' : BitVec 2) : (k.setQ r w).getH q' = k.getH q' := rfl
@[simp] theorem Core.getPal_setQ (k : Core) (r : BitVec 4) (w : Lane) (q' : Nat) : (k.setQ r w).getPal q' = k.getPal q' := rfl
@[simp] theorem Core.windowOf_setQ (k : Core) (r : BitVec 4) (w : Lane) (q' : Nat) : (k.setQ r w).windowOf q' = k.windowOf q' := rfl
@[simp] theorem Core.getX_setTile (k : Core) (t : BitVec 3) (v : Tile) (q' : BitVec 5) : (k.setTile t v).getX q' = k.getX q' := rfl
@[simp] theorem Core.getK_setTile (k : Core) (t : BitVec 3) (v : Tile) (q' : BitVec 3) : (k.setTile t v).getK q' = k.getK q' := rfl
@[simp] theorem Core.getV_setTile (k : Core) (t : BitVec 3) (v : Tile) (q' : BitVec 5) : (k.setTile t v).getV q' = k.getV q' := rfl
@[simp] theorem Core.getP_setTile (k : Core) (t : BitVec 3) (v : Tile) (q' : BitVec 4) : (k.setTile t v).getP q' = k.getP q' := rfl
@[simp] theorem Core.getQ_setTile (k : Core) (t : BitVec 3) (v : Tile) (q' : BitVec 4) : (k.setTile t v).getQ q' = k.getQ q' := rfl
@[simp] theorem Core.strand_setTile (k : Core) (t : BitVec 3) (v : Tile) (q' : Strand) : (k.setTile t v).strand q' = k.strand q' := rfl
@[simp] theorem Core.tokens_setTile (k : Core) (t : BitVec 3) (v : Tile) (q' : Nat) : (k.setTile t v).tokens q' = k.tokens q' := rfl
@[simp] theorem Core.getH_setTile (k : Core) (t : BitVec 3) (v : Tile) (q' : BitVec 2) : (k.setTile t v).getH q' = k.getH q' := rfl
@[simp] theorem Core.getPal_setTile (k : Core) (t : BitVec 3) (v : Tile) (q' : Nat) : (k.setTile t v).getPal q' = k.getPal q' := rfl
@[simp] theorem Core.windowOf_setTile (k : Core) (t : BitVec 3) (v : Tile) (q' : Nat) : (k.setTile t v).windowOf q' = k.windowOf q' := rfl
@[simp] theorem Core.getX_setStrand (k : Core) (st : Strand) (v : StrandSt) (q' : BitVec 5) : (k.setStrand st v).getX q' = k.getX q' := rfl
@[simp] theorem Core.getK_setStrand (k : Core) (st : Strand) (v : StrandSt) (q' : BitVec 3) : (k.setStrand st v).getK q' = k.getK q' := rfl
@[simp] theorem Core.getV_setStrand (k : Core) (st : Strand) (v : StrandSt) (q' : BitVec 5) : (k.setStrand st v).getV q' = k.getV q' := rfl
@[simp] theorem Core.getP_setStrand (k : Core) (st : Strand) (v : StrandSt) (q' : BitVec 4) : (k.setStrand st v).getP q' = k.getP q' := rfl
@[simp] theorem Core.getQ_setStrand (k : Core) (st : Strand) (v : StrandSt) (q' : BitVec 4) : (k.setStrand st v).getQ q' = k.getQ q' := rfl
@[simp] theorem Core.getTile_setStrand (k : Core) (st : Strand) (v : StrandSt) (q' : BitVec 3) : (k.setStrand st v).getTile q' = k.getTile q' := rfl
@[simp] theorem Core.tokens_setStrand (k : Core) (st : Strand) (v : StrandSt) (q' : Nat) : (k.setStrand st v).tokens q' = k.tokens q' := rfl
@[simp] theorem Core.getH_setStrand (k : Core) (st : Strand) (v : StrandSt) (q' : BitVec 2) : (k.setStrand st v).getH q' = k.getH q' := rfl
@[simp] theorem Core.getPal_setStrand (k : Core) (st : Strand) (v : StrandSt) (q' : Nat) : (k.setStrand st v).getPal q' = k.getPal q' := rfl
@[simp] theorem Core.windowOf_setStrand (k : Core) (st : Strand) (v : StrandSt) (q' : Nat) : (k.setStrand st v).windowOf q' = k.windowOf q' := rfl
@[simp] theorem Core.getX_updStrand (k : Core) (st : Strand) (f : StrandSt → StrandSt) (q' : BitVec 5) : (k.updStrand st f).getX q' = k.getX q' := rfl
@[simp] theorem Core.getK_updStrand (k : Core) (st : Strand) (f : StrandSt → StrandSt) (q' : BitVec 3) : (k.updStrand st f).getK q' = k.getK q' := rfl
@[simp] theorem Core.getV_updStrand (k : Core) (st : Strand) (f : StrandSt → StrandSt) (q' : BitVec 5) : (k.updStrand st f).getV q' = k.getV q' := rfl
@[simp] theorem Core.getP_updStrand (k : Core) (st : Strand) (f : StrandSt → StrandSt) (q' : BitVec 4) : (k.updStrand st f).getP q' = k.getP q' := rfl
@[simp] theorem Core.getQ_updStrand (k : Core) (st : Strand) (f : StrandSt → StrandSt) (q' : BitVec 4) : (k.updStrand st f).getQ q' = k.getQ q' := rfl
@[simp] theorem Core.getTile_updStrand (k : Core) (st : Strand) (f : StrandSt → StrandSt) (q' : BitVec 3) : (k.updStrand st f).getTile q' = k.getTile q' := rfl
@[simp] theorem Core.tokens_updStrand (k : Core) (st : Strand) (f : StrandSt → StrandSt) (q' : Nat) : (k.updStrand st f).tokens q' = k.tokens q' := rfl
@[simp] theorem Core.getH_updStrand (k : Core) (st : Strand) (f : StrandSt → StrandSt) (q' : BitVec 2) : (k.updStrand st f).getH q' = k.getH q' := rfl
@[simp] theorem Core.getPal_updStrand (k : Core) (st : Strand) (f : StrandSt → StrandSt) (q' : Nat) : (k.updStrand st f).getPal q' = k.getPal q' := rfl
@[simp] theorem Core.windowOf_updStrand (k : Core) (st : Strand) (f : StrandSt → StrandSt) (q' : Nat) : (k.updStrand st f).windowOf q' = k.windowOf q' := rfl
@[simp] theorem Core.getX_setTokens (k : Core) (n c : Nat) (q' : BitVec 5) : (k.setTokens n c).getX q' = k.getX q' := rfl
@[simp] theorem Core.getK_setTokens (k : Core) (n c : Nat) (q' : BitVec 3) : (k.setTokens n c).getK q' = k.getK q' := rfl
@[simp] theorem Core.getV_setTokens (k : Core) (n c : Nat) (q' : BitVec 5) : (k.setTokens n c).getV q' = k.getV q' := rfl
@[simp] theorem Core.getP_setTokens (k : Core) (n c : Nat) (q' : BitVec 4) : (k.setTokens n c).getP q' = k.getP q' := rfl
@[simp] theorem Core.getQ_setTokens (k : Core) (n c : Nat) (q' : BitVec 4) : (k.setTokens n c).getQ q' = k.getQ q' := rfl
@[simp] theorem Core.getTile_setTokens (k : Core) (n c : Nat) (q' : BitVec 3) : (k.setTokens n c).getTile q' = k.getTile q' := rfl
@[simp] theorem Core.strand_setTokens (k : Core) (n c : Nat) (q' : Strand) : (k.setTokens n c).strand q' = k.strand q' := rfl
@[simp] theorem Core.getH_setTokens (k : Core) (n c : Nat) (q' : BitVec 2) : (k.setTokens n c).getH q' = k.getH q' := rfl
@[simp] theorem Core.getPal_setTokens (k : Core) (n c : Nat) (q' : Nat) : (k.setTokens n c).getPal q' = k.getPal q' := rfl
@[simp] theorem Core.windowOf_setTokens (k : Core) (n c : Nat) (q' : Nat) : (k.setTokens n c).windowOf q' = k.windowOf q' := rfl
@[simp] theorem Core.getX_popFrom (k : Core) (n : Nat) (q' : BitVec 5) : (k.popFrom n).getX q' = k.getX q' := rfl
@[simp] theorem Core.getK_popFrom (k : Core) (n : Nat) (q' : BitVec 3) : (k.popFrom n).getK q' = k.getK q' := rfl
@[simp] theorem Core.getV_popFrom (k : Core) (n : Nat) (q' : BitVec 5) : (k.popFrom n).getV q' = k.getV q' := rfl
@[simp] theorem Core.getP_popFrom (k : Core) (n : Nat) (q' : BitVec 4) : (k.popFrom n).getP q' = k.getP q' := rfl
@[simp] theorem Core.getQ_popFrom (k : Core) (n : Nat) (q' : BitVec 4) : (k.popFrom n).getQ q' = k.getQ q' := rfl
@[simp] theorem Core.getTile_popFrom (k : Core) (n : Nat) (q' : BitVec 3) : (k.popFrom n).getTile q' = k.getTile q' := rfl
@[simp] theorem Core.strand_popFrom (k : Core) (n : Nat) (q' : Strand) : (k.popFrom n).strand q' = k.strand q' := rfl
@[simp] theorem Core.getH_popFrom (k : Core) (n : Nat) (q' : BitVec 2) : (k.popFrom n).getH q' = k.getH q' := rfl
@[simp] theorem Core.getPal_popFrom (k : Core) (n : Nat) (q' : Nat) : (k.popFrom n).getPal q' = k.getPal q' := rfl
@[simp] theorem Core.windowOf_popFrom (k : Core) (n : Nat) (q' : Nat) : (k.popFrom n).windowOf q' = k.windowOf q' := rfl
@[simp] theorem Core.getX_pushInto (k : Core) (n : Nat) (q' : BitVec 5) : (k.pushInto n).getX q' = k.getX q' := rfl
@[simp] theorem Core.getK_pushInto (k : Core) (n : Nat) (q' : BitVec 3) : (k.pushInto n).getK q' = k.getK q' := rfl
@[simp] theorem Core.getV_pushInto (k : Core) (n : Nat) (q' : BitVec 5) : (k.pushInto n).getV q' = k.getV q' := rfl
@[simp] theorem Core.getP_pushInto (k : Core) (n : Nat) (q' : BitVec 4) : (k.pushInto n).getP q' = k.getP q' := rfl
@[simp] theorem Core.getQ_pushInto (k : Core) (n : Nat) (q' : BitVec 4) : (k.pushInto n).getQ q' = k.getQ q' := rfl
@[simp] theorem Core.getTile_pushInto (k : Core) (n : Nat) (q' : BitVec 3) : (k.pushInto n).getTile q' = k.getTile q' := rfl
@[simp] theorem Core.strand_pushInto (k : Core) (n : Nat) (q' : Strand) : (k.pushInto n).strand q' = k.strand q' := rfl
@[simp] theorem Core.getH_pushInto (k : Core) (n : Nat) (q' : BitVec 2) : (k.pushInto n).getH q' = k.getH q' := rfl
@[simp] theorem Core.getPal_pushInto (k : Core) (n : Nat) (q' : Nat) : (k.pushInto n).getPal q' = k.getPal q' := rfl
@[simp] theorem Core.windowOf_pushInto (k : Core) (n : Nat) (q' : Nat) : (k.pushInto n).windowOf q' = k.windowOf q' := rfl
@[simp] theorem Core.getX_putBack (k : Core) (n : Nat) (q' : BitVec 5) : (k.putBack n).getX q' = k.getX q' := rfl
@[simp] theorem Core.getK_putBack (k : Core) (n : Nat) (q' : BitVec 3) : (k.putBack n).getK q' = k.getK q' := rfl
@[simp] theorem Core.getV_putBack (k : Core) (n : Nat) (q' : BitVec 5) : (k.putBack n).getV q' = k.getV q' := rfl
@[simp] theorem Core.getP_putBack (k : Core) (n : Nat) (q' : BitVec 4) : (k.putBack n).getP q' = k.getP q' := rfl
@[simp] theorem Core.getQ_putBack (k : Core) (n : Nat) (q' : BitVec 4) : (k.putBack n).getQ q' = k.getQ q' := rfl
@[simp] theorem Core.getTile_putBack (k : Core) (n : Nat) (q' : BitVec 3) : (k.putBack n).getTile q' = k.getTile q' := rfl
@[simp] theorem Core.strand_putBack (k : Core) (n : Nat) (q' : Strand) : (k.putBack n).strand q' = k.strand q' := rfl
@[simp] theorem Core.getH_putBack (k : Core) (n : Nat) (q' : BitVec 2) : (k.putBack n).getH q' = k.getH q' := rfl
@[simp] theorem Core.getPal_putBack (k : Core) (n : Nat) (q' : Nat) : (k.putBack n).getPal q' = k.getPal q' := rfl
@[simp] theorem Core.windowOf_putBack (k : Core) (n : Nat) (q' : Nat) : (k.putBack n).windowOf q' = k.windowOf q' := rfl
@[simp] theorem Core.getX_writeNext (k : Core) (cr : BitVec 12) (w : Word) (q' : BitVec 5) : (k.writeNext cr w).getX q' = k.getX q' := rfl
@[simp] theorem Core.getK_writeNext (k : Core) (cr : BitVec 12) (w : Word) (q' : BitVec 3) : (k.writeNext cr w).getK q' = k.getK q' := rfl
@[simp] theorem Core.getV_writeNext (k : Core) (cr : BitVec 12) (w : Word) (q' : BitVec 5) : (k.writeNext cr w).getV q' = k.getV q' := rfl
@[simp] theorem Core.getP_writeNext (k : Core) (cr : BitVec 12) (w : Word) (q' : BitVec 4) : (k.writeNext cr w).getP q' = k.getP q' := rfl
@[simp] theorem Core.getQ_writeNext (k : Core) (cr : BitVec 12) (w : Word) (q' : BitVec 4) : (k.writeNext cr w).getQ q' = k.getQ q' := rfl
@[simp] theorem Core.getTile_writeNext (k : Core) (cr : BitVec 12) (w : Word) (q' : BitVec 3) : (k.writeNext cr w).getTile q' = k.getTile q' := rfl
@[simp] theorem Core.strand_writeNext (k : Core) (cr : BitVec 12) (w : Word) (q' : Strand) : (k.writeNext cr w).strand q' = k.strand q' := rfl
@[simp] theorem Core.tokens_writeNext (k : Core) (cr : BitVec 12) (w : Word) (q' : Nat) : (k.writeNext cr w).tokens q' = k.tokens q' := rfl
@[simp] theorem Core.getH_writeNext (k : Core) (cr : BitVec 12) (w : Word) (q' : BitVec 2) : (k.writeNext cr w).getH q' = k.getH q' := rfl
@[simp] theorem Core.getPal_writeNext (k : Core) (cr : BitVec 12) (w : Word) (q' : Nat) : (k.writeNext cr w).getPal q' = k.getPal q' := rfl
@[simp] theorem Core.windowOf_writeNext (k : Core) (cr : BitVec 12) (w : Word) (q' : Nat) : (k.writeNext cr w).windowOf q' = k.windowOf q' := rfl
@[simp] theorem Core.getX_clearLatches (k : Core) (q' : BitVec 5) : k.clearLatches.getX q' = k.getX q' := rfl
@[simp] theorem Core.getK_clearLatches (k : Core) (q' : BitVec 3) : k.clearLatches.getK q' = k.getK q' := rfl
@[simp] theorem Core.getV_clearLatches (k : Core) (q' : BitVec 5) : k.clearLatches.getV q' = k.getV q' := rfl
@[simp] theorem Core.getP_clearLatches (k : Core) (q' : BitVec 4) : k.clearLatches.getP q' = k.getP q' := rfl
@[simp] theorem Core.getQ_clearLatches (k : Core) (q' : BitVec 4) : k.clearLatches.getQ q' = k.getQ q' := rfl
@[simp] theorem Core.getTile_clearLatches (k : Core) (q' : BitVec 3) : k.clearLatches.getTile q' = k.getTile q' := rfl
@[simp] theorem Core.strand_clearLatches (k : Core) (q' : Strand) : k.clearLatches.strand q' = k.strand q' := rfl
@[simp] theorem Core.tokens_clearLatches (k : Core) (q' : Nat) : k.clearLatches.tokens q' = k.tokens q' := rfl
@[simp] theorem Core.getH_clearLatches (k : Core) (q' : BitVec 2) : k.clearLatches.getH q' = k.getH q' := rfl
@[simp] theorem Core.getPal_clearLatches (k : Core) (q' : Nat) : k.clearLatches.getPal q' = k.getPal q' := rfl
@[simp] theorem Core.windowOf_clearLatches (k : Core) (q' : Nat) : k.clearLatches.windowOf q' = k.windowOf q' := rfl
@[simp] theorem Core.getX_setPoison (k : Core) (sp : BitVec 2) (a : Nat) (q' : BitVec 5) : (k.setPoison sp a).getX q' = k.getX q' := rfl
@[simp] theorem Core.getK_setPoison (k : Core) (sp : BitVec 2) (a : Nat) (q' : BitVec 3) : (k.setPoison sp a).getK q' = k.getK q' := rfl
@[simp] theorem Core.getV_setPoison (k : Core) (sp : BitVec 2) (a : Nat) (q' : BitVec 5) : (k.setPoison sp a).getV q' = k.getV q' := rfl
@[simp] theorem Core.getP_setPoison (k : Core) (sp : BitVec 2) (a : Nat) (q' : BitVec 4) : (k.setPoison sp a).getP q' = k.getP q' := rfl
@[simp] theorem Core.getQ_setPoison (k : Core) (sp : BitVec 2) (a : Nat) (q' : BitVec 4) : (k.setPoison sp a).getQ q' = k.getQ q' := rfl
@[simp] theorem Core.getTile_setPoison (k : Core) (sp : BitVec 2) (a : Nat) (q' : BitVec 3) : (k.setPoison sp a).getTile q' = k.getTile q' := rfl
@[simp] theorem Core.strand_setPoison (k : Core) (sp : BitVec 2) (a : Nat) (q' : Strand) : (k.setPoison sp a).strand q' = k.strand q' := rfl
@[simp] theorem Core.tokens_setPoison (k : Core) (sp : BitVec 2) (a : Nat) (q' : Nat) : (k.setPoison sp a).tokens q' = k.tokens q' := rfl
@[simp] theorem Core.getH_setPoison (k : Core) (sp : BitVec 2) (a : Nat) (q' : BitVec 2) : (k.setPoison sp a).getH q' = k.getH q' := rfl
@[simp] theorem Core.getPal_setPoison (k : Core) (sp : BitVec 2) (a : Nat) (q' : Nat) : (k.setPoison sp a).getPal q' = k.getPal q' := rfl
@[simp] theorem Core.windowOf_setPoison (k : Core) (sp : BitVec 2) (a : Nat) (q' : Nat) : (k.setPoison sp a).windowOf q' = k.windowOf q' := rfl

@[simp] theorem StrandSt.pc_advance (t : StrandSt) (n : Word) : (t.advance n).pc = n := rfl
@[simp] theorem StrandSt.cond_advance (t : StrandSt) (n : Word) : (t.advance n).cond = .ready := rfl
@[simp] theorem StrandSt.popped_advance (t : StrandSt) (n : Word) : (t.advance n).popped = none := rfl
@[simp] theorem StrandSt.frozen_advance (t : StrandSt) (n : Word) : (t.advance n).frozen = t.frozen := rfl
@[simp] theorem StrandSt.pending_advance (t : StrandSt) (n : Word) : (t.advance n).pending = t.pending := rfl
@[simp] theorem StrandSt.skipBrk_advance (t : StrandSt) (n : Word) : (t.advance n).skipBrk = none := rfl

end Sys2Proof.Machine
end

