-- ==== Sys2Proof/Laws/Frame.lean ====
section
/-! SUPPORT. What the shared operations of an instruction leave alone: counts, retirement, stalls, pops. -/

namespace Sys2Proof.Machine
namespace State

theorem OnlyCore.refl (s : State) : s.OnlyCore s := ⟨rfl, fun _ _ => rfl, fun _ => rfl⟩

theorem OnlyCore.core {s t : State} (h : s.OnlyCore t) : t.core = s.core := by rw [h.rest]

theorem OnlyCore.trans {s t u : State} (h : s.OnlyCore t) (g : t.OnlyCore u) : s.OnlyCore u where
  rest := by have := g.rest; rw [h.rest] at this; exact this
  others c hc := (g.others c (by rw [h.core]; exact hc)).trans (h.others c hc)
  parts p := by have := g.parts p; rw [h.parts p] at this; exact this

theorem OnlyCore.updMe (s : State) (f : Core → Core) : s.OnlyCore (s.updMe f) :=
  ⟨rfl, fun _ hc => coreAt_updMe_other _ _ hc.symm, fun _ => rfl⟩

theorem OnlyCore.setTel (s : State) (p : Nat) (x : Telemetry) : s.OnlyCore (s.setPart p { s.part p with tel := x }) where
  rest := rfl
  others _ _ := rfl
  parts q := by
    by_cases h : p = q
    · subst h; simp
    · simp [h]

theorem OnlyCore.snapTrigger (s : State) (p a c : Nat) : s.OnlyCore (s.snapTrigger p a c) := by
  unfold State.snapTrigger
  dsimp only
  split <;> exact OnlyCore.setTel s p _

/-- Event counts change nothing but the partition's telemetry (R463, R464). -/
theorem OnlyCore.countN (s : State) (p ev n : Nat) : s.OnlyCore (s.countN p ev n) := by
  have h : s.OnlyCore (if (s.part p).tel.evsel = [] then s else s.setPart p { s.part p with tel := { (s.part p).tel with
      pmc := (s.part p).tel.evsel.foldl (fun t e => if e.2 = ev then t.set e.1 ((t.get e.1 0 + n) % 2 ^ 64) else t) (s.part p).tel.pmc } }) := by
    split
    · exact OnlyCore.refl s
    · exact OnlyCore.setTel s p _
  unfold State.countN
  split
  · exact OnlyCore.refl s
  · dsimp only
    split
    · exact h.trans ((OnlyCore.setTel _ p _).trans (OnlyCore.snapTrigger _ _ _ _))
    · exact h

/-- A snapshot trigger changes the partitions alone. -/
theorem snapTrigger_parts (s : State) (p a c : Nat) : s.snapTrigger p a c = { s with parts := (s.snapTrigger p a c).parts } := by
  unfold State.snapTrigger
  dsimp only
  split <;> rfl

/-- Event counts change the partitions alone. -/
theorem countN_parts (s : State) (p ev n : Nat) : s.countN p ev n = { s with parts := (s.countN p ev n).parts } := by
  unfold State.countN
  split
  · rfl
  · dsimp only
    split
    · rw [snapTrigger_parts]
      split <;> rfl
    · split <;> rfl

theorem OnlyCore.count (s : State) (p ev : Nat) : s.OnlyCore (s.count p ev) := OnlyCore.countN s p ev 1

/-- A snapshot trigger leaves the issuing core alone. -/
theorem me_snapTrigger (s : State) (p a c : Nat) : (s.snapTrigger p a c).me = s.me := by rw [snapTrigger_parts]; rfl

@[simp] theorem me_countN (s : State) (p ev n : Nat) : (s.countN p ev n).me = s.me := by rw [countN_parts]; rfl

@[simp] theorem me_count (s : State) (p ev : Nat) : (s.count p ev).me = s.me := me_countN s p ev 1

theorem OnlyCore.retire (s : State) (st : Strand) (t : Tok) (n : Word) : s.OnlyCore (s.retire st t n) := by
  unfold State.retire
  exact (OnlyCore.count _ _ _).trans (OnlyCore.updMe _ _)

theorem OnlyCore.retireNext (s : State) (st : Strand) (t : Tok) : s.OnlyCore (s.retireNext st t) :=
  OnlyCore.retire s st t _

theorem OnlyCore.stall (s : State) (st : Strand) (c : Cond) : s.OnlyCore (s.stall st c) := OnlyCore.updMe _ _

theorem OnlyCore.charge (s : State) (c : Nat) : s.OnlyCore (s.charge c) := by
  unfold State.charge
  split
  · exact OnlyCore.refl s
  · exact OnlyCore.updMe _ _

theorem OnlyCore.bank (s : State) (l : List (BitVec 5)) : s.OnlyCore (s.bank l) := by
  unfold State.bank
  split
  · exact OnlyCore.count _ _ _
  · exact OnlyCore.refl s

theorem OnlyCore.pop {s s1 : State} {st : Strand} {t : Tok} (h : s.popTok st t = some s1) : s.OnlyCore s1 := by
  unfold State.popTok at h
  split at h
  · cases h; exact OnlyCore.refl s
  · split at h
    · cases h; exact OnlyCore.refl s
    · dsimp only at h
      split at h
      · cases h; exact OnlyCore.updMe _ _
      · cases h

/-- Counting in a fold keeps whatever each count keeps. -/
theorem foldl_keeps {α : Type} (R : State → State → Prop) (hr : ∀ s, R s s) (ht : ∀ {a b c}, R a b → R b c → R a c)
    (f : State → α → State) (hf : ∀ a x, R a (f a x)) (l : List α) (s : State) : R s (l.foldl f s) := by
  induction l generalizing s with
  | nil => exact hr s
  | cons x t ih => exact ht (hf s x) (ih (f s x))

/-- What the passing of cycles keeps: everything but the partitions' telemetry, every core included. -/
structure OnlyTel (s t : State) : Prop where
  rest : t = { s with parts := t.parts }
  parts : ∀ p, t.part p = { s.part p with tel := (t.part p).tel }

theorem OnlyTel.refl (s : State) : OnlyTel s s := ⟨rfl, fun _ => rfl⟩

theorem OnlyTel.trans {a b c : State} (h : OnlyTel a b) (g : OnlyTel b c) : OnlyTel a c where
  rest := by have := g.rest; rw [h.rest] at this; exact this
  parts p := by have := g.parts p; rw [h.parts p] at this; exact this

theorem OnlyTel.onlyCore {s t : State} (h : OnlyTel s t) : s.OnlyCore t where
  rest := by rw [h.rest]
  others c _ := by rw [h.rest]; rfl
  parts := h.parts

theorem OnlyTel.countN (s : State) (p ev n : Nat) : OnlyTel s (s.countN p ev n) :=
  ⟨countN_parts s p ev n, (OnlyCore.countN s p ev n).parts⟩

theorem OnlyTel.countCycle (s : State) (p cycle i : Nat) : OnlyTel s (s.countCycle p cycle i) := by
  unfold State.countCycle
  dsimp only
  generalize (s.busyCores p).flatMap _ = codes
  exact (OnlyTel.countN s p 1 _).trans
    (foldl_keeps OnlyTel OnlyTel.refl OnlyTel.trans _ (fun a x => OnlyTel.countN a p _ _) _ _)

theorem OnlyTel.countCycles (s : State) (p n : Nat) : OnlyTel s (s.countCycles p n) :=
  foldl_keeps OnlyTel OnlyTel.refl OnlyTel.trans _ (fun a i => OnlyTel.countCycle a p _ i) _ _

/-- Cycles that pass move time and the event counts, and nothing else (R5, R463). -/
theorem OnlyTel.tick (s : State) (n : Nat) : OnlyTel { s with cycle := s.cycle + n } (s.tick n) := by
  unfold State.tick
  dsimp only
  split
  · exact OnlyTel.refl _
  · refine foldl_keeps OnlyTel OnlyTel.refl OnlyTel.trans _ (fun a e => ?_) _ _
    split
    · exact OnlyTel.refl a
    · exact OnlyTel.countCycles a _ _

theorem pass_zero (s : State) : s.pass 0 = s := rfl

/-- When cycles pass, every core's cycle ends (R55, R67), time moves, and events are counted; nothing else changes. -/
theorem pass_rest (s : State) {n : Nat} (h : n ≠ 0) :
    s.pass n = { s with cycle := s.cycle + n, cores := s.cores.mapVals (fun _ k => k.endCycle), parts := (s.pass n).parts,
                        slot := .fresh } := by
  unfold State.pass
  rw [if_neg h]
  dsimp only
  rw [(OnlyTel.tick s n).rest]

theorem railsOff_pass (s : State) (n : Nat) : (s.pass n).railsOff = s.railsOff := by
  by_cases h : n = 0
  · subst h; rfl
  · rw [pass_rest s h]

theorem mem_pass (s : State) (n : Nat) : (s.pass n).mem = s.mem := by
  by_cases h : n = 0
  · subst h; rfl
  · rw [pass_rest s h]

/-- What a pop leaves of the issuing core (R128). -/
theorem me_pop {s s1 : State} {st : Strand} {t : Tok} (h : s.popTok st t = some s1) :
    s1.me = { s.me with tk := s1.me.tk, strands := s1.me.strands, now := { s.me.now with popped := s1.me.now.popped } } ∧
      (∀ x, x ≠ st → s1.me.strand x = s.me.strand x) ∧ (s1.me.strand st).pc = (s.me.strand st).pc ∧
      (s1.me.strand st).pending = (s.me.strand st).pending ∧ (s1.me.strand st).frozen = (s.me.strand st).frozen := by
  unfold State.popTok at h
  split at h
  · cases h; exact ⟨rfl, fun _ _ => rfl, rfl, rfl, rfl⟩
  · split at h
    · cases h; exact ⟨rfl, fun _ _ => rfl, rfl, rfl, rfl⟩
    · dsimp only at h
      split at h
      case isFalse => cases h
      · cases h
        refine ⟨by simp [Core.updStrand, Core.setStrand, Core.popFrom, Core.setTokens], fun x hx => ?_, ?_, ?_, ?_⟩
        · simp [Core.strand_updStrand_other _ _ hx.symm]
        all_goals simp

end State

/-- What a push leaves of a core: its token counts, what its cycle has seen of pushes, and its own strand's condition alone
can differ (R66, R274). -/
theorem Core.push_eq (k : Core) (st : Strand) (code : BitVec 2) (pc : Word) (cyc : Nat) :
    k.push st code pc cyc = { k with
      tk := (k.push st code pc cyc).tk, strands := (k.push st code pc cyc).strands,
      now := { k.now with pushed := (k.push st code pc cyc).now.pushed } } := by
  unfold Core.push
  split
  · rfl
  · dsimp only
    split <;> rfl

theorem Core.strand_push_other (k : Core) {st x : Strand} (code : BitVec 2) (pc : Word) (cyc : Nat) (h : st ≠ x) :
    (k.push st code pc cyc).strand x = k.strand x := by
  unfold Core.push
  split
  · rfl
  · dsimp only
    split
    · rfl
    · exact Core.strand_updStrand_other _ _ h

theorem Core.strand_push_pc (k : Core) (st : Strand) (code : BitVec 2) (pc : Word) (cyc : Nat) :
    ((k.push st code pc cyc).strand st).pc = (k.strand st).pc := by
  unfold Core.push
  split
  · rfl
  · dsimp only
    split
    · rfl
    · simp

/-- The issuing core after a retirement (R128 step 5). -/
theorem State.me_retire (s : State) (st : Strand) (t : Tok) (n : Word) :
    (s.retire st t n).me =
      (s.me.updStrand st (fun x => { x.advance n with since := s.cycle })).push st t.push (s.me.strand st).pc s.cycle := by
  unfold State.retire
  simp only [State.me_updMe, State.me_count]

theorem State.me_retire_eq (s : State) (st : Strand) (t : Tok) (n : Word) :
    (s.retire st t n).me = { s.me with
      tk := (s.retire st t n).me.tk, strands := (s.retire st t n).me.strands,
      now := { s.me.now with pushed := (s.retire st t n).me.now.pushed } } := by
  rw [State.me_retire, Core.push_eq]
  rfl

theorem State.me_retire_pc (s : State) (st : Strand) (t : Tok) (n : Word) : ((s.retire st t n).me.strand st).pc = n := by
  rw [State.me_retire, Core.strand_push_pc]
  simp

theorem State.me_retire_other (s : State) {st x : Strand} (t : Tok) (n : Word) (h : st ≠ x) :
    (s.retire st t n).me.strand x = s.me.strand x := by
  rw [State.me_retire, Core.strand_push_other _ _ _ _ h]
  exact Core.strand_updStrand_other _ _ h

/-- An instruction whose decode checks, tokens and issue checks pass takes its effect (R128). -/
theorem issue_done {st : Strand} {i : Instr} {t : Tok} {dec chk : State → Check} {eff : State → State} {s s1 : State}
    (h : s.Issues st t s1) (hd : dec s = .pass) (hc : chk s1 = .pass) : issue st i t dec chk eff s = eff s1 := by
  unfold issue
  rw [if_neg (fun hs => by
    have := h.mode hs.1 hs.2.1
    rcases hs.2.2 with h1 | h1
    · exact h1 this.1
    · exact h1 this.2)]
  simp only [State.checked, hd, h.unbroken, h.popped, hc]

/-- The first failing issue check traps with its cause and value (R128 step 3). -/
theorem issue_trap {st : Strand} {i : Instr} {t : Tok} {dec chk : State → Check} {eff : State → State} {s s1 : State}
    {c : BitVec 8} {v : Word} (h : s.Issues st t s1) (hd : dec s = .pass) (hc : chk s1 = .trap c v) :
    issue st i t dec chk eff s = s1.trapHere st c v := by
  unfold issue
  rw [if_neg (fun hs => by
    have := h.mode hs.1 hs.2.1
    rcases hs.2.2 with h1 | h1
    · exact h1 this.1
    · exact h1 this.2)]
  simp only [State.checked, hd, h.unbroken, h.popped, hc]

/-- A pop of an empty FIFO stalls the strand (R128 step 2). -/
theorem issue_empty {st : Strand} {i : Instr} {t : Tok} {dec chk : State → Check} {eff : State → State} {s : State}
    (hm : st = .S → s.me.sup = true → t.pop = 0 ∧ t.push = 0) (hb : s.me.fetchBrk st = none) (hd : dec s = .pass)
    (hp : s.popTok st t = none) : issue st i t dec chk eff s = s.stall st (.popStall (popFifo st t.pop)) := by
  unfold issue
  rw [if_neg (fun hs => by
    have := hm hs.1 hs.2.1
    rcases hs.2.2 with h1 | h1
    · exact h1 this.1
    · exact h1 this.2)]
  simp only [State.checked, hd, hb, hp]

end Sys2Proof.Machine
end

