-- ==== Sys2Proof/Laws/Memory.lean ====
section
/-! SUPPORT. Memory: a read after a write, and the canonical form that every memory operation keeps. -/

namespace Sys2Proof.Machine
namespace Memory

/-- Addresses strictly rise and no byte listed is zero, as a proposition over the list. -/
theorem wf_iff (m : Memory) :
    m.wf = true ↔ List.Pairwise (fun (p q : Host.Cell) => p.1 < q.1) m ∧ ∀ c ∈ m, c.2 ≠ 0 := by
  match m with
  | [] => simp [wf]
  | (a, b) :: [] => simp [wf]
  | (a, b) :: (c, d) :: t =>
    have ih := wf_iff ((c, d) :: t)
    simp only [wf, Bool.and_eq_true, decide_eq_true_eq, bne_iff_ne, ih]
    constructor
    · rintro ⟨⟨hac, hb⟩, hp, hz⟩
      refine ⟨List.pairwise_cons.2 ⟨?_, hp⟩, ?_⟩
      · intro e he
        rcases List.mem_cons.1 he with rfl | he
        · exact hac
        · exact lt_trans hac ((List.pairwise_cons.1 hp).1 e he)
      · intro e he
        rcases List.mem_cons.1 he with rfl | he
        · exact hb
        · exact hz e he
    · rintro ⟨hp, hz⟩
      exact ⟨⟨(List.pairwise_cons.1 hp).1 _ List.mem_cons_self, hz _ List.mem_cons_self⟩,
        (List.pairwise_cons.1 hp).2, fun e he => hz e (List.mem_cons_of_mem _ he)⟩

theorem wf_nil : Memory.wf [] = true := rfl

/-- Keeping some cells keeps the form. -/
theorem wf_filter {m : Memory} (f : Host.Cell → Bool) (h : m.wf = true) : Memory.wf (List.filter f m) = true := by
  obtain ⟨hp, hz⟩ := (wf_iff m).1 h
  exact (wf_iff _).2 ⟨hp.filter f, fun c hc => hz c (List.mem_filter.1 hc).1⟩

theorem mem_insert {m : Memory} {k : Nat} {b : Byte} {c : Host.Cell} :
    c ∈ Memory.insert m k b ↔ c = (k, b) ∨ c ∈ m := by
  induction m with
  | nil => simp [insert]
  | cons e t ih =>
    obtain ⟨a, x⟩ := e
    simp only [insert]
    split
    · simp
    · simp only [List.mem_cons, ih]; tauto

theorem wf_insert {m : Memory} {k : Nat} {b : Byte} (h : m.wf = true) (hk : ∀ c ∈ m, c.1 ≠ k) (hb : b ≠ 0) :
    Memory.wf (Memory.insert m k b) = true := by
  obtain ⟨hp, hz⟩ := (wf_iff m).1 h
  refine (wf_iff _).2 ⟨?_, fun c hc => ?_⟩
  · clear hz h
    induction m with
    | nil => simp [insert]
    | cons e t ih =>
      obtain ⟨a, x⟩ := e
      have hp' := List.pairwise_cons.1 hp
      have ha : a ≠ k := hk (a, x) List.mem_cons_self
      simp only [insert]
      split
      · rename_i hka
        refine List.pairwise_cons.2 ⟨fun c hc => ?_, hp⟩
        rcases List.mem_cons.1 hc with rfl | hc
        · exact hka
        · exact lt_trans hka (hp'.1 c hc)
      · rename_i hka
        refine List.pairwise_cons.2 ⟨fun c hc => ?_, ih (fun c hc => hk c (List.mem_cons_of_mem _ hc)) hp'.2⟩
        rcases mem_insert.1 hc with rfl | hc
        · exact lt_of_le_of_ne (not_lt.1 hka) ha
        · exact hp'.1 c hc
  · rcases mem_insert.1 hc with rfl | hc
    · exact hb
    · exact hz c hc

/-- A write keeps the canonical form. -/
theorem wf_write {m : Memory} (k : Nat) (b : Byte) (h : m.wf = true) : (m.write k b).wf = true := by
  unfold write
  split
  · exact wf_filter _ h
  · rename_i hb
    exact wf_insert (wf_filter _ h) (fun c hc => by simpa using (List.mem_filter.1 hc).2) hb

theorem wf_writeBytes {m : Memory} (a : Nat) (bs : List Byte) (h : m.wf = true) : (m.writeBytes a bs).wf = true := by
  induction bs generalizing m a with
  | nil => exact h
  | cons b t ih => exact ih (a + 1) (wf_write a b h)

theorem wf_writeMasked {m : Memory} (a : Nat) (bs : List (Option Byte)) (h : m.wf = true) :
    (m.writeMasked a bs).wf = true := by
  induction bs generalizing m a with
  | nil => exact h
  | cons b t ih =>
    cases b with
    | none => exact ih (a + 1) h
    | some b => exact ih (a + 1) (wf_write a b h)

theorem wf_clear {m : Memory} (lo hi : Nat) (h : m.wf = true) : (m.clear lo hi).wf = true := wf_filter _ h

theorem read_filter_other (m : Memory) {k j : Nat} (h : j ≠ k) :
    Memory.read (List.filter (fun c => c.1 != k) m) j = m.read j := by
  induction m with
  | nil => rfl
  | cons e t ih =>
    obtain ⟨a, x⟩ := e
    simp only [List.filter_cons]
    split
    · simp only [read, ih]
    · rename_i hk
      have : a = k := by simpa using hk
      subst this
      simp [read, ih, h.symm]

theorem read_absent (m : Memory) {k : Nat} (h : ∀ c ∈ m, c.1 ≠ k) : m.read k = 0 := by
  induction m with
  | nil => rfl
  | cons e t ih =>
    obtain ⟨a, x⟩ := e
    simp only [read, if_neg (h (a, x) List.mem_cons_self)]
    exact ih (fun c hc => h c (List.mem_cons_of_mem _ hc))

theorem read_insert_same (m : Memory) (k : Nat) (b : Byte) (h : ∀ c ∈ m, c.1 ≠ k) : (Memory.insert m k b).read k = b := by
  induction m with
  | nil => simp [insert, read]
  | cons e t ih =>
    obtain ⟨a, x⟩ := e
    simp only [insert]
    split
    · simp [read]
    · simp only [read, if_neg (h (a, x) List.mem_cons_self)]
      exact ih (fun c hc => h c (List.mem_cons_of_mem _ hc))

theorem read_insert_other (m : Memory) {k j : Nat} (b : Byte) (h : j ≠ k) : (Memory.insert m k b).read j = m.read j := by
  induction m with
  | nil => simp [insert, read, h.symm]
  | cons e t ih =>
    obtain ⟨a, x⟩ := e
    simp only [insert]
    split
    · simp [read, h.symm]
    · simp only [read, ih]

/-- A read gives the byte written. -/
@[simp] theorem read_write_same (m : Memory) (k : Nat) (b : Byte) : (m.write k b).read k = b := by
  have hk : ∀ c ∈ List.filter (fun (c : Host.Cell) => c.1 != k) m, c.1 ≠ k := fun c hc => by simpa using (List.mem_filter.1 hc).2
  unfold write
  split
  · rename_i hb; rw [hb]; exact read_absent _ hk
  · exact read_insert_same _ _ _ hk

/-- A write leaves every other byte alone. -/
@[simp] theorem read_write_other (m : Memory) {k j : Nat} (b : Byte) (h : j ≠ k) : (m.write k b).read j = m.read j := by
  unfold write
  split
  · exact read_filter_other _ h
  · exact (read_insert_other _ _ h).trans (read_filter_other _ h)

theorem read_writeBytes_other (m : Memory) (a : Nat) (bs : List Byte) {j : Nat} (h : j < a ∨ a + bs.length ≤ j) :
    (m.writeBytes a bs).read j = m.read j := by
  induction bs generalizing m a with
  | nil => rfl
  | cons b t ih =>
    simp only [List.length_cons] at h
    rw [writeBytes, ih _ _ (by omega), read_write_other _ _ (by omega)]

theorem read_writeBytes_at (m : Memory) (a : Nat) (bs : List Byte) {i : Nat} (h : i < bs.length) :
    (m.writeBytes a bs).read (a + i) = bs[i] := by
  induction bs generalizing m a i with
  | nil => simp at h
  | cons b t ih =>
    rw [writeBytes]
    cases i with
    | zero => rw [read_writeBytes_other _ _ _ (by omega)]; simp
    | succ i =>
      have := ih (m.write a b) (a + 1) (i := i) (by simpa using h)
      simpa [Nat.add_assoc, Nat.add_comm 1 i] using this

theorem read_writeMasked_other (m : Memory) (a : Nat) (bs : List (Option Byte)) {j : Nat}
    (h : j < a ∨ a + bs.length ≤ j) : (m.writeMasked a bs).read j = m.read j := by
  induction bs generalizing m a with
  | nil => rfl
  | cons b t ih =>
    simp only [List.length_cons] at h
    cases b with
    | none => rw [writeMasked, ih _ _ (by omega)]
    | some b => rw [writeMasked, ih _ _ (by omega), read_write_other _ _ (by omega)]

theorem read_clear (m : Memory) (lo hi j : Nat) :
    (m.clear lo hi).read j = if lo ≤ j ∧ j < hi then 0 else m.read j := by
  induction m with
  | nil => simp [clear, read]
  | cons e t ih =>
    obtain ⟨a, x⟩ := e
    simp only [clear, List.filter_cons] at *
    by_cases hk : (decide (a < lo) || decide (hi ≤ a)) = true
    · rw [if_pos hk]
      simp only [read, ih]
      have : a < lo ∨ hi ≤ a := by simpa using hk
      split
      · rename_i e; subst e; rw [if_neg (by omega)]
      · rfl
    · rw [if_neg hk, ih]
      have : ¬ (a < lo ∨ hi ≤ a) := by simpa using hk
      simp only [read]
      split
      · rfl
      · rw [if_neg (by omega)]

end Memory
end Sys2Proof.Machine
end

