-- ==== Sys2Proof/Laws/PerInstr.lean ====
section
/-! SUPPORT. The round trip of the encoder and the decoder, one lemma per constructor: the word of a well-formed
instruction, read by the decoder of its stream, is the instruction, with every operand at every value its field admits. -/

namespace Sys2Proof.Laws

/-- The widths of the fields of a word, added up. -/
def width : List (Nat × Nat) → Nat
  | [] => 0
  | f :: t => f.1 + width t

/-- The number whose fields, from the most significant on, are the listed widths and values. -/
def pack : List (Nat × Nat) → Nat
  | [] => 0
  | f :: t => f.2 * 2 ^ width t + pack t

/-- Every value fits its field. -/
def Fits : List (Nat × Nat) → Prop
  | [] => True
  | f :: t => f.2 < 2 ^ f.1 ∧ Fits t

theorem pack_lt : ∀ (l : List (Nat × Nat)), Fits l → pack l < 2 ^ width l
  | [], _ => by simp [pack, width]
  | f :: t, h => by
    have ih := pack_lt t h.2
    have h1 : (f.2 + 1) * 2 ^ width t ≤ 2 ^ f.1 * 2 ^ width t := Nat.mul_le_mul_right _ h.1
    simp only [pack, width, Nat.pow_add]
    rw [Nat.add_mul] at h1
    omega

theorem pack_append : ∀ (a b : List (Nat × Nat)), pack (a ++ b) = pack a * 2 ^ width b + pack b
  | [], b => by simp [pack]
  | f :: t, b => by
    have hw : ∀ (x : List (Nat × Nat)), width (x ++ b) = width x + width b := by
      intro x
      induction x with
      | nil => simp [width]
      | cons g u ih => simp only [List.cons_append, width, ih]; omega
    simp only [List.cons_append, pack, pack_append t b, hw, Nat.pow_add, Nat.add_mul, Nat.mul_assoc, Nat.add_assoc]

/-- A field of a packed word reads as its value. -/
theorem field_pack (a : List (Nat × Nat)) (n v : Nat) (b : List (Nat × Nat)) (hv : v < 2 ^ n) (hb : Fits b) :
    fieldNat (pack (a ++ (n, v) :: b)) (width b) n = v := by
  have h := pack_lt b hb
  rw [pack_append]
  simp only [fieldNat, pack, width, Nat.pow_add]
  have e : pack a * (2 ^ n * 2 ^ width b) + (v * 2 ^ width b + pack b) = pack b + 2 ^ width b * (v + 2 ^ n * pack a) := by ring
  rw [e, Nat.add_mul_div_left _ _ (Nat.two_pow_pos _), Nat.div_eq_of_lt h, Nat.zero_add, Nat.add_mul_mod_self_left, Nat.mod_eq_of_lt hv]

theorem bits_pack (a : List (Nat × Nat)) (n : Nat) (x : BitVec n) (b : List (Nat × Nat)) (hb : Fits b) :
    bits (pack (a ++ (n, x.toNat) :: b)) (width b) n = x :=
  BitVec.eq_of_toNat_eq (by
    simpa [bits, fieldNat] using field_pack a n x.toNat b x.isLt hb)

theorem tok_pack (t : Tok) (b : List (Nat × Nat)) (hb : Fits b) (h28 : width b = 28) :
    tok (pack ((2, t.pop.toNat) :: (2, t.push.toNat) :: b)) = t := by
  have h1 := bits_pack [] 2 t.pop ((2, t.push.toNat) :: b) ⟨t.push.isLt, hb⟩
  have h2 := bits_pack [(2, t.pop.toNat)] 2 t.push b hb
  simp only [width, h28, List.nil_append, List.cons_append] at h1 h2
  cases t
  simp only [tok, h1, h2]

namespace RoundTrip

/-- The decoder of its stream reads a well-formed instruction back from its word (R101 to R122). -/
def Statement (i : Instr) : Prop := ∀ st, i.stream? = some st → i.wellFormed = true → decode st (encode i) = .ok i

theorem close {i : Instr} {st : Strand} {w : Nat} (hs : i.stream? = some st) (e : i.encodeNat = w) (hb : w < 2 ^ 32)
    (hr : row st w = some i) : Statement i := by
  intro st' h hw
  rw [hs] at h
  cases h
  simp only [decode, encode, e, BitVec.toNat_ofNat, Nat.mod_eq_of_lt hb, hr, hw, if_true]

theorem ne {n a : Nat} (b : Nat) (e : n = a) (h : (a == b) = false) : ¬ n = b := by
  subst e
  simpa using h

theorem event {i : Instr} (h : i.stream? = none) : Statement i := by
  intro st hs
  rw [h] at hs
  cases hs

theorem shape0 (t : Tok) (o f0 : Nat) (a : BitVec 5) (b : BitVec 5) (c : BitVec 5) (ho : o < 2 ^ 6) (hf0 : f0 < 2 ^ 7) :
    ∃ w, enc3 (o * 4194304 + f0 * 1) t a.toNat 17 b.toNat 12 c.toNat 7 = w ∧ w < 2 ^ 32 ∧ fieldNat w 22 6 = o ∧ fieldNat w 0 7 = f0 ∧ tok w = t ∧ bits w 17 5 = a ∧ bits w 12 5 = b ∧ bits w 7 5 = c := by
  refine ⟨pack [(2, t.pop.toNat), (2, t.push.toNat), (6, o), (5, a.toNat), (5, b.toNat), (5, c.toNat), (7, f0)], ?_,
    pack_lt [(2, t.pop.toNat), (2, t.push.toNat), (6, o), (5, a.toNat), (5, b.toNat), (5, c.toNat), (7, f0)] ⟨t.pop.isLt, t.push.isLt, ho, a.isLt, b.isLt, c.isLt, hf0, trivial⟩,
    field_pack [(2, t.pop.toNat), (2, t.push.toNat)] 6 o [(5, a.toNat), (5, b.toNat), (5, c.toNat), (7, f0)] ho ⟨a.isLt, b.isLt, c.isLt, hf0, trivial⟩,
    field_pack [(2, t.pop.toNat), (2, t.push.toNat), (6, o), (5, a.toNat), (5, b.toNat), (5, c.toNat)] 7 f0 [] hf0 trivial,
    tok_pack t [(6, o), (5, a.toNat), (5, b.toNat), (5, c.toNat), (7, f0)] ⟨ho, a.isLt, b.isLt, c.isLt, hf0, trivial⟩ rfl,
    bits_pack [(2, t.pop.toNat), (2, t.push.toNat), (6, o)] 5 a [(5, b.toNat), (5, c.toNat), (7, f0)] ⟨b.isLt, c.isLt, hf0, trivial⟩,
    bits_pack [(2, t.pop.toNat), (2, t.push.toNat), (6, o), (5, a.toNat)] 5 b [(5, c.toNat), (7, f0)] ⟨c.isLt, hf0, trivial⟩,
    bits_pack [(2, t.pop.toNat), (2, t.push.toNat), (6, o), (5, a.toNat), (5, b.toNat)] 5 c [(7, f0)] ⟨hf0, trivial⟩⟩
  simp only [enc3, enc2, enc1, enc0, Tok.place, pack, width]
  omega

theorem shape1 (t : Tok) (o f0 : Nat) (a : BitVec 5) (b : BitVec 5) (ho : o < 2 ^ 6) (hf0 : f0 < 2 ^ 12) :
    ∃ w, enc2 (o * 4194304 + f0 * 1) t a.toNat 17 b.toNat 12 = w ∧ w < 2 ^ 32 ∧ fieldNat w 22 6 = o ∧ fieldNat w 0 12 = f0 ∧ tok w = t ∧ bits w 17 5 = a ∧ bits w 12 5 = b := by
  refine ⟨pack [(2, t.pop.toNat), (2, t.push.toNat), (6, o), (5, a.toNat), (5, b.toNat), (12, f0)], ?_,
    pack_lt [(2, t.pop.toNat), (2, t.push.toNat), (6, o), (5, a.toNat), (5, b.toNat), (12, f0)] ⟨t.pop.isLt, t.push.isLt, ho, a.isLt, b.isLt, hf0, trivial⟩,
    field_pack [(2, t.pop.toNat), (2, t.push.toNat)] 6 o [(5, a.toNat), (5, b.toNat), (12, f0)] ho ⟨a.isLt, b.isLt, hf0, trivial⟩,
    field_pack [(2, t.pop.toNat), (2, t.push.toNat), (6, o), (5, a.toNat), (5, b.toNat)] 12 f0 [] hf0 trivial,
    tok_pack t [(6, o), (5, a.toNat), (5, b.toNat), (12, f0)] ⟨ho, a.isLt, b.isLt, hf0, trivial⟩ rfl,
    bits_pack [(2, t.pop.toNat), (2, t.push.toNat), (6, o)] 5 a [(5, b.toNat), (12, f0)] ⟨b.isLt, hf0, trivial⟩,
    bits_pack [(2, t.pop.toNat), (2, t.push.toNat), (6, o), (5, a.toNat)] 5 b [(12, f0)] ⟨hf0, trivial⟩⟩
  simp only [enc2, enc1, enc0, Tok.place, pack, width]
  omega

theorem shape2 (t : Tok) (o f0 : Nat) (a : BitVec 5) (b : BitVec 5) (c : BitVec 5) (d : BitVec 6) (ho : o < 2 ^ 6) (hf0 : f0 < 2 ^ 1) :
    ∃ w, enc4 (o * 4194304 + f0 * 64) t a.toNat 17 b.toNat 12 c.toNat 7 d.toNat 0 = w ∧ w < 2 ^ 32 ∧ fieldNat w 22 6 = o ∧ fieldNat w 6 1 = f0 ∧ tok w = t ∧ bits w 17 5 = a ∧ bits w 12 5 = b ∧ bits w 7 5 = c ∧ bits w 0 6 = d := by
  refine ⟨pack [(2, t.pop.toNat), (2, t.push.toNat), (6, o), (5, a.toNat), (5, b.toNat), (5, c.toNat), (1, f0), (6, d.toNat)], ?_,
    pack_lt [(2, t.pop.toNat), (2, t.push.toNat), (6, o), (5, a.toNat), (5, b.toNat), (5, c.toNat), (1, f0), (6, d.toNat)] ⟨t.pop.isLt, t.push.isLt, ho, a.isLt, b.isLt, c.isLt, hf0, d.isLt, trivial⟩,
    field_pack [(2, t.pop.toNat), (2, t.push.toNat)] 6 o [(5, a.toNat), (5, b.toNat), (5, c.toNat), (1, f0), (6, d.toNat)] ho ⟨a.isLt, b.isLt, c.isLt, hf0, d.isLt, trivial⟩,
    field_pack [(2, t.pop.toNat), (2, t.push.toNat), (6, o), (5, a.toNat), (5, b.toNat), (5, c.toNat)] 1 f0 [(6, d.toNat)] hf0 ⟨d.isLt, trivial⟩,
    tok_pack t [(6, o), (5, a.toNat), (5, b.toNat), (5, c.toNat), (1, f0), (6, d.toNat)] ⟨ho, a.isLt, b.isLt, c.isLt, hf0, d.isLt, trivial⟩ rfl,
    bits_pack [(2, t.pop.toNat), (2, t.push.toNat), (6, o)] 5 a [(5, b.toNat), (5, c.toNat), (1, f0), (6, d.toNat)] ⟨b.isLt, c.isLt, hf0, d.isLt, trivial⟩,
    bits_pack [(2, t.pop.toNat), (2, t.push.toNat), (6, o), (5, a.toNat)] 5 b [(5, c.toNat), (1, f0), (6, d.toNat)] ⟨c.isLt, hf0, d.isLt, trivial⟩,
    bits_pack [(2, t.pop.toNat), (2, t.push.toNat), (6, o), (5, a.toNat), (5, b.toNat)] 5 c [(1, f0), (6, d.toNat)] ⟨hf0, d.isLt, trivial⟩,
    bits_pack [(2, t.pop.toNat), (2, t.push.toNat), (6, o), (5, a.toNat), (5, b.toNat), (5, c.toNat), (1, f0)] 6 d [] trivial⟩
  simp only [enc4, enc3, enc2, enc1, enc0, Tok.place, pack, width]
  omega

theorem shape3 (t : Tok) (o : Nat) (a : BitVec 5) (b : BitVec 5) (c : BitVec 12) (ho : o < 2 ^ 6) :
    ∃ w, enc3 (o * 4194304) t a.toNat 17 b.toNat 12 c.toNat 0 = w ∧ w < 2 ^ 32 ∧ fieldNat w 22 6 = o ∧ tok w = t ∧ bits w 17 5 = a ∧ bits w 12 5 = b ∧ bits w 0 12 = c := by
  refine ⟨pack [(2, t.pop.toNat), (2, t.push.toNat), (6, o), (5, a.toNat), (5, b.toNat), (12, c.toNat)], ?_,
    pack_lt [(2, t.pop.toNat), (2, t.push.toNat), (6, o), (5, a.toNat), (5, b.toNat), (12, c.toNat)] ⟨t.pop.isLt, t.push.isLt, ho, a.isLt, b.isLt, c.isLt, trivial⟩,
    field_pack [(2, t.pop.toNat), (2, t.push.toNat)] 6 o [(5, a.toNat), (5, b.toNat), (12, c.toNat)] ho ⟨a.isLt, b.isLt, c.isLt, trivial⟩,
    tok_pack t [(6, o), (5, a.toNat), (5, b.toNat), (12, c.toNat)] ⟨ho, a.isLt, b.isLt, c.isLt, trivial⟩ rfl,
    bits_pack [(2, t.pop.toNat), (2, t.push.toNat), (6, o)] 5 a [(5, b.toNat), (12, c.toNat)] ⟨b.isLt, c.isLt, trivial⟩,
    bits_pack [(2, t.pop.toNat), (2, t.push.toNat), (6, o), (5, a.toNat)] 5 b [(12, c.toNat)] ⟨c.isLt, trivial⟩,
    bits_pack [(2, t.pop.toNat), (2, t.push.toNat), (6, o), (5, a.toNat), (5, b.toNat)] 12 c [] trivial⟩
  simp only [enc3, enc2, enc1, enc0, Tok.place, pack, width]
  omega

theorem shape4 (t : Tok) (o f0 : Nat) (a : BitVec 5) (b : BitVec 5) (c : BitVec 6) (ho : o < 2 ^ 6) (hf0 : f0 < 2 ^ 6) :
    ∃ w, enc3 (o * 4194304 + f0 * 64) t a.toNat 17 b.toNat 12 c.toNat 0 = w ∧ w < 2 ^ 32 ∧ fieldNat w 22 6 = o ∧ fieldNat w 6 6 = f0 ∧ tok w = t ∧ bits w 17 5 = a ∧ bits w 12 5 = b ∧ bits w 0 6 = c := by
  refine ⟨pack [(2, t.pop.toNat), (2, t.push.toNat), (6, o), (5, a.toNat), (5, b.toNat), (6, f0), (6, c.toNat)], ?_,
    pack_lt [(2, t.pop.toNat), (2, t.push.toNat), (6, o), (5, a.toNat), (5, b.toNat), (6, f0), (6, c.toNat)] ⟨t.pop.isLt, t.push.isLt, ho, a.isLt, b.isLt, hf0, c.isLt, trivial⟩,
    field_pack [(2, t.pop.toNat), (2, t.push.toNat)] 6 o [(5, a.toNat), (5, b.toNat), (6, f0), (6, c.toNat)] ho ⟨a.isLt, b.isLt, hf0, c.isLt, trivial⟩,
    field_pack [(2, t.pop.toNat), (2, t.push.toNat), (6, o), (5, a.toNat), (5, b.toNat)] 6 f0 [(6, c.toNat)] hf0 ⟨c.isLt, trivial⟩,
    tok_pack t [(6, o), (5, a.toNat), (5, b.toNat), (6, f0), (6, c.toNat)] ⟨ho, a.isLt, b.isLt, hf0, c.isLt, trivial⟩ rfl,
    bits_pack [(2, t.pop.toNat), (2, t.push.toNat), (6, o)] 5 a [(5, b.toNat), (6, f0), (6, c.toNat)] ⟨b.isLt, hf0, c.isLt, trivial⟩,
    bits_pack [(2, t.pop.toNat), (2, t.push.toNat), (6, o), (5, a.toNat)] 5 b [(6, f0), (6, c.toNat)] ⟨hf0, c.isLt, trivial⟩,
    bits_pack [(2, t.pop.toNat), (2, t.push.toNat), (6, o), (5, a.toNat), (5, b.toNat), (6, f0)] 6 c [] trivial⟩
  simp only [enc3, enc2, enc1, enc0, Tok.place, pack, width]
  omega

theorem shape5 (t : Tok) (o : Nat) (a : BitVec 5) (b : BitVec 5) (c : BitVec 6) (d : BitVec 6) (ho : o < 2 ^ 6) :
    ∃ w, enc4 (o * 4194304) t a.toNat 17 b.toNat 12 c.toNat 6 d.toNat 0 = w ∧ w < 2 ^ 32 ∧ fieldNat w 22 6 = o ∧ tok w = t ∧ bits w 17 5 = a ∧ bits w 12 5 = b ∧ bits w 6 6 = c ∧ bits w 0 6 = d := by
  refine ⟨pack [(2, t.pop.toNat), (2, t.push.toNat), (6, o), (5, a.toNat), (5, b.toNat), (6, c.toNat), (6, d.toNat)], ?_,
    pack_lt [(2, t.pop.toNat), (2, t.push.toNat), (6, o), (5, a.toNat), (5, b.toNat), (6, c.toNat), (6, d.toNat)] ⟨t.pop.isLt, t.push.isLt, ho, a.isLt, b.isLt, c.isLt, d.isLt, trivial⟩,
    field_pack [(2, t.pop.toNat), (2, t.push.toNat)] 6 o [(5, a.toNat), (5, b.toNat), (6, c.toNat), (6, d.toNat)] ho ⟨a.isLt, b.isLt, c.isLt, d.isLt, trivial⟩,
    tok_pack t [(6, o), (5, a.toNat), (5, b.toNat), (6, c.toNat), (6, d.toNat)] ⟨ho, a.isLt, b.isLt, c.isLt, d.isLt, trivial⟩ rfl,
    bits_pack [(2, t.pop.toNat), (2, t.push.toNat), (6, o)] 5 a [(5, b.toNat), (6, c.toNat), (6, d.toNat)] ⟨b.isLt, c.isLt, d.isLt, trivial⟩,
    bits_pack [(2, t.pop.toNat), (2, t.push.toNat), (6, o), (5, a.toNat)] 5 b [(6, c.toNat), (6, d.toNat)] ⟨c.isLt, d.isLt, trivial⟩,
    bits_pack [(2, t.pop.toNat), (2, t.push.toNat), (6, o), (5, a.toNat), (5, b.toNat)] 6 c [(6, d.toNat)] ⟨d.isLt, trivial⟩,
    bits_pack [(2, t.pop.toNat), (2, t.push.toNat), (6, o), (5, a.toNat), (5, b.toNat), (6, c.toNat)] 6 d [] trivial⟩
  simp only [enc4, enc3, enc2, enc1, enc0, Tok.place, pack, width]
  omega

theorem shape6 (t : Tok) (o : Nat) (a : BitVec 5) (b : BitVec 17) (ho : o < 2 ^ 6) :
    ∃ w, enc2 (o * 4194304) t a.toNat 17 b.toNat 0 = w ∧ w < 2 ^ 32 ∧ fieldNat w 22 6 = o ∧ tok w = t ∧ bits w 17 5 = a ∧ bits w 0 17 = b := by
  refine ⟨pack [(2, t.pop.toNat), (2, t.push.toNat), (6, o), (5, a.toNat), (17, b.toNat)], ?_,
    pack_lt [(2, t.pop.toNat), (2, t.push.toNat), (6, o), (5, a.toNat), (17, b.toNat)] ⟨t.pop.isLt, t.push.isLt, ho, a.isLt, b.isLt, trivial⟩,
    field_pack [(2, t.pop.toNat), (2, t.push.toNat)] 6 o [(5, a.toNat), (17, b.toNat)] ho ⟨a.isLt, b.isLt, trivial⟩,
    tok_pack t [(6, o), (5, a.toNat), (17, b.toNat)] ⟨ho, a.isLt, b.isLt, trivial⟩ rfl,
    bits_pack [(2, t.pop.toNat), (2, t.push.toNat), (6, o)] 5 a [(17, b.toNat)] ⟨b.isLt, trivial⟩,
    bits_pack [(2, t.pop.toNat), (2, t.push.toNat), (6, o), (5, a.toNat)] 17 b [] trivial⟩
  simp only [enc2, enc1, enc0, Tok.place, pack, width]
  omega

theorem shape7 (t : Tok) (o f0 : Nat) (a : BitVec 5) (b : BitVec 16) (ho : o < 2 ^ 6) (hf0 : f0 < 2 ^ 1) :
    ∃ w, enc2 (o * 4194304 + f0 * 65536) t a.toNat 17 b.toNat 0 = w ∧ w < 2 ^ 32 ∧ fieldNat w 22 6 = o ∧ fieldNat w 16 1 = f0 ∧ tok w = t ∧ bits w 17 5 = a ∧ bits w 0 16 = b := by
  refine ⟨pack [(2, t.pop.toNat), (2, t.push.toNat), (6, o), (5, a.toNat), (1, f0), (16, b.toNat)], ?_,
    pack_lt [(2, t.pop.toNat), (2, t.push.toNat), (6, o), (5, a.toNat), (1, f0), (16, b.toNat)] ⟨t.pop.isLt, t.push.isLt, ho, a.isLt, hf0, b.isLt, trivial⟩,
    field_pack [(2, t.pop.toNat), (2, t.push.toNat)] 6 o [(5, a.toNat), (1, f0), (16, b.toNat)] ho ⟨a.isLt, hf0, b.isLt, trivial⟩,
    field_pack [(2, t.pop.toNat), (2, t.push.toNat), (6, o), (5, a.toNat)] 1 f0 [(16, b.toNat)] hf0 ⟨b.isLt, trivial⟩,
    tok_pack t [(6, o), (5, a.toNat), (1, f0), (16, b.toNat)] ⟨ho, a.isLt, hf0, b.isLt, trivial⟩ rfl,
    bits_pack [(2, t.pop.toNat), (2, t.push.toNat), (6, o)] 5 a [(1, f0), (16, b.toNat)] ⟨hf0, b.isLt, trivial⟩,
    bits_pack [(2, t.pop.toNat), (2, t.push.toNat), (6, o), (5, a.toNat), (1, f0)] 16 b [] trivial⟩
  simp only [enc2, enc1, enc0, Tok.place, pack, width]
  omega

theorem shape8 (t : Tok) (o f0 : Nat) (a : BitVec 5) (b : BitVec 12) (ho : o < 2 ^ 6) (hf0 : f0 < 2 ^ 5) :
    ∃ w, enc2 (o * 4194304 + f0 * 131072) t a.toNat 12 b.toNat 0 = w ∧ w < 2 ^ 32 ∧ fieldNat w 22 6 = o ∧ fieldNat w 17 5 = f0 ∧ tok w = t ∧ bits w 12 5 = a ∧ bits w 0 12 = b := by
  refine ⟨pack [(2, t.pop.toNat), (2, t.push.toNat), (6, o), (5, f0), (5, a.toNat), (12, b.toNat)], ?_,
    pack_lt [(2, t.pop.toNat), (2, t.push.toNat), (6, o), (5, f0), (5, a.toNat), (12, b.toNat)] ⟨t.pop.isLt, t.push.isLt, ho, hf0, a.isLt, b.isLt, trivial⟩,
    field_pack [(2, t.pop.toNat), (2, t.push.toNat)] 6 o [(5, f0), (5, a.toNat), (12, b.toNat)] ho ⟨hf0, a.isLt, b.isLt, trivial⟩,
    field_pack [(2, t.pop.toNat), (2, t.push.toNat), (6, o)] 5 f0 [(5, a.toNat), (12, b.toNat)] hf0 ⟨a.isLt, b.isLt, trivial⟩,
    tok_pack t [(6, o), (5, f0), (5, a.toNat), (12, b.toNat)] ⟨ho, hf0, a.isLt, b.isLt, trivial⟩ rfl,
    bits_pack [(2, t.pop.toNat), (2, t.push.toNat), (6, o), (5, f0)] 5 a [(12, b.toNat)] ⟨b.isLt, trivial⟩,
    bits_pack [(2, t.pop.toNat), (2, t.push.toNat), (6, o), (5, f0), (5, a.toNat)] 12 b [] trivial⟩
  simp only [enc2, enc1, enc0, Tok.place, pack, width]
  omega

theorem shape9 (t : Tok) (o f0 f1 : Nat) (a : BitVec 5) (b : BitVec 5) (c : BitVec 5) (d : BitVec 2) (g : BitVec 1) (ho : o < 2 ^ 6) (hf0 : f0 < 2 ^ 1) (hf1 : f1 < 2 ^ 3) :
    ∃ w, enc5 (o * 4194304 + f0 * 1 + f1 * 16) t a.toNat 17 b.toNat 12 c.toNat 7 d.toNat 2 g.toNat 1 = w ∧ w < 2 ^ 32 ∧ fieldNat w 22 6 = o ∧ fieldNat w 0 1 = f0 ∧ fieldNat w 4 3 = f1 ∧ tok w = t ∧ bits w 17 5 = a ∧ bits w 12 5 = b ∧ bits w 7 5 = c ∧ bits w 2 2 = d ∧ bits w 1 1 = g := by
  refine ⟨pack [(2, t.pop.toNat), (2, t.push.toNat), (6, o), (5, a.toNat), (5, b.toNat), (5, c.toNat), (3, f1), (2, d.toNat), (1, g.toNat), (1, f0)], ?_,
    pack_lt [(2, t.pop.toNat), (2, t.push.toNat), (6, o), (5, a.toNat), (5, b.toNat), (5, c.toNat), (3, f1), (2, d.toNat), (1, g.toNat), (1, f0)] ⟨t.pop.isLt, t.push.isLt, ho, a.isLt, b.isLt, c.isLt, hf1, d.isLt, g.isLt, hf0, trivial⟩,
    field_pack [(2, t.pop.toNat), (2, t.push.toNat)] 6 o [(5, a.toNat), (5, b.toNat), (5, c.toNat), (3, f1), (2, d.toNat), (1, g.toNat), (1, f0)] ho ⟨a.isLt, b.isLt, c.isLt, hf1, d.isLt, g.isLt, hf0, trivial⟩,
    field_pack [(2, t.pop.toNat), (2, t.push.toNat), (6, o), (5, a.toNat), (5, b.toNat), (5, c.toNat), (3, f1), (2, d.toNat), (1, g.toNat)] 1 f0 [] hf0 trivial,
    field_pack [(2, t.pop.toNat), (2, t.push.toNat), (6, o), (5, a.toNat), (5, b.toNat), (5, c.toNat)] 3 f1 [(2, d.toNat), (1, g.toNat), (1, f0)] hf1 ⟨d.isLt, g.isLt, hf0, trivial⟩,
    tok_pack t [(6, o), (5, a.toNat), (5, b.toNat), (5, c.toNat), (3, f1), (2, d.toNat), (1, g.toNat), (1, f0)] ⟨ho, a.isLt, b.isLt, c.isLt, hf1, d.isLt, g.isLt, hf0, trivial⟩ rfl,
    bits_pack [(2, t.pop.toNat), (2, t.push.toNat), (6, o)] 5 a [(5, b.toNat), (5, c.toNat), (3, f1), (2, d.toNat), (1, g.toNat), (1, f0)] ⟨b.isLt, c.isLt, hf1, d.isLt, g.isLt, hf0, trivial⟩,
    bits_pack [(2, t.pop.toNat), (2, t.push.toNat), (6, o), (5, a.toNat)] 5 b [(5, c.toNat), (3, f1), (2, d.toNat), (1, g.toNat), (1, f0)] ⟨c.isLt, hf1, d.isLt, g.isLt, hf0, trivial⟩,
    bits_pack [(2, t.pop.toNat), (2, t.push.toNat), (6, o), (5, a.toNat), (5, b.toNat)] 5 c [(3, f1), (2, d.toNat), (1, g.toNat), (1, f0)] ⟨hf1, d.isLt, g.isLt, hf0, trivial⟩,
    bits_pack [(2, t.pop.toNat), (2, t.push.toNat), (6, o), (5, a.toNat), (5, b.toNat), (5, c.toNat), (3, f1)] 2 d [(1, g.toNat), (1, f0)] ⟨g.isLt, hf0, trivial⟩,
    bits_pack [(2, t.pop.toNat), (2, t.push.toNat), (6, o), (5, a.toNat), (5, b.toNat), (5, c.toNat), (3, f1), (2, d.toNat)] 1 g [(1, f0)] ⟨hf0, trivial⟩⟩
  simp only [enc5, enc4, enc3, enc2, enc1, enc0, Tok.place, pack, width]
  omega

theorem shape10 (t : Tok) (o f0 : Nat) (a : BitVec 5) (b : BitVec 5) (c : BitVec 5) (d : BitVec 1) (ho : o < 2 ^ 6) (hf0 : f0 < 2 ^ 6) :
    ∃ w, enc4 (o * 4194304 + f0 * 1) t a.toNat 17 b.toNat 12 c.toNat 7 d.toNat 6 = w ∧ w < 2 ^ 32 ∧ fieldNat w 22 6 = o ∧ fieldNat w 0 6 = f0 ∧ tok w = t ∧ bits w 17 5 = a ∧ bits w 12 5 = b ∧ bits w 7 5 = c ∧ bits w 6 1 = d := by
  refine ⟨pack [(2, t.pop.toNat), (2, t.push.toNat), (6, o), (5, a.toNat), (5, b.toNat), (5, c.toNat), (1, d.toNat), (6, f0)], ?_,
    pack_lt [(2, t.pop.toNat), (2, t.push.toNat), (6, o), (5, a.toNat), (5, b.toNat), (5, c.toNat), (1, d.toNat), (6, f0)] ⟨t.pop.isLt, t.push.isLt, ho, a.isLt, b.isLt, c.isLt, d.isLt, hf0, trivial⟩,
    field_pack [(2, t.pop.toNat), (2, t.push.toNat)] 6 o [(5, a.toNat), (5, b.toNat), (5, c.toNat), (1, d.toNat), (6, f0)] ho ⟨a.isLt, b.isLt, c.isLt, d.isLt, hf0, trivial⟩,
    field_pack [(2, t.pop.toNat), (2, t.push.toNat), (6, o), (5, a.toNat), (5, b.toNat), (5, c.toNat), (1, d.toNat)] 6 f0 [] hf0 trivial,
    tok_pack t [(6, o), (5, a.toNat), (5, b.toNat), (5, c.toNat), (1, d.toNat), (6, f0)] ⟨ho, a.isLt, b.isLt, c.isLt, d.isLt, hf0, trivial⟩ rfl,
    bits_pack [(2, t.pop.toNat), (2, t.push.toNat), (6, o)] 5 a [(5, b.toNat), (5, c.toNat), (1, d.toNat), (6, f0)] ⟨b.isLt, c.isLt, d.isLt, hf0, trivial⟩,
    bits_pack [(2, t.pop.toNat), (2, t.push.toNat), (6, o), (5, a.toNat)] 5 b [(5, c.toNat), (1, d.toNat), (6, f0)] ⟨c.isLt, d.isLt, hf0, trivial⟩,
    bits_pack [(2, t.pop.toNat), (2, t.push.toNat), (6, o), (5, a.toNat), (5, b.toNat)] 5 c [(1, d.toNat), (6, f0)] ⟨d.isLt, hf0, trivial⟩,
    bits_pack [(2, t.pop.toNat), (2, t.push.toNat), (6, o), (5, a.toNat), (5, b.toNat), (5, c.toNat)] 1 d [(6, f0)] ⟨hf0, trivial⟩⟩
  simp only [enc4, enc3, enc2, enc1, enc0, Tok.place, pack, width]
  omega

theorem shape11 (t : Tok) (o f0 f1 : Nat) (a : BitVec 5) (b : BitVec 5) (c : BitVec 1) (ho : o < 2 ^ 6) (hf0 : f0 < 2 ^ 6) (hf1 : f1 < 2 ^ 5) :
    ∃ w, enc3 (o * 4194304 + f0 * 1 + f1 * 128) t a.toNat 17 b.toNat 12 c.toNat 6 = w ∧ w < 2 ^ 32 ∧ fieldNat w 22 6 = o ∧ fieldNat w 0 6 = f0 ∧ fieldNat w 7 5 = f1 ∧ tok w = t ∧ bits w 17 5 = a ∧ bits w 12 5 = b ∧ bits w 6 1 = c := by
  refine ⟨pack [(2, t.pop.toNat), (2, t.push.toNat), (6, o), (5, a.toNat), (5, b.toNat), (5, f1), (1, c.toNat), (6, f0)], ?_,
    pack_lt [(2, t.pop.toNat), (2, t.push.toNat), (6, o), (5, a.toNat), (5, b.toNat), (5, f1), (1, c.toNat), (6, f0)] ⟨t.pop.isLt, t.push.isLt, ho, a.isLt, b.isLt, hf1, c.isLt, hf0, trivial⟩,
    field_pack [(2, t.pop.toNat), (2, t.push.toNat)] 6 o [(5, a.toNat), (5, b.toNat), (5, f1), (1, c.toNat), (6, f0)] ho ⟨a.isLt, b.isLt, hf1, c.isLt, hf0, trivial⟩,
    field_pack [(2, t.pop.toNat), (2, t.push.toNat), (6, o), (5, a.toNat), (5, b.toNat), (5, f1), (1, c.toNat)] 6 f0 [] hf0 trivial,
    field_pack [(2, t.pop.toNat), (2, t.push.toNat), (6, o), (5, a.toNat), (5, b.toNat)] 5 f1 [(1, c.toNat), (6, f0)] hf1 ⟨c.isLt, hf0, trivial⟩,
    tok_pack t [(6, o), (5, a.toNat), (5, b.toNat), (5, f1), (1, c.toNat), (6, f0)] ⟨ho, a.isLt, b.isLt, hf1, c.isLt, hf0, trivial⟩ rfl,
    bits_pack [(2, t.pop.toNat), (2, t.push.toNat), (6, o)] 5 a [(5, b.toNat), (5, f1), (1, c.toNat), (6, f0)] ⟨b.isLt, hf1, c.isLt, hf0, trivial⟩,
    bits_pack [(2, t.pop.toNat), (2, t.push.toNat), (6, o), (5, a.toNat)] 5 b [(5, f1), (1, c.toNat), (6, f0)] ⟨hf1, c.isLt, hf0, trivial⟩,
    bits_pack [(2, t.pop.toNat), (2, t.push.toNat), (6, o), (5, a.toNat), (5, b.toNat), (5, f1)] 1 c [(6, f0)] ⟨hf0, trivial⟩⟩
  simp only [enc3, enc2, enc1, enc0, Tok.place, pack, width]
  omega

theorem shape12 (t : Tok) (o f0 f1 : Nat) (a : BitVec 5) (b : BitVec 5) (c : BitVec 1) (d : BitVec 1) (ho : o < 2 ^ 6) (hf0 : f0 < 2 ^ 5) (hf1 : f1 < 2 ^ 5) :
    ∃ w, enc4 (o * 4194304 + f0 * 1 + f1 * 128) t a.toNat 17 b.toNat 12 c.toNat 6 d.toNat 5 = w ∧ w < 2 ^ 32 ∧ fieldNat w 22 6 = o ∧ fieldNat w 0 5 = f0 ∧ fieldNat w 7 5 = f1 ∧ tok w = t ∧ bits w 17 5 = a ∧ bits w 12 5 = b ∧ bits w 6 1 = c ∧ bits w 5 1 = d := by
  refine ⟨pack [(2, t.pop.toNat), (2, t.push.toNat), (6, o), (5, a.toNat), (5, b.toNat), (5, f1), (1, c.toNat), (1, d.toNat), (5, f0)], ?_,
    pack_lt [(2, t.pop.toNat), (2, t.push.toNat), (6, o), (5, a.toNat), (5, b.toNat), (5, f1), (1, c.toNat), (1, d.toNat), (5, f0)] ⟨t.pop.isLt, t.push.isLt, ho, a.isLt, b.isLt, hf1, c.isLt, d.isLt, hf0, trivial⟩,
    field_pack [(2, t.pop.toNat), (2, t.push.toNat)] 6 o [(5, a.toNat), (5, b.toNat), (5, f1), (1, c.toNat), (1, d.toNat), (5, f0)] ho ⟨a.isLt, b.isLt, hf1, c.isLt, d.isLt, hf0, trivial⟩,
    field_pack [(2, t.pop.toNat), (2, t.push.toNat), (6, o), (5, a.toNat), (5, b.toNat), (5, f1), (1, c.toNat), (1, d.toNat)] 5 f0 [] hf0 trivial,
    field_pack [(2, t.pop.toNat), (2, t.push.toNat), (6, o), (5, a.toNat), (5, b.toNat)] 5 f1 [(1, c.toNat), (1, d.toNat), (5, f0)] hf1 ⟨c.isLt, d.isLt, hf0, trivial⟩,
    tok_pack t [(6, o), (5, a.toNat), (5, b.toNat), (5, f1), (1, c.toNat), (1, d.toNat), (5, f0)] ⟨ho, a.isLt, b.isLt, hf1, c.isLt, d.isLt, hf0, trivial⟩ rfl,
    bits_pack [(2, t.pop.toNat), (2, t.push.toNat), (6, o)] 5 a [(5, b.toNat), (5, f1), (1, c.toNat), (1, d.toNat), (5, f0)] ⟨b.isLt, hf1, c.isLt, d.isLt, hf0, trivial⟩,
    bits_pack [(2, t.pop.toNat), (2, t.push.toNat), (6, o), (5, a.toNat)] 5 b [(5, f1), (1, c.toNat), (1, d.toNat), (5, f0)] ⟨hf1, c.isLt, d.isLt, hf0, trivial⟩,
    bits_pack [(2, t.pop.toNat), (2, t.push.toNat), (6, o), (5, a.toNat), (5, b.toNat), (5, f1)] 1 c [(1, d.toNat), (5, f0)] ⟨d.isLt, hf0, trivial⟩,
    bits_pack [(2, t.pop.toNat), (2, t.push.toNat), (6, o), (5, a.toNat), (5, b.toNat), (5, f1), (1, c.toNat)] 1 d [(5, f0)] ⟨hf0, trivial⟩⟩
  simp only [enc4, enc3, enc2, enc1, enc0, Tok.place, pack, width]
  omega

theorem shape13 (t : Tok) (o f0 f1 : Nat) (a : BitVec 5) (b : BitVec 5) (c : BitVec 1) (ho : o < 2 ^ 6) (hf0 : f0 < 2 ^ 5) (hf1 : f1 < 2 ^ 6) :
    ∃ w, enc3 (o * 4194304 + f0 * 1 + f1 * 64) t a.toNat 17 b.toNat 12 c.toNat 5 = w ∧ w < 2 ^ 32 ∧ fieldNat w 22 6 = o ∧ fieldNat w 0 5 = f0 ∧ fieldNat w 6 6 = f1 ∧ tok w = t ∧ bits w 17 5 = a ∧ bits w 12 5 = b ∧ bits w 5 1 = c := by
  refine ⟨pack [(2, t.pop.toNat), (2, t.push.toNat), (6, o), (5, a.toNat), (5, b.toNat), (6, f1), (1, c.toNat), (5, f0)], ?_,
    pack_lt [(2, t.pop.toNat), (2, t.push.toNat), (6, o), (5, a.toNat), (5, b.toNat), (6, f1), (1, c.toNat), (5, f0)] ⟨t.pop.isLt, t.push.isLt, ho, a.isLt, b.isLt, hf1, c.isLt, hf0, trivial⟩,
    field_pack [(2, t.pop.toNat), (2, t.push.toNat)] 6 o [(5, a.toNat), (5, b.toNat), (6, f1), (1, c.toNat), (5, f0)] ho ⟨a.isLt, b.isLt, hf1, c.isLt, hf0, trivial⟩,
    field_pack [(2, t.pop.toNat), (2, t.push.toNat), (6, o), (5, a.toNat), (5, b.toNat), (6, f1), (1, c.toNat)] 5 f0 [] hf0 trivial,
    field_pack [(2, t.pop.toNat), (2, t.push.toNat), (6, o), (5, a.toNat), (5, b.toNat)] 6 f1 [(1, c.toNat), (5, f0)] hf1 ⟨c.isLt, hf0, trivial⟩,
    tok_pack t [(6, o), (5, a.toNat), (5, b.toNat), (6, f1), (1, c.toNat), (5, f0)] ⟨ho, a.isLt, b.isLt, hf1, c.isLt, hf0, trivial⟩ rfl,
    bits_pack [(2, t.pop.toNat), (2, t.push.toNat), (6, o)] 5 a [(5, b.toNat), (6, f1), (1, c.toNat), (5, f0)] ⟨b.isLt, hf1, c.isLt, hf0, trivial⟩,
    bits_pack [(2, t.pop.toNat), (2, t.push.toNat), (6, o), (5, a.toNat)] 5 b [(6, f1), (1, c.toNat), (5, f0)] ⟨hf1, c.isLt, hf0, trivial⟩,
    bits_pack [(2, t.pop.toNat), (2, t.push.toNat), (6, o), (5, a.toNat), (5, b.toNat), (6, f1)] 1 c [(5, f0)] ⟨hf0, trivial⟩⟩
  simp only [enc3, enc2, enc1, enc0, Tok.place, pack, width]
  omega

theorem shape14 (t : Tok) (o f0 f1 : Nat) (a : BitVec 5) (b : BitVec 5) (ho : o < 2 ^ 6) (hf0 : f0 < 2 ^ 7) (hf1 : f1 < 2 ^ 5) :
    ∃ w, enc2 (o * 4194304 + f0 * 1 + f1 * 131072) t a.toNat 12 b.toNat 7 = w ∧ w < 2 ^ 32 ∧ fieldNat w 22 6 = o ∧ fieldNat w 0 7 = f0 ∧ fieldNat w 17 5 = f1 ∧ tok w = t ∧ bits w 12 5 = a ∧ bits w 7 5 = b := by
  refine ⟨pack [(2, t.pop.toNat), (2, t.push.toNat), (6, o), (5, f1), (5, a.toNat), (5, b.toNat), (7, f0)], ?_,
    pack_lt [(2, t.pop.toNat), (2, t.push.toNat), (6, o), (5, f1), (5, a.toNat), (5, b.toNat), (7, f0)] ⟨t.pop.isLt, t.push.isLt, ho, hf1, a.isLt, b.isLt, hf0, trivial⟩,
    field_pack [(2, t.pop.toNat), (2, t.push.toNat)] 6 o [(5, f1), (5, a.toNat), (5, b.toNat), (7, f0)] ho ⟨hf1, a.isLt, b.isLt, hf0, trivial⟩,
    field_pack [(2, t.pop.toNat), (2, t.push.toNat), (6, o), (5, f1), (5, a.toNat), (5, b.toNat)] 7 f0 [] hf0 trivial,
    field_pack [(2, t.pop.toNat), (2, t.push.toNat), (6, o)] 5 f1 [(5, a.toNat), (5, b.toNat), (7, f0)] hf1 ⟨a.isLt, b.isLt, hf0, trivial⟩,
    tok_pack t [(6, o), (5, f1), (5, a.toNat), (5, b.toNat), (7, f0)] ⟨ho, hf1, a.isLt, b.isLt, hf0, trivial⟩ rfl,
    bits_pack [(2, t.pop.toNat), (2, t.push.toNat), (6, o), (5, f1)] 5 a [(5, b.toNat), (7, f0)] ⟨b.isLt, hf0, trivial⟩,
    bits_pack [(2, t.pop.toNat), (2, t.push.toNat), (6, o), (5, f1), (5, a.toNat)] 5 b [(7, f0)] ⟨hf0, trivial⟩⟩
  simp only [enc2, enc1, enc0, Tok.place, pack, width]
  omega

theorem shape15 (t : Tok) (o f0 f1 : Nat) (a : BitVec 5) (ho : o < 2 ^ 6) (hf0 : f0 < 2 ^ 12) (hf1 : f1 < 2 ^ 5) :
    ∃ w, enc1 (o * 4194304 + f0 * 1 + f1 * 131072) t a.toNat 12 = w ∧ w < 2 ^ 32 ∧ fieldNat w 22 6 = o ∧ fieldNat w 0 12 = f0 ∧ fieldNat w 17 5 = f1 ∧ tok w = t ∧ bits w 12 5 = a := by
  refine ⟨pack [(2, t.pop.toNat), (2, t.push.toNat), (6, o), (5, f1), (5, a.toNat), (12, f0)], ?_,
    pack_lt [(2, t.pop.toNat), (2, t.push.toNat), (6, o), (5, f1), (5, a.toNat), (12, f0)] ⟨t.pop.isLt, t.push.isLt, ho, hf1, a.isLt, hf0, trivial⟩,
    field_pack [(2, t.pop.toNat), (2, t.push.toNat)] 6 o [(5, f1), (5, a.toNat), (12, f0)] ho ⟨hf1, a.isLt, hf0, trivial⟩,
    field_pack [(2, t.pop.toNat), (2, t.push.toNat), (6, o), (5, f1), (5, a.toNat)] 12 f0 [] hf0 trivial,
    field_pack [(2, t.pop.toNat), (2, t.push.toNat), (6, o)] 5 f1 [(5, a.toNat), (12, f0)] hf1 ⟨a.isLt, hf0, trivial⟩,
    tok_pack t [(6, o), (5, f1), (5, a.toNat), (12, f0)] ⟨ho, hf1, a.isLt, hf0, trivial⟩ rfl,
    bits_pack [(2, t.pop.toNat), (2, t.push.toNat), (6, o), (5, f1)] 5 a [(12, f0)] ⟨hf0, trivial⟩⟩
  simp only [enc1, enc0, Tok.place, pack, width]
  omega

theorem shape16 (t : Tok) (o f0 : Nat) (ho : o < 2 ^ 6) (hf0 : f0 < 2 ^ 22) :
    ∃ w, enc0 (o * 4194304 + f0 * 1) t = w ∧ w < 2 ^ 32 ∧ fieldNat w 22 6 = o ∧ fieldNat w 0 22 = f0 ∧ tok w = t := by
  refine ⟨pack [(2, t.pop.toNat), (2, t.push.toNat), (6, o), (22, f0)], ?_,
    pack_lt [(2, t.pop.toNat), (2, t.push.toNat), (6, o), (22, f0)] ⟨t.pop.isLt, t.push.isLt, ho, hf0, trivial⟩,
    field_pack [(2, t.pop.toNat), (2, t.push.toNat)] 6 o [(22, f0)] ho ⟨hf0, trivial⟩,
    field_pack [(2, t.pop.toNat), (2, t.push.toNat), (6, o)] 22 f0 [] hf0 trivial,
    tok_pack t [(6, o), (22, f0)] ⟨ho, hf0, trivial⟩ rfl⟩
  simp only [enc0, Tok.place, pack, width]
  omega

theorem shape17 (t : Tok) (o f0 : Nat) (a : BitVec 5) (ho : o < 2 ^ 6) (hf0 : f0 < 2 ^ 17) :
    ∃ w, enc1 (o * 4194304 + f0 * 1) t a.toNat 17 = w ∧ w < 2 ^ 32 ∧ fieldNat w 22 6 = o ∧ fieldNat w 0 17 = f0 ∧ tok w = t ∧ bits w 17 5 = a := by
  refine ⟨pack [(2, t.pop.toNat), (2, t.push.toNat), (6, o), (5, a.toNat), (17, f0)], ?_,
    pack_lt [(2, t.pop.toNat), (2, t.push.toNat), (6, o), (5, a.toNat), (17, f0)] ⟨t.pop.isLt, t.push.isLt, ho, a.isLt, hf0, trivial⟩,
    field_pack [(2, t.pop.toNat), (2, t.push.toNat)] 6 o [(5, a.toNat), (17, f0)] ho ⟨a.isLt, hf0, trivial⟩,
    field_pack [(2, t.pop.toNat), (2, t.push.toNat), (6, o), (5, a.toNat)] 17 f0 [] hf0 trivial,
    tok_pack t [(6, o), (5, a.toNat), (17, f0)] ⟨ho, a.isLt, hf0, trivial⟩ rfl,
    bits_pack [(2, t.pop.toNat), (2, t.push.toNat), (6, o)] 5 a [(17, f0)] ⟨hf0, trivial⟩⟩
  simp only [enc1, enc0, Tok.place, pack, width]
  omega

theorem shape18 (t : Tok) (o f0 : Nat) (a : BitVec 5) (b : BitVec 12) (ho : o < 2 ^ 6) (hf0 : f0 < 2 ^ 5) :
    ∃ w, enc2 (o * 4194304 + f0 * 4096) t a.toNat 17 b.toNat 0 = w ∧ w < 2 ^ 32 ∧ fieldNat w 22 6 = o ∧ fieldNat w 12 5 = f0 ∧ tok w = t ∧ bits w 17 5 = a ∧ bits w 0 12 = b := by
  refine ⟨pack [(2, t.pop.toNat), (2, t.push.toNat), (6, o), (5, a.toNat), (5, f0), (12, b.toNat)], ?_,
    pack_lt [(2, t.pop.toNat), (2, t.push.toNat), (6, o), (5, a.toNat), (5, f0), (12, b.toNat)] ⟨t.pop.isLt, t.push.isLt, ho, a.isLt, hf0, b.isLt, trivial⟩,
    field_pack [(2, t.pop.toNat), (2, t.push.toNat)] 6 o [(5, a.toNat), (5, f0), (12, b.toNat)] ho ⟨a.isLt, hf0, b.isLt, trivial⟩,
    field_pack [(2, t.pop.toNat), (2, t.push.toNat), (6, o), (5, a.toNat)] 5 f0 [(12, b.toNat)] hf0 ⟨b.isLt, trivial⟩,
    tok_pack t [(6, o), (5, a.toNat), (5, f0), (12, b.toNat)] ⟨ho, a.isLt, hf0, b.isLt, trivial⟩ rfl,
    bits_pack [(2, t.pop.toNat), (2, t.push.toNat), (6, o)] 5 a [(5, f0), (12, b.toNat)] ⟨hf0, b.isLt, trivial⟩,
    bits_pack [(2, t.pop.toNat), (2, t.push.toNat), (6, o), (5, a.toNat), (5, f0)] 12 b [] trivial⟩
  simp only [enc2, enc1, enc0, Tok.place, pack, width]
  omega

theorem shape19 (t : Tok) (o f0 : Nat) (a : BitVec 12) (ho : o < 2 ^ 6) (hf0 : f0 < 2 ^ 10) :
    ∃ w, enc1 (o * 4194304 + f0 * 4096) t a.toNat 0 = w ∧ w < 2 ^ 32 ∧ fieldNat w 22 6 = o ∧ fieldNat w 12 10 = f0 ∧ tok w = t ∧ bits w 0 12 = a := by
  refine ⟨pack [(2, t.pop.toNat), (2, t.push.toNat), (6, o), (10, f0), (12, a.toNat)], ?_,
    pack_lt [(2, t.pop.toNat), (2, t.push.toNat), (6, o), (10, f0), (12, a.toNat)] ⟨t.pop.isLt, t.push.isLt, ho, hf0, a.isLt, trivial⟩,
    field_pack [(2, t.pop.toNat), (2, t.push.toNat)] 6 o [(10, f0), (12, a.toNat)] ho ⟨hf0, a.isLt, trivial⟩,
    field_pack [(2, t.pop.toNat), (2, t.push.toNat), (6, o)] 10 f0 [(12, a.toNat)] hf0 ⟨a.isLt, trivial⟩,
    tok_pack t [(6, o), (10, f0), (12, a.toNat)] ⟨ho, hf0, a.isLt, trivial⟩ rfl,
    bits_pack [(2, t.pop.toNat), (2, t.push.toNat), (6, o), (10, f0)] 12 a [] trivial⟩
  simp only [enc1, enc0, Tok.place, pack, width]
  omega

theorem shape20 (t : Tok) (o : Nat) (a : BitVec 5) (b : BitVec 5) (c : BitVec 5) (d : BitVec 1) (g : BitVec 3) (h : BitVec 2) (ho : o < 2 ^ 7) :
    ∃ w, enc6 (o * 2097152) t a.toNat 16 b.toNat 11 c.toNat 6 d.toNat 5 g.toNat 2 h.toNat 0 = w ∧ w < 2 ^ 32 ∧ fieldNat w 21 7 = o ∧ tok w = t ∧ bits w 16 5 = a ∧ bits w 11 5 = b ∧ bits w 6 5 = c ∧ bits w 5 1 = d ∧ bits w 2 3 = g ∧ bits w 0 2 = h := by
  refine ⟨pack [(2, t.pop.toNat), (2, t.push.toNat), (7, o), (5, a.toNat), (5, b.toNat), (5, c.toNat), (1, d.toNat), (3, g.toNat), (2, h.toNat)], ?_,
    pack_lt [(2, t.pop.toNat), (2, t.push.toNat), (7, o), (5, a.toNat), (5, b.toNat), (5, c.toNat), (1, d.toNat), (3, g.toNat), (2, h.toNat)] ⟨t.pop.isLt, t.push.isLt, ho, a.isLt, b.isLt, c.isLt, d.isLt, g.isLt, h.isLt, trivial⟩,
    field_pack [(2, t.pop.toNat), (2, t.push.toNat)] 7 o [(5, a.toNat), (5, b.toNat), (5, c.toNat), (1, d.toNat), (3, g.toNat), (2, h.toNat)] ho ⟨a.isLt, b.isLt, c.isLt, d.isLt, g.isLt, h.isLt, trivial⟩,
    tok_pack t [(7, o), (5, a.toNat), (5, b.toNat), (5, c.toNat), (1, d.toNat), (3, g.toNat), (2, h.toNat)] ⟨ho, a.isLt, b.isLt, c.isLt, d.isLt, g.isLt, h.isLt, trivial⟩ rfl,
    bits_pack [(2, t.pop.toNat), (2, t.push.toNat), (7, o)] 5 a [(5, b.toNat), (5, c.toNat), (1, d.toNat), (3, g.toNat), (2, h.toNat)] ⟨b.isLt, c.isLt, d.isLt, g.isLt, h.isLt, trivial⟩,
    bits_pack [(2, t.pop.toNat), (2, t.push.toNat), (7, o), (5, a.toNat)] 5 b [(5, c.toNat), (1, d.toNat), (3, g.toNat), (2, h.toNat)] ⟨c.isLt, d.isLt, g.isLt, h.isLt, trivial⟩,
    bits_pack [(2, t.pop.toNat), (2, t.push.toNat), (7, o), (5, a.toNat), (5, b.toNat)] 5 c [(1, d.toNat), (3, g.toNat), (2, h.toNat)] ⟨d.isLt, g.isLt, h.isLt, trivial⟩,
    bits_pack [(2, t.pop.toNat), (2, t.push.toNat), (7, o), (5, a.toNat), (5, b.toNat), (5, c.toNat)] 1 d [(3, g.toNat), (2, h.toNat)] ⟨g.isLt, h.isLt, trivial⟩,
    bits_pack [(2, t.pop.toNat), (2, t.push.toNat), (7, o), (5, a.toNat), (5, b.toNat), (5, c.toNat), (1, d.toNat)] 3 g [(2, h.toNat)] ⟨h.isLt, trivial⟩,
    bits_pack [(2, t.pop.toNat), (2, t.push.toNat), (7, o), (5, a.toNat), (5, b.toNat), (5, c.toNat), (1, d.toNat), (3, g.toNat)] 2 h [] trivial⟩
  simp only [enc6, enc5, enc4, enc3, enc2, enc1, enc0, Tok.place, pack, width]
  omega

theorem shape21 (t : Tok) (o f0 : Nat) (a : BitVec 5) (b : BitVec 5) (c : BitVec 5) (d : BitVec 3) (g : BitVec 2) (ho : o < 2 ^ 7) (hf0 : f0 < 2 ^ 1) :
    ∃ w, enc5 (o * 2097152 + f0 * 32) t a.toNat 16 b.toNat 11 c.toNat 6 d.toNat 2 g.toNat 0 = w ∧ w < 2 ^ 32 ∧ fieldNat w 21 7 = o ∧ fieldNat w 5 1 = f0 ∧ tok w = t ∧ bits w 16 5 = a ∧ bits w 11 5 = b ∧ bits w 6 5 = c ∧ bits w 2 3 = d ∧ bits w 0 2 = g := by
  refine ⟨pack [(2, t.pop.toNat), (2, t.push.toNat), (7, o), (5, a.toNat), (5, b.toNat), (5, c.toNat), (1, f0), (3, d.toNat), (2, g.toNat)], ?_,
    pack_lt [(2, t.pop.toNat), (2, t.push.toNat), (7, o), (5, a.toNat), (5, b.toNat), (5, c.toNat), (1, f0), (3, d.toNat), (2, g.toNat)] ⟨t.pop.isLt, t.push.isLt, ho, a.isLt, b.isLt, c.isLt, hf0, d.isLt, g.isLt, trivial⟩,
    field_pack [(2, t.pop.toNat), (2, t.push.toNat)] 7 o [(5, a.toNat), (5, b.toNat), (5, c.toNat), (1, f0), (3, d.toNat), (2, g.toNat)] ho ⟨a.isLt, b.isLt, c.isLt, hf0, d.isLt, g.isLt, trivial⟩,
    field_pack [(2, t.pop.toNat), (2, t.push.toNat), (7, o), (5, a.toNat), (5, b.toNat), (5, c.toNat)] 1 f0 [(3, d.toNat), (2, g.toNat)] hf0 ⟨d.isLt, g.isLt, trivial⟩,
    tok_pack t [(7, o), (5, a.toNat), (5, b.toNat), (5, c.toNat), (1, f0), (3, d.toNat), (2, g.toNat)] ⟨ho, a.isLt, b.isLt, c.isLt, hf0, d.isLt, g.isLt, trivial⟩ rfl,
    bits_pack [(2, t.pop.toNat), (2, t.push.toNat), (7, o)] 5 a [(5, b.toNat), (5, c.toNat), (1, f0), (3, d.toNat), (2, g.toNat)] ⟨b.isLt, c.isLt, hf0, d.isLt, g.isLt, trivial⟩,
    bits_pack [(2, t.pop.toNat), (2, t.push.toNat), (7, o), (5, a.toNat)] 5 b [(5, c.toNat), (1, f0), (3, d.toNat), (2, g.toNat)] ⟨c.isLt, hf0, d.isLt, g.isLt, trivial⟩,
    bits_pack [(2, t.pop.toNat), (2, t.push.toNat), (7, o), (5, a.toNat), (5, b.toNat)] 5 c [(1, f0), (3, d.toNat), (2, g.toNat)] ⟨hf0, d.isLt, g.isLt, trivial⟩,
    bits_pack [(2, t.pop.toNat), (2, t.push.toNat), (7, o), (5, a.toNat), (5, b.toNat), (5, c.toNat), (1, f0)] 3 d [(2, g.toNat)] ⟨g.isLt, trivial⟩,
    bits_pack [(2, t.pop.toNat), (2, t.push.toNat), (7, o), (5, a.toNat), (5, b.toNat), (5, c.toNat), (1, f0), (3, d.toNat)] 2 g [] trivial⟩
  simp only [enc5, enc4, enc3, enc2, enc1, enc0, Tok.place, pack, width]
  omega

theorem shape22 (t : Tok) (o f0 f1 : Nat) (a : BitVec 5) (b : BitVec 5) (c : BitVec 1) (d : BitVec 3) (g : BitVec 1) (ho : o < 2 ^ 7) (hf0 : f0 < 2 ^ 1) (hf1 : f1 < 2 ^ 5) :
    ∃ w, enc5 (o * 2097152 + f0 * 2 + f1 * 64) t a.toNat 16 b.toNat 11 c.toNat 5 d.toNat 2 g.toNat 0 = w ∧ w < 2 ^ 32 ∧ fieldNat w 21 7 = o ∧ fieldNat w 1 1 = f0 ∧ fieldNat w 6 5 = f1 ∧ tok w = t ∧ bits w 16 5 = a ∧ bits w 11 5 = b ∧ bits w 5 1 = c ∧ bits w 2 3 = d ∧ bits w 0 1 = g := by
  refine ⟨pack [(2, t.pop.toNat), (2, t.push.toNat), (7, o), (5, a.toNat), (5, b.toNat), (5, f1), (1, c.toNat), (3, d.toNat), (1, f0), (1, g.toNat)], ?_,
    pack_lt [(2, t.pop.toNat), (2, t.push.toNat), (7, o), (5, a.toNat), (5, b.toNat), (5, f1), (1, c.toNat), (3, d.toNat), (1, f0), (1, g.toNat)] ⟨t.pop.isLt, t.push.isLt, ho, a.isLt, b.isLt, hf1, c.isLt, d.isLt, hf0, g.isLt, trivial⟩,
    field_pack [(2, t.pop.toNat), (2, t.push.toNat)] 7 o [(5, a.toNat), (5, b.toNat), (5, f1), (1, c.toNat), (3, d.toNat), (1, f0), (1, g.toNat)] ho ⟨a.isLt, b.isLt, hf1, c.isLt, d.isLt, hf0, g.isLt, trivial⟩,
    field_pack [(2, t.pop.toNat), (2, t.push.toNat), (7, o), (5, a.toNat), (5, b.toNat), (5, f1), (1, c.toNat), (3, d.toNat)] 1 f0 [(1, g.toNat)] hf0 ⟨g.isLt, trivial⟩,
    field_pack [(2, t.pop.toNat), (2, t.push.toNat), (7, o), (5, a.toNat), (5, b.toNat)] 5 f1 [(1, c.toNat), (3, d.toNat), (1, f0), (1, g.toNat)] hf1 ⟨c.isLt, d.isLt, hf0, g.isLt, trivial⟩,
    tok_pack t [(7, o), (5, a.toNat), (5, b.toNat), (5, f1), (1, c.toNat), (3, d.toNat), (1, f0), (1, g.toNat)] ⟨ho, a.isLt, b.isLt, hf1, c.isLt, d.isLt, hf0, g.isLt, trivial⟩ rfl,
    bits_pack [(2, t.pop.toNat), (2, t.push.toNat), (7, o)] 5 a [(5, b.toNat), (5, f1), (1, c.toNat), (3, d.toNat), (1, f0), (1, g.toNat)] ⟨b.isLt, hf1, c.isLt, d.isLt, hf0, g.isLt, trivial⟩,
    bits_pack [(2, t.pop.toNat), (2, t.push.toNat), (7, o), (5, a.toNat)] 5 b [(5, f1), (1, c.toNat), (3, d.toNat), (1, f0), (1, g.toNat)] ⟨hf1, c.isLt, d.isLt, hf0, g.isLt, trivial⟩,
    bits_pack [(2, t.pop.toNat), (2, t.push.toNat), (7, o), (5, a.toNat), (5, b.toNat), (5, f1)] 1 c [(3, d.toNat), (1, f0), (1, g.toNat)] ⟨d.isLt, hf0, g.isLt, trivial⟩,
    bits_pack [(2, t.pop.toNat), (2, t.push.toNat), (7, o), (5, a.toNat), (5, b.toNat), (5, f1), (1, c.toNat)] 3 d [(1, f0), (1, g.toNat)] ⟨hf0, g.isLt, trivial⟩,
    bits_pack [(2, t.pop.toNat), (2, t.push.toNat), (7, o), (5, a.toNat), (5, b.toNat), (5, f1), (1, c.toNat), (3, d.toNat), (1, f0)] 1 g [] trivial⟩
  simp only [enc5, enc4, enc3, enc2, enc1, enc0, Tok.place, pack, width]
  omega

theorem shape23 (t : Tok) (o f0 : Nat) (a : BitVec 5) (b : BitVec 5) (c : BitVec 5) (d : BitVec 1) (g : BitVec 3) (h : BitVec 1) (ho : o < 2 ^ 7) (hf0 : f0 < 2 ^ 1) :
    ∃ w, enc6 (o * 2097152 + f0 * 2) t a.toNat 16 b.toNat 11 c.toNat 6 d.toNat 5 g.toNat 2 h.toNat 0 = w ∧ w < 2 ^ 32 ∧ fieldNat w 21 7 = o ∧ fieldNat w 1 1 = f0 ∧ tok w = t ∧ bits w 16 5 = a ∧ bits w 11 5 = b ∧ bits w 6 5 = c ∧ bits w 5 1 = d ∧ bits w 2 3 = g ∧ bits w 0 1 = h := by
  refine ⟨pack [(2, t.pop.toNat), (2, t.push.toNat), (7, o), (5, a.toNat), (5, b.toNat), (5, c.toNat), (1, d.toNat), (3, g.toNat), (1, f0), (1, h.toNat)], ?_,
    pack_lt [(2, t.pop.toNat), (2, t.push.toNat), (7, o), (5, a.toNat), (5, b.toNat), (5, c.toNat), (1, d.toNat), (3, g.toNat), (1, f0), (1, h.toNat)] ⟨t.pop.isLt, t.push.isLt, ho, a.isLt, b.isLt, c.isLt, d.isLt, g.isLt, hf0, h.isLt, trivial⟩,
    field_pack [(2, t.pop.toNat), (2, t.push.toNat)] 7 o [(5, a.toNat), (5, b.toNat), (5, c.toNat), (1, d.toNat), (3, g.toNat), (1, f0), (1, h.toNat)] ho ⟨a.isLt, b.isLt, c.isLt, d.isLt, g.isLt, hf0, h.isLt, trivial⟩,
    field_pack [(2, t.pop.toNat), (2, t.push.toNat), (7, o), (5, a.toNat), (5, b.toNat), (5, c.toNat), (1, d.toNat), (3, g.toNat)] 1 f0 [(1, h.toNat)] hf0 ⟨h.isLt, trivial⟩,
    tok_pack t [(7, o), (5, a.toNat), (5, b.toNat), (5, c.toNat), (1, d.toNat), (3, g.toNat), (1, f0), (1, h.toNat)] ⟨ho, a.isLt, b.isLt, c.isLt, d.isLt, g.isLt, hf0, h.isLt, trivial⟩ rfl,
    bits_pack [(2, t.pop.toNat), (2, t.push.toNat), (7, o)] 5 a [(5, b.toNat), (5, c.toNat), (1, d.toNat), (3, g.toNat), (1, f0), (1, h.toNat)] ⟨b.isLt, c.isLt, d.isLt, g.isLt, hf0, h.isLt, trivial⟩,
    bits_pack [(2, t.pop.toNat), (2, t.push.toNat), (7, o), (5, a.toNat)] 5 b [(5, c.toNat), (1, d.toNat), (3, g.toNat), (1, f0), (1, h.toNat)] ⟨c.isLt, d.isLt, g.isLt, hf0, h.isLt, trivial⟩,
    bits_pack [(2, t.pop.toNat), (2, t.push.toNat), (7, o), (5, a.toNat), (5, b.toNat)] 5 c [(1, d.toNat), (3, g.toNat), (1, f0), (1, h.toNat)] ⟨d.isLt, g.isLt, hf0, h.isLt, trivial⟩,
    bits_pack [(2, t.pop.toNat), (2, t.push.toNat), (7, o), (5, a.toNat), (5, b.toNat), (5, c.toNat)] 1 d [(3, g.toNat), (1, f0), (1, h.toNat)] ⟨g.isLt, hf0, h.isLt, trivial⟩,
    bits_pack [(2, t.pop.toNat), (2, t.push.toNat), (7, o), (5, a.toNat), (5, b.toNat), (5, c.toNat), (1, d.toNat)] 3 g [(1, f0), (1, h.toNat)] ⟨hf0, h.isLt, trivial⟩,
    bits_pack [(2, t.pop.toNat), (2, t.push.toNat), (7, o), (5, a.toNat), (5, b.toNat), (5, c.toNat), (1, d.toNat), (3, g.toNat), (1, f0)] 1 h [] trivial⟩
  simp only [enc6, enc5, enc4, enc3, enc2, enc1, enc0, Tok.place, pack, width]
  omega

theorem shape24 (t : Tok) (o f0 f1 : Nat) (a : BitVec 3) (b : BitVec 5) (c : BitVec 5) (d : BitVec 3) (g : BitVec 2) (ho : o < 2 ^ 7) (hf0 : f0 < 2 ^ 1) (hf1 : f1 < 2 ^ 2) :
    ∃ w, enc5 (o * 2097152 + f0 * 32 + f1 * 524288) t a.toNat 16 b.toNat 11 c.toNat 6 d.toNat 2 g.toNat 0 = w ∧ w < 2 ^ 32 ∧ fieldNat w 21 7 = o ∧ fieldNat w 5 1 = f0 ∧ fieldNat w 19 2 = f1 ∧ tok w = t ∧ bits w 16 3 = a ∧ bits w 11 5 = b ∧ bits w 6 5 = c ∧ bits w 2 3 = d ∧ bits w 0 2 = g := by
  refine ⟨pack [(2, t.pop.toNat), (2, t.push.toNat), (7, o), (2, f1), (3, a.toNat), (5, b.toNat), (5, c.toNat), (1, f0), (3, d.toNat), (2, g.toNat)], ?_,
    pack_lt [(2, t.pop.toNat), (2, t.push.toNat), (7, o), (2, f1), (3, a.toNat), (5, b.toNat), (5, c.toNat), (1, f0), (3, d.toNat), (2, g.toNat)] ⟨t.pop.isLt, t.push.isLt, ho, hf1, a.isLt, b.isLt, c.isLt, hf0, d.isLt, g.isLt, trivial⟩,
    field_pack [(2, t.pop.toNat), (2, t.push.toNat)] 7 o [(2, f1), (3, a.toNat), (5, b.toNat), (5, c.toNat), (1, f0), (3, d.toNat), (2, g.toNat)] ho ⟨hf1, a.isLt, b.isLt, c.isLt, hf0, d.isLt, g.isLt, trivial⟩,
    field_pack [(2, t.pop.toNat), (2, t.push.toNat), (7, o), (2, f1), (3, a.toNat), (5, b.toNat), (5, c.toNat)] 1 f0 [(3, d.toNat), (2, g.toNat)] hf0 ⟨d.isLt, g.isLt, trivial⟩,
    field_pack [(2, t.pop.toNat), (2, t.push.toNat), (7, o)] 2 f1 [(3, a.toNat), (5, b.toNat), (5, c.toNat), (1, f0), (3, d.toNat), (2, g.toNat)] hf1 ⟨a.isLt, b.isLt, c.isLt, hf0, d.isLt, g.isLt, trivial⟩,
    tok_pack t [(7, o), (2, f1), (3, a.toNat), (5, b.toNat), (5, c.toNat), (1, f0), (3, d.toNat), (2, g.toNat)] ⟨ho, hf1, a.isLt, b.isLt, c.isLt, hf0, d.isLt, g.isLt, trivial⟩ rfl,
    bits_pack [(2, t.pop.toNat), (2, t.push.toNat), (7, o), (2, f1)] 3 a [(5, b.toNat), (5, c.toNat), (1, f0), (3, d.toNat), (2, g.toNat)] ⟨b.isLt, c.isLt, hf0, d.isLt, g.isLt, trivial⟩,
    bits_pack [(2, t.pop.toNat), (2, t.push.toNat), (7, o), (2, f1), (3, a.toNat)] 5 b [(5, c.toNat), (1, f0), (3, d.toNat), (2, g.toNat)] ⟨c.isLt, hf0, d.isLt, g.isLt, trivial⟩,
    bits_pack [(2, t.pop.toNat), (2, t.push.toNat), (7, o), (2, f1), (3, a.toNat), (5, b.toNat)] 5 c [(1, f0), (3, d.toNat), (2, g.toNat)] ⟨hf0, d.isLt, g.isLt, trivial⟩,
    bits_pack [(2, t.pop.toNat), (2, t.push.toNat), (7, o), (2, f1), (3, a.toNat), (5, b.toNat), (5, c.toNat), (1, f0)] 3 d [(2, g.toNat)] ⟨g.isLt, trivial⟩,
    bits_pack [(2, t.pop.toNat), (2, t.push.toNat), (7, o), (2, f1), (3, a.toNat), (5, b.toNat), (5, c.toNat), (1, f0), (3, d.toNat)] 2 g [] trivial⟩
  simp only [enc5, enc4, enc3, enc2, enc1, enc0, Tok.place, pack, width]
  omega

theorem shape25 (t : Tok) (o f0 f1 f2 : Nat) (a : BitVec 5) (b : BitVec 3) (c : BitVec 3) (ho : o < 2 ^ 7) (hf0 : f0 < 2 ^ 6) (hf1 : f1 < 2 ^ 2) (hf2 : f2 < 2 ^ 2) :
    ∃ w, enc3 (o * 2097152 + f0 * 1 + f1 * 512 + f2 * 16384) t a.toNat 16 b.toNat 11 c.toNat 6 = w ∧ w < 2 ^ 32 ∧ fieldNat w 21 7 = o ∧ fieldNat w 0 6 = f0 ∧ fieldNat w 9 2 = f1 ∧ fieldNat w 14 2 = f2 ∧ tok w = t ∧ bits w 16 5 = a ∧ bits w 11 3 = b ∧ bits w 6 3 = c := by
  refine ⟨pack [(2, t.pop.toNat), (2, t.push.toNat), (7, o), (5, a.toNat), (2, f2), (3, b.toNat), (2, f1), (3, c.toNat), (6, f0)], ?_,
    pack_lt [(2, t.pop.toNat), (2, t.push.toNat), (7, o), (5, a.toNat), (2, f2), (3, b.toNat), (2, f1), (3, c.toNat), (6, f0)] ⟨t.pop.isLt, t.push.isLt, ho, a.isLt, hf2, b.isLt, hf1, c.isLt, hf0, trivial⟩,
    field_pack [(2, t.pop.toNat), (2, t.push.toNat)] 7 o [(5, a.toNat), (2, f2), (3, b.toNat), (2, f1), (3, c.toNat), (6, f0)] ho ⟨a.isLt, hf2, b.isLt, hf1, c.isLt, hf0, trivial⟩,
    field_pack [(2, t.pop.toNat), (2, t.push.toNat), (7, o), (5, a.toNat), (2, f2), (3, b.toNat), (2, f1), (3, c.toNat)] 6 f0 [] hf0 trivial,
    field_pack [(2, t.pop.toNat), (2, t.push.toNat), (7, o), (5, a.toNat), (2, f2), (3, b.toNat)] 2 f1 [(3, c.toNat), (6, f0)] hf1 ⟨c.isLt, hf0, trivial⟩,
    field_pack [(2, t.pop.toNat), (2, t.push.toNat), (7, o), (5, a.toNat)] 2 f2 [(3, b.toNat), (2, f1), (3, c.toNat), (6, f0)] hf2 ⟨b.isLt, hf1, c.isLt, hf0, trivial⟩,
    tok_pack t [(7, o), (5, a.toNat), (2, f2), (3, b.toNat), (2, f1), (3, c.toNat), (6, f0)] ⟨ho, a.isLt, hf2, b.isLt, hf1, c.isLt, hf0, trivial⟩ rfl,
    bits_pack [(2, t.pop.toNat), (2, t.push.toNat), (7, o)] 5 a [(2, f2), (3, b.toNat), (2, f1), (3, c.toNat), (6, f0)] ⟨hf2, b.isLt, hf1, c.isLt, hf0, trivial⟩,
    bits_pack [(2, t.pop.toNat), (2, t.push.toNat), (7, o), (5, a.toNat), (2, f2)] 3 b [(2, f1), (3, c.toNat), (6, f0)] ⟨hf1, c.isLt, hf0, trivial⟩,
    bits_pack [(2, t.pop.toNat), (2, t.push.toNat), (7, o), (5, a.toNat), (2, f2), (3, b.toNat), (2, f1)] 3 c [(6, f0)] ⟨hf0, trivial⟩⟩
  simp only [enc3, enc2, enc1, enc0, Tok.place, pack, width]
  omega

theorem shape26 (t : Tok) (o f0 f1 : Nat) (a : BitVec 5) (b : BitVec 3) (ho : o < 2 ^ 7) (hf0 : f0 < 2 ^ 11) (hf1 : f1 < 2 ^ 2) :
    ∃ w, enc2 (o * 2097152 + f0 * 1 + f1 * 16384) t a.toNat 16 b.toNat 11 = w ∧ w < 2 ^ 32 ∧ fieldNat w 21 7 = o ∧ fieldNat w 0 11 = f0 ∧ fieldNat w 14 2 = f1 ∧ tok w = t ∧ bits w 16 5 = a ∧ bits w 11 3 = b := by
  refine ⟨pack [(2, t.pop.toNat), (2, t.push.toNat), (7, o), (5, a.toNat), (2, f1), (3, b.toNat), (11, f0)], ?_,
    pack_lt [(2, t.pop.toNat), (2, t.push.toNat), (7, o), (5, a.toNat), (2, f1), (3, b.toNat), (11, f0)] ⟨t.pop.isLt, t.push.isLt, ho, a.isLt, hf1, b.isLt, hf0, trivial⟩,
    field_pack [(2, t.pop.toNat), (2, t.push.toNat)] 7 o [(5, a.toNat), (2, f1), (3, b.toNat), (11, f0)] ho ⟨a.isLt, hf1, b.isLt, hf0, trivial⟩,
    field_pack [(2, t.pop.toNat), (2, t.push.toNat), (7, o), (5, a.toNat), (2, f1), (3, b.toNat)] 11 f0 [] hf0 trivial,
    field_pack [(2, t.pop.toNat), (2, t.push.toNat), (7, o), (5, a.toNat)] 2 f1 [(3, b.toNat), (11, f0)] hf1 ⟨b.isLt, hf0, trivial⟩,
    tok_pack t [(7, o), (5, a.toNat), (2, f1), (3, b.toNat), (11, f0)] ⟨ho, a.isLt, hf1, b.isLt, hf0, trivial⟩ rfl,
    bits_pack [(2, t.pop.toNat), (2, t.push.toNat), (7, o)] 5 a [(2, f1), (3, b.toNat), (11, f0)] ⟨hf1, b.isLt, hf0, trivial⟩,
    bits_pack [(2, t.pop.toNat), (2, t.push.toNat), (7, o), (5, a.toNat), (2, f1)] 3 b [(11, f0)] ⟨hf0, trivial⟩⟩
  simp only [enc2, enc1, enc0, Tok.place, pack, width]
  omega

theorem shape27 (t : Tok) (o f0 : Nat) (a : BitVec 5) (b : BitVec 10) (c : BitVec 1) (d : BitVec 3) (ho : o < 2 ^ 7) (hf0 : f0 < 2 ^ 2) :
    ∃ w, enc4 (o * 2097152 + f0 * 1) t a.toNat 16 b.toNat 6 c.toNat 5 d.toNat 2 = w ∧ w < 2 ^ 32 ∧ fieldNat w 21 7 = o ∧ fieldNat w 0 2 = f0 ∧ tok w = t ∧ bits w 16 5 = a ∧ bits w 6 10 = b ∧ bits w 5 1 = c ∧ bits w 2 3 = d := by
  refine ⟨pack [(2, t.pop.toNat), (2, t.push.toNat), (7, o), (5, a.toNat), (10, b.toNat), (1, c.toNat), (3, d.toNat), (2, f0)], ?_,
    pack_lt [(2, t.pop.toNat), (2, t.push.toNat), (7, o), (5, a.toNat), (10, b.toNat), (1, c.toNat), (3, d.toNat), (2, f0)] ⟨t.pop.isLt, t.push.isLt, ho, a.isLt, b.isLt, c.isLt, d.isLt, hf0, trivial⟩,
    field_pack [(2, t.pop.toNat), (2, t.push.toNat)] 7 o [(5, a.toNat), (10, b.toNat), (1, c.toNat), (3, d.toNat), (2, f0)] ho ⟨a.isLt, b.isLt, c.isLt, d.isLt, hf0, trivial⟩,
    field_pack [(2, t.pop.toNat), (2, t.push.toNat), (7, o), (5, a.toNat), (10, b.toNat), (1, c.toNat), (3, d.toNat)] 2 f0 [] hf0 trivial,
    tok_pack t [(7, o), (5, a.toNat), (10, b.toNat), (1, c.toNat), (3, d.toNat), (2, f0)] ⟨ho, a.isLt, b.isLt, c.isLt, d.isLt, hf0, trivial⟩ rfl,
    bits_pack [(2, t.pop.toNat), (2, t.push.toNat), (7, o)] 5 a [(10, b.toNat), (1, c.toNat), (3, d.toNat), (2, f0)] ⟨b.isLt, c.isLt, d.isLt, hf0, trivial⟩,
    bits_pack [(2, t.pop.toNat), (2, t.push.toNat), (7, o), (5, a.toNat)] 10 b [(1, c.toNat), (3, d.toNat), (2, f0)] ⟨c.isLt, d.isLt, hf0, trivial⟩,
    bits_pack [(2, t.pop.toNat), (2, t.push.toNat), (7, o), (5, a.toNat), (10, b.toNat)] 1 c [(3, d.toNat), (2, f0)] ⟨d.isLt, hf0, trivial⟩,
    bits_pack [(2, t.pop.toNat), (2, t.push.toNat), (7, o), (5, a.toNat), (10, b.toNat), (1, c.toNat)] 3 d [(2, f0)] ⟨hf0, trivial⟩⟩
  simp only [enc4, enc3, enc2, enc1, enc0, Tok.place, pack, width]
  omega

theorem shape28 (t : Tok) (o f0 f1 : Nat) (a : BitVec 5) (b : BitVec 1) (c : BitVec 3) (ho : o < 2 ^ 7) (hf0 : f0 < 2 ^ 2) (hf1 : f1 < 2 ^ 10) :
    ∃ w, enc3 (o * 2097152 + f0 * 1 + f1 * 64) t a.toNat 16 b.toNat 5 c.toNat 2 = w ∧ w < 2 ^ 32 ∧ fieldNat w 21 7 = o ∧ fieldNat w 0 2 = f0 ∧ fieldNat w 6 10 = f1 ∧ tok w = t ∧ bits w 16 5 = a ∧ bits w 5 1 = b ∧ bits w 2 3 = c := by
  refine ⟨pack [(2, t.pop.toNat), (2, t.push.toNat), (7, o), (5, a.toNat), (10, f1), (1, b.toNat), (3, c.toNat), (2, f0)], ?_,
    pack_lt [(2, t.pop.toNat), (2, t.push.toNat), (7, o), (5, a.toNat), (10, f1), (1, b.toNat), (3, c.toNat), (2, f0)] ⟨t.pop.isLt, t.push.isLt, ho, a.isLt, hf1, b.isLt, c.isLt, hf0, trivial⟩,
    field_pack [(2, t.pop.toNat), (2, t.push.toNat)] 7 o [(5, a.toNat), (10, f1), (1, b.toNat), (3, c.toNat), (2, f0)] ho ⟨a.isLt, hf1, b.isLt, c.isLt, hf0, trivial⟩,
    field_pack [(2, t.pop.toNat), (2, t.push.toNat), (7, o), (5, a.toNat), (10, f1), (1, b.toNat), (3, c.toNat)] 2 f0 [] hf0 trivial,
    field_pack [(2, t.pop.toNat), (2, t.push.toNat), (7, o), (5, a.toNat)] 10 f1 [(1, b.toNat), (3, c.toNat), (2, f0)] hf1 ⟨b.isLt, c.isLt, hf0, trivial⟩,
    tok_pack t [(7, o), (5, a.toNat), (10, f1), (1, b.toNat), (3, c.toNat), (2, f0)] ⟨ho, a.isLt, hf1, b.isLt, c.isLt, hf0, trivial⟩ rfl,
    bits_pack [(2, t.pop.toNat), (2, t.push.toNat), (7, o)] 5 a [(10, f1), (1, b.toNat), (3, c.toNat), (2, f0)] ⟨hf1, b.isLt, c.isLt, hf0, trivial⟩,
    bits_pack [(2, t.pop.toNat), (2, t.push.toNat), (7, o), (5, a.toNat), (10, f1)] 1 b [(3, c.toNat), (2, f0)] ⟨c.isLt, hf0, trivial⟩,
    bits_pack [(2, t.pop.toNat), (2, t.push.toNat), (7, o), (5, a.toNat), (10, f1), (1, b.toNat)] 3 c [(2, f0)] ⟨hf0, trivial⟩⟩
  simp only [enc3, enc2, enc1, enc0, Tok.place, pack, width]
  omega

theorem shape29 (t : Tok) (o f0 f1 : Nat) (a : BitVec 2) (b : BitVec 5) (c : BitVec 5) (d : BitVec 4) (g : BitVec 1) (h : BitVec 3) (i : BitVec 1) (ho : o < 2 ^ 5) (hf0 : f0 < 2 ^ 1) (hf1 : f1 < 2 ^ 1) :
    ∃ w, enc7 (o * 8388608 + f0 * 2 + f1 * 1024) t a.toNat 21 b.toNat 16 c.toNat 11 d.toNat 6 g.toNat 5 h.toNat 2 i.toNat 0 = w ∧ w < 2 ^ 32 ∧ fieldNat w 23 5 = o ∧ fieldNat w 1 1 = f0 ∧ fieldNat w 10 1 = f1 ∧ tok w = t ∧ bits w 21 2 = a ∧ bits w 16 5 = b ∧ bits w 11 5 = c ∧ bits w 6 4 = d ∧ bits w 5 1 = g ∧ bits w 2 3 = h ∧ bits w 0 1 = i := by
  refine ⟨pack [(2, t.pop.toNat), (2, t.push.toNat), (5, o), (2, a.toNat), (5, b.toNat), (5, c.toNat), (1, f1), (4, d.toNat), (1, g.toNat), (3, h.toNat), (1, f0), (1, i.toNat)], ?_,
    pack_lt [(2, t.pop.toNat), (2, t.push.toNat), (5, o), (2, a.toNat), (5, b.toNat), (5, c.toNat), (1, f1), (4, d.toNat), (1, g.toNat), (3, h.toNat), (1, f0), (1, i.toNat)] ⟨t.pop.isLt, t.push.isLt, ho, a.isLt, b.isLt, c.isLt, hf1, d.isLt, g.isLt, h.isLt, hf0, i.isLt, trivial⟩,
    field_pack [(2, t.pop.toNat), (2, t.push.toNat)] 5 o [(2, a.toNat), (5, b.toNat), (5, c.toNat), (1, f1), (4, d.toNat), (1, g.toNat), (3, h.toNat), (1, f0), (1, i.toNat)] ho ⟨a.isLt, b.isLt, c.isLt, hf1, d.isLt, g.isLt, h.isLt, hf0, i.isLt, trivial⟩,
    field_pack [(2, t.pop.toNat), (2, t.push.toNat), (5, o), (2, a.toNat), (5, b.toNat), (5, c.toNat), (1, f1), (4, d.toNat), (1, g.toNat), (3, h.toNat)] 1 f0 [(1, i.toNat)] hf0 ⟨i.isLt, trivial⟩,
    field_pack [(2, t.pop.toNat), (2, t.push.toNat), (5, o), (2, a.toNat), (5, b.toNat), (5, c.toNat)] 1 f1 [(4, d.toNat), (1, g.toNat), (3, h.toNat), (1, f0), (1, i.toNat)] hf1 ⟨d.isLt, g.isLt, h.isLt, hf0, i.isLt, trivial⟩,
    tok_pack t [(5, o), (2, a.toNat), (5, b.toNat), (5, c.toNat), (1, f1), (4, d.toNat), (1, g.toNat), (3, h.toNat), (1, f0), (1, i.toNat)] ⟨ho, a.isLt, b.isLt, c.isLt, hf1, d.isLt, g.isLt, h.isLt, hf0, i.isLt, trivial⟩ rfl,
    bits_pack [(2, t.pop.toNat), (2, t.push.toNat), (5, o)] 2 a [(5, b.toNat), (5, c.toNat), (1, f1), (4, d.toNat), (1, g.toNat), (3, h.toNat), (1, f0), (1, i.toNat)] ⟨b.isLt, c.isLt, hf1, d.isLt, g.isLt, h.isLt, hf0, i.isLt, trivial⟩,
    bits_pack [(2, t.pop.toNat), (2, t.push.toNat), (5, o), (2, a.toNat)] 5 b [(5, c.toNat), (1, f1), (4, d.toNat), (1, g.toNat), (3, h.toNat), (1, f0), (1, i.toNat)] ⟨c.isLt, hf1, d.isLt, g.isLt, h.isLt, hf0, i.isLt, trivial⟩,
    bits_pack [(2, t.pop.toNat), (2, t.push.toNat), (5, o), (2, a.toNat), (5, b.toNat)] 5 c [(1, f1), (4, d.toNat), (1, g.toNat), (3, h.toNat), (1, f0), (1, i.toNat)] ⟨hf1, d.isLt, g.isLt, h.isLt, hf0, i.isLt, trivial⟩,
    bits_pack [(2, t.pop.toNat), (2, t.push.toNat), (5, o), (2, a.toNat), (5, b.toNat), (5, c.toNat), (1, f1)] 4 d [(1, g.toNat), (3, h.toNat), (1, f0), (1, i.toNat)] ⟨g.isLt, h.isLt, hf0, i.isLt, trivial⟩,
    bits_pack [(2, t.pop.toNat), (2, t.push.toNat), (5, o), (2, a.toNat), (5, b.toNat), (5, c.toNat), (1, f1), (4, d.toNat)] 1 g [(3, h.toNat), (1, f0), (1, i.toNat)] ⟨h.isLt, hf0, i.isLt, trivial⟩,
    bits_pack [(2, t.pop.toNat), (2, t.push.toNat), (5, o), (2, a.toNat), (5, b.toNat), (5, c.toNat), (1, f1), (4, d.toNat), (1, g.toNat)] 3 h [(1, f0), (1, i.toNat)] ⟨hf0, i.isLt, trivial⟩,
    bits_pack [(2, t.pop.toNat), (2, t.push.toNat), (5, o), (2, a.toNat), (5, b.toNat), (5, c.toNat), (1, f1), (4, d.toNat), (1, g.toNat), (3, h.toNat), (1, f0)] 1 i [] trivial⟩
  simp only [enc7, enc6, enc5, enc4, enc3, enc2, enc1, enc0, Tok.place, pack, width]
  omega

theorem shape30 (t : Tok) (o f0 f1 : Nat) (a : BitVec 5) (b : BitVec 5) (c : BitVec 4) (d : BitVec 1) (g : BitVec 3) (h : BitVec 1) (ho : o < 2 ^ 7) (hf0 : f0 < 2 ^ 1) (hf1 : f1 < 2 ^ 1) :
    ∃ w, enc6 (o * 2097152 + f0 * 2 + f1 * 1024) t a.toNat 16 b.toNat 11 c.toNat 6 d.toNat 5 g.toNat 2 h.toNat 0 = w ∧ w < 2 ^ 32 ∧ fieldNat w 21 7 = o ∧ fieldNat w 1 1 = f0 ∧ fieldNat w 10 1 = f1 ∧ tok w = t ∧ bits w 16 5 = a ∧ bits w 11 5 = b ∧ bits w 6 4 = c ∧ bits w 5 1 = d ∧ bits w 2 3 = g ∧ bits w 0 1 = h := by
  refine ⟨pack [(2, t.pop.toNat), (2, t.push.toNat), (7, o), (5, a.toNat), (5, b.toNat), (1, f1), (4, c.toNat), (1, d.toNat), (3, g.toNat), (1, f0), (1, h.toNat)], ?_,
    pack_lt [(2, t.pop.toNat), (2, t.push.toNat), (7, o), (5, a.toNat), (5, b.toNat), (1, f1), (4, c.toNat), (1, d.toNat), (3, g.toNat), (1, f0), (1, h.toNat)] ⟨t.pop.isLt, t.push.isLt, ho, a.isLt, b.isLt, hf1, c.isLt, d.isLt, g.isLt, hf0, h.isLt, trivial⟩,
    field_pack [(2, t.pop.toNat), (2, t.push.toNat)] 7 o [(5, a.toNat), (5, b.toNat), (1, f1), (4, c.toNat), (1, d.toNat), (3, g.toNat), (1, f0), (1, h.toNat)] ho ⟨a.isLt, b.isLt, hf1, c.isLt, d.isLt, g.isLt, hf0, h.isLt, trivial⟩,
    field_pack [(2, t.pop.toNat), (2, t.push.toNat), (7, o), (5, a.toNat), (5, b.toNat), (1, f1), (4, c.toNat), (1, d.toNat), (3, g.toNat)] 1 f0 [(1, h.toNat)] hf0 ⟨h.isLt, trivial⟩,
    field_pack [(2, t.pop.toNat), (2, t.push.toNat), (7, o), (5, a.toNat), (5, b.toNat)] 1 f1 [(4, c.toNat), (1, d.toNat), (3, g.toNat), (1, f0), (1, h.toNat)] hf1 ⟨c.isLt, d.isLt, g.isLt, hf0, h.isLt, trivial⟩,
    tok_pack t [(7, o), (5, a.toNat), (5, b.toNat), (1, f1), (4, c.toNat), (1, d.toNat), (3, g.toNat), (1, f0), (1, h.toNat)] ⟨ho, a.isLt, b.isLt, hf1, c.isLt, d.isLt, g.isLt, hf0, h.isLt, trivial⟩ rfl,
    bits_pack [(2, t.pop.toNat), (2, t.push.toNat), (7, o)] 5 a [(5, b.toNat), (1, f1), (4, c.toNat), (1, d.toNat), (3, g.toNat), (1, f0), (1, h.toNat)] ⟨b.isLt, hf1, c.isLt, d.isLt, g.isLt, hf0, h.isLt, trivial⟩,
    bits_pack [(2, t.pop.toNat), (2, t.push.toNat), (7, o), (5, a.toNat)] 5 b [(1, f1), (4, c.toNat), (1, d.toNat), (3, g.toNat), (1, f0), (1, h.toNat)] ⟨hf1, c.isLt, d.isLt, g.isLt, hf0, h.isLt, trivial⟩,
    bits_pack [(2, t.pop.toNat), (2, t.push.toNat), (7, o), (5, a.toNat), (5, b.toNat), (1, f1)] 4 c [(1, d.toNat), (3, g.toNat), (1, f0), (1, h.toNat)] ⟨d.isLt, g.isLt, hf0, h.isLt, trivial⟩,
    bits_pack [(2, t.pop.toNat), (2, t.push.toNat), (7, o), (5, a.toNat), (5, b.toNat), (1, f1), (4, c.toNat)] 1 d [(3, g.toNat), (1, f0), (1, h.toNat)] ⟨g.isLt, hf0, h.isLt, trivial⟩,
    bits_pack [(2, t.pop.toNat), (2, t.push.toNat), (7, o), (5, a.toNat), (5, b.toNat), (1, f1), (4, c.toNat), (1, d.toNat)] 3 g [(1, f0), (1, h.toNat)] ⟨hf0, h.isLt, trivial⟩,
    bits_pack [(2, t.pop.toNat), (2, t.push.toNat), (7, o), (5, a.toNat), (5, b.toNat), (1, f1), (4, c.toNat), (1, d.toNat), (3, g.toNat), (1, f0)] 1 h [] trivial⟩
  simp only [enc6, enc5, enc4, enc3, enc2, enc1, enc0, Tok.place, pack, width]
  omega

theorem shape31 (t : Tok) (o f0 f1 : Nat) (a : BitVec 5) (b : BitVec 5) (c : BitVec 3) (d : BitVec 2) (ho : o < 2 ^ 7) (hf0 : f0 < 2 ^ 1) (hf1 : f1 < 2 ^ 5) :
    ∃ w, enc4 (o * 2097152 + f0 * 32 + f1 * 65536) t a.toNat 11 b.toNat 6 c.toNat 2 d.toNat 0 = w ∧ w < 2 ^ 32 ∧ fieldNat w 21 7 = o ∧ fieldNat w 5 1 = f0 ∧ fieldNat w 16 5 = f1 ∧ tok w = t ∧ bits w 11 5 = a ∧ bits w 6 5 = b ∧ bits w 2 3 = c ∧ bits w 0 2 = d := by
  refine ⟨pack [(2, t.pop.toNat), (2, t.push.toNat), (7, o), (5, f1), (5, a.toNat), (5, b.toNat), (1, f0), (3, c.toNat), (2, d.toNat)], ?_,
    pack_lt [(2, t.pop.toNat), (2, t.push.toNat), (7, o), (5, f1), (5, a.toNat), (5, b.toNat), (1, f0), (3, c.toNat), (2, d.toNat)] ⟨t.pop.isLt, t.push.isLt, ho, hf1, a.isLt, b.isLt, hf0, c.isLt, d.isLt, trivial⟩,
    field_pack [(2, t.pop.toNat), (2, t.push.toNat)] 7 o [(5, f1), (5, a.toNat), (5, b.toNat), (1, f0), (3, c.toNat), (2, d.toNat)] ho ⟨hf1, a.isLt, b.isLt, hf0, c.isLt, d.isLt, trivial⟩,
    field_pack [(2, t.pop.toNat), (2, t.push.toNat), (7, o), (5, f1), (5, a.toNat), (5, b.toNat)] 1 f0 [(3, c.toNat), (2, d.toNat)] hf0 ⟨c.isLt, d.isLt, trivial⟩,
    field_pack [(2, t.pop.toNat), (2, t.push.toNat), (7, o)] 5 f1 [(5, a.toNat), (5, b.toNat), (1, f0), (3, c.toNat), (2, d.toNat)] hf1 ⟨a.isLt, b.isLt, hf0, c.isLt, d.isLt, trivial⟩,
    tok_pack t [(7, o), (5, f1), (5, a.toNat), (5, b.toNat), (1, f0), (3, c.toNat), (2, d.toNat)] ⟨ho, hf1, a.isLt, b.isLt, hf0, c.isLt, d.isLt, trivial⟩ rfl,
    bits_pack [(2, t.pop.toNat), (2, t.push.toNat), (7, o), (5, f1)] 5 a [(5, b.toNat), (1, f0), (3, c.toNat), (2, d.toNat)] ⟨b.isLt, hf0, c.isLt, d.isLt, trivial⟩,
    bits_pack [(2, t.pop.toNat), (2, t.push.toNat), (7, o), (5, f1), (5, a.toNat)] 5 b [(1, f0), (3, c.toNat), (2, d.toNat)] ⟨hf0, c.isLt, d.isLt, trivial⟩,
    bits_pack [(2, t.pop.toNat), (2, t.push.toNat), (7, o), (5, f1), (5, a.toNat), (5, b.toNat), (1, f0)] 3 c [(2, d.toNat)] ⟨d.isLt, trivial⟩,
    bits_pack [(2, t.pop.toNat), (2, t.push.toNat), (7, o), (5, f1), (5, a.toNat), (5, b.toNat), (1, f0), (3, c.toNat)] 2 d [] trivial⟩
  simp only [enc4, enc3, enc2, enc1, enc0, Tok.place, pack, width]
  omega

theorem shape32 (t : Tok) (o f0 f1 : Nat) (a : BitVec 4) (b : BitVec 5) (c : BitVec 5) (d : BitVec 3) (g : BitVec 2) (ho : o < 2 ^ 7) (hf0 : f0 < 2 ^ 1) (hf1 : f1 < 2 ^ 1) :
    ∃ w, enc5 (o * 2097152 + f0 * 32 + f1 * 1048576) t a.toNat 16 b.toNat 11 c.toNat 6 d.toNat 2 g.toNat 0 = w ∧ w < 2 ^ 32 ∧ fieldNat w 21 7 = o ∧ fieldNat w 5 1 = f0 ∧ fieldNat w 20 1 = f1 ∧ tok w = t ∧ bits w 16 4 = a ∧ bits w 11 5 = b ∧ bits w 6 5 = c ∧ bits w 2 3 = d ∧ bits w 0 2 = g := by
  refine ⟨pack [(2, t.pop.toNat), (2, t.push.toNat), (7, o), (1, f1), (4, a.toNat), (5, b.toNat), (5, c.toNat), (1, f0), (3, d.toNat), (2, g.toNat)], ?_,
    pack_lt [(2, t.pop.toNat), (2, t.push.toNat), (7, o), (1, f1), (4, a.toNat), (5, b.toNat), (5, c.toNat), (1, f0), (3, d.toNat), (2, g.toNat)] ⟨t.pop.isLt, t.push.isLt, ho, hf1, a.isLt, b.isLt, c.isLt, hf0, d.isLt, g.isLt, trivial⟩,
    field_pack [(2, t.pop.toNat), (2, t.push.toNat)] 7 o [(1, f1), (4, a.toNat), (5, b.toNat), (5, c.toNat), (1, f0), (3, d.toNat), (2, g.toNat)] ho ⟨hf1, a.isLt, b.isLt, c.isLt, hf0, d.isLt, g.isLt, trivial⟩,
    field_pack [(2, t.pop.toNat), (2, t.push.toNat), (7, o), (1, f1), (4, a.toNat), (5, b.toNat), (5, c.toNat)] 1 f0 [(3, d.toNat), (2, g.toNat)] hf0 ⟨d.isLt, g.isLt, trivial⟩,
    field_pack [(2, t.pop.toNat), (2, t.push.toNat), (7, o)] 1 f1 [(4, a.toNat), (5, b.toNat), (5, c.toNat), (1, f0), (3, d.toNat), (2, g.toNat)] hf1 ⟨a.isLt, b.isLt, c.isLt, hf0, d.isLt, g.isLt, trivial⟩,
    tok_pack t [(7, o), (1, f1), (4, a.toNat), (5, b.toNat), (5, c.toNat), (1, f0), (3, d.toNat), (2, g.toNat)] ⟨ho, hf1, a.isLt, b.isLt, c.isLt, hf0, d.isLt, g.isLt, trivial⟩ rfl,
    bits_pack [(2, t.pop.toNat), (2, t.push.toNat), (7, o), (1, f1)] 4 a [(5, b.toNat), (5, c.toNat), (1, f0), (3, d.toNat), (2, g.toNat)] ⟨b.isLt, c.isLt, hf0, d.isLt, g.isLt, trivial⟩,
    bits_pack [(2, t.pop.toNat), (2, t.push.toNat), (7, o), (1, f1), (4, a.toNat)] 5 b [(5, c.toNat), (1, f0), (3, d.toNat), (2, g.toNat)] ⟨c.isLt, hf0, d.isLt, g.isLt, trivial⟩,
    bits_pack [(2, t.pop.toNat), (2, t.push.toNat), (7, o), (1, f1), (4, a.toNat), (5, b.toNat)] 5 c [(1, f0), (3, d.toNat), (2, g.toNat)] ⟨hf0, d.isLt, g.isLt, trivial⟩,
    bits_pack [(2, t.pop.toNat), (2, t.push.toNat), (7, o), (1, f1), (4, a.toNat), (5, b.toNat), (5, c.toNat), (1, f0)] 3 d [(2, g.toNat)] ⟨g.isLt, trivial⟩,
    bits_pack [(2, t.pop.toNat), (2, t.push.toNat), (7, o), (1, f1), (4, a.toNat), (5, b.toNat), (5, c.toNat), (1, f0), (3, d.toNat)] 2 g [] trivial⟩
  simp only [enc5, enc4, enc3, enc2, enc1, enc0, Tok.place, pack, width]
  omega

theorem shape33 (t : Tok) (o f0 f1 f2 : Nat) (a : BitVec 5) (b : BitVec 1) (c : BitVec 1) (ho : o < 2 ^ 7) (hf0 : f0 < 2 ^ 5) (hf1 : f1 < 2 ^ 4) (hf2 : f2 < 2 ^ 5) :
    ∃ w, enc3 (o * 2097152 + f0 * 2 + f1 * 128 + f2 * 65536) t a.toNat 11 b.toNat 6 c.toNat 0 = w ∧ w < 2 ^ 32 ∧ fieldNat w 21 7 = o ∧ fieldNat w 1 5 = f0 ∧ fieldNat w 7 4 = f1 ∧ fieldNat w 16 5 = f2 ∧ tok w = t ∧ bits w 11 5 = a ∧ bits w 6 1 = b ∧ bits w 0 1 = c := by
  refine ⟨pack [(2, t.pop.toNat), (2, t.push.toNat), (7, o), (5, f2), (5, a.toNat), (4, f1), (1, b.toNat), (5, f0), (1, c.toNat)], ?_,
    pack_lt [(2, t.pop.toNat), (2, t.push.toNat), (7, o), (5, f2), (5, a.toNat), (4, f1), (1, b.toNat), (5, f0), (1, c.toNat)] ⟨t.pop.isLt, t.push.isLt, ho, hf2, a.isLt, hf1, b.isLt, hf0, c.isLt, trivial⟩,
    field_pack [(2, t.pop.toNat), (2, t.push.toNat)] 7 o [(5, f2), (5, a.toNat), (4, f1), (1, b.toNat), (5, f0), (1, c.toNat)] ho ⟨hf2, a.isLt, hf1, b.isLt, hf0, c.isLt, trivial⟩,
    field_pack [(2, t.pop.toNat), (2, t.push.toNat), (7, o), (5, f2), (5, a.toNat), (4, f1), (1, b.toNat)] 5 f0 [(1, c.toNat)] hf0 ⟨c.isLt, trivial⟩,
    field_pack [(2, t.pop.toNat), (2, t.push.toNat), (7, o), (5, f2), (5, a.toNat)] 4 f1 [(1, b.toNat), (5, f0), (1, c.toNat)] hf1 ⟨b.isLt, hf0, c.isLt, trivial⟩,
    field_pack [(2, t.pop.toNat), (2, t.push.toNat), (7, o)] 5 f2 [(5, a.toNat), (4, f1), (1, b.toNat), (5, f0), (1, c.toNat)] hf2 ⟨a.isLt, hf1, b.isLt, hf0, c.isLt, trivial⟩,
    tok_pack t [(7, o), (5, f2), (5, a.toNat), (4, f1), (1, b.toNat), (5, f0), (1, c.toNat)] ⟨ho, hf2, a.isLt, hf1, b.isLt, hf0, c.isLt, trivial⟩ rfl,
    bits_pack [(2, t.pop.toNat), (2, t.push.toNat), (7, o), (5, f2)] 5 a [(4, f1), (1, b.toNat), (5, f0), (1, c.toNat)] ⟨hf1, b.isLt, hf0, c.isLt, trivial⟩,
    bits_pack [(2, t.pop.toNat), (2, t.push.toNat), (7, o), (5, f2), (5, a.toNat), (4, f1)] 1 b [(5, f0), (1, c.toNat)] ⟨hf0, c.isLt, trivial⟩,
    bits_pack [(2, t.pop.toNat), (2, t.push.toNat), (7, o), (5, f2), (5, a.toNat), (4, f1), (1, b.toNat), (5, f0)] 1 c [] trivial⟩
  simp only [enc3, enc2, enc1, enc0, Tok.place, pack, width]
  omega

theorem shape34 (t : Tok) (o f0 f1 f2 : Nat) (a : BitVec 5) (b : BitVec 3) (c : BitVec 1) (ho : o < 2 ^ 7) (hf0 : f0 < 2 ^ 1) (hf1 : f1 < 2 ^ 6) (hf2 : f2 < 2 ^ 5) :
    ∃ w, enc3 (o * 2097152 + f0 * 2 + f1 * 32 + f2 * 65536) t a.toNat 11 b.toNat 2 c.toNat 0 = w ∧ w < 2 ^ 32 ∧ fieldNat w 21 7 = o ∧ fieldNat w 1 1 = f0 ∧ fieldNat w 5 6 = f1 ∧ fieldNat w 16 5 = f2 ∧ tok w = t ∧ bits w 11 5 = a ∧ bits w 2 3 = b ∧ bits w 0 1 = c := by
  refine ⟨pack [(2, t.pop.toNat), (2, t.push.toNat), (7, o), (5, f2), (5, a.toNat), (6, f1), (3, b.toNat), (1, f0), (1, c.toNat)], ?_,
    pack_lt [(2, t.pop.toNat), (2, t.push.toNat), (7, o), (5, f2), (5, a.toNat), (6, f1), (3, b.toNat), (1, f0), (1, c.toNat)] ⟨t.pop.isLt, t.push.isLt, ho, hf2, a.isLt, hf1, b.isLt, hf0, c.isLt, trivial⟩,
    field_pack [(2, t.pop.toNat), (2, t.push.toNat)] 7 o [(5, f2), (5, a.toNat), (6, f1), (3, b.toNat), (1, f0), (1, c.toNat)] ho ⟨hf2, a.isLt, hf1, b.isLt, hf0, c.isLt, trivial⟩,
    field_pack [(2, t.pop.toNat), (2, t.push.toNat), (7, o), (5, f2), (5, a.toNat), (6, f1), (3, b.toNat)] 1 f0 [(1, c.toNat)] hf0 ⟨c.isLt, trivial⟩,
    field_pack [(2, t.pop.toNat), (2, t.push.toNat), (7, o), (5, f2), (5, a.toNat)] 6 f1 [(3, b.toNat), (1, f0), (1, c.toNat)] hf1 ⟨b.isLt, hf0, c.isLt, trivial⟩,
    field_pack [(2, t.pop.toNat), (2, t.push.toNat), (7, o)] 5 f2 [(5, a.toNat), (6, f1), (3, b.toNat), (1, f0), (1, c.toNat)] hf2 ⟨a.isLt, hf1, b.isLt, hf0, c.isLt, trivial⟩,
    tok_pack t [(7, o), (5, f2), (5, a.toNat), (6, f1), (3, b.toNat), (1, f0), (1, c.toNat)] ⟨ho, hf2, a.isLt, hf1, b.isLt, hf0, c.isLt, trivial⟩ rfl,
    bits_pack [(2, t.pop.toNat), (2, t.push.toNat), (7, o), (5, f2)] 5 a [(6, f1), (3, b.toNat), (1, f0), (1, c.toNat)] ⟨hf1, b.isLt, hf0, c.isLt, trivial⟩,
    bits_pack [(2, t.pop.toNat), (2, t.push.toNat), (7, o), (5, f2), (5, a.toNat), (6, f1)] 3 b [(1, f0), (1, c.toNat)] ⟨hf0, c.isLt, trivial⟩,
    bits_pack [(2, t.pop.toNat), (2, t.push.toNat), (7, o), (5, f2), (5, a.toNat), (6, f1), (3, b.toNat), (1, f0)] 1 c [] trivial⟩
  simp only [enc3, enc2, enc1, enc0, Tok.place, pack, width]
  omega

theorem shape35 (t : Tok) (o f0 : Nat) (ho : o < 2 ^ 7) (hf0 : f0 < 2 ^ 21) :
    ∃ w, enc0 (o * 2097152 + f0 * 1) t = w ∧ w < 2 ^ 32 ∧ fieldNat w 21 7 = o ∧ fieldNat w 0 21 = f0 ∧ tok w = t := by
  refine ⟨pack [(2, t.pop.toNat), (2, t.push.toNat), (7, o), (21, f0)], ?_,
    pack_lt [(2, t.pop.toNat), (2, t.push.toNat), (7, o), (21, f0)] ⟨t.pop.isLt, t.push.isLt, ho, hf0, trivial⟩,
    field_pack [(2, t.pop.toNat), (2, t.push.toNat)] 7 o [(21, f0)] ho ⟨hf0, trivial⟩,
    field_pack [(2, t.pop.toNat), (2, t.push.toNat), (7, o)] 21 f0 [] hf0 trivial,
    tok_pack t [(7, o), (21, f0)] ⟨ho, hf0, trivial⟩ rfl⟩
  simp only [enc0, Tok.place, pack, width]
  omega

theorem shape36 (t : Tok) (o : Nat) (a : BitVec 10) (b : BitVec 11) (ho : o < 2 ^ 7) :
    ∃ w, enc2 (o * 2097152) t a.toNat 11 b.toNat 0 = w ∧ w < 2 ^ 32 ∧ fieldNat w 21 7 = o ∧ tok w = t ∧ bits w 11 10 = a ∧ bits w 0 11 = b := by
  refine ⟨pack [(2, t.pop.toNat), (2, t.push.toNat), (7, o), (10, a.toNat), (11, b.toNat)], ?_,
    pack_lt [(2, t.pop.toNat), (2, t.push.toNat), (7, o), (10, a.toNat), (11, b.toNat)] ⟨t.pop.isLt, t.push.isLt, ho, a.isLt, b.isLt, trivial⟩,
    field_pack [(2, t.pop.toNat), (2, t.push.toNat)] 7 o [(10, a.toNat), (11, b.toNat)] ho ⟨a.isLt, b.isLt, trivial⟩,
    tok_pack t [(7, o), (10, a.toNat), (11, b.toNat)] ⟨ho, a.isLt, b.isLt, trivial⟩ rfl,
    bits_pack [(2, t.pop.toNat), (2, t.push.toNat), (7, o)] 10 a [(11, b.toNat)] ⟨b.isLt, trivial⟩,
    bits_pack [(2, t.pop.toNat), (2, t.push.toNat), (7, o), (10, a.toNat)] 11 b [] trivial⟩
  simp only [enc2, enc1, enc0, Tok.place, pack, width]
  omega

theorem shape37 (t : Tok) (o f0 f1 f2 : Nat) (a : BitVec 2) (b : BitVec 4) (c : BitVec 4) (ho : o < 2 ^ 6) (hf0 : f0 < 2 ^ 7) (hf1 : f1 < 2 ^ 4) (hf2 : f2 < 2 ^ 1) :
    ∃ w, enc3 (o * 4194304 + f0 * 1 + f1 * 32768 + f2 * 2097152) t a.toNat 19 b.toNat 11 c.toNat 7 = w ∧ w < 2 ^ 32 ∧ fieldNat w 22 6 = o ∧ fieldNat w 0 7 = f0 ∧ fieldNat w 15 4 = f1 ∧ fieldNat w 21 1 = f2 ∧ tok w = t ∧ bits w 19 2 = a ∧ bits w 11 4 = b ∧ bits w 7 4 = c := by
  refine ⟨pack [(2, t.pop.toNat), (2, t.push.toNat), (6, o), (1, f2), (2, a.toNat), (4, f1), (4, b.toNat), (4, c.toNat), (7, f0)], ?_,
    pack_lt [(2, t.pop.toNat), (2, t.push.toNat), (6, o), (1, f2), (2, a.toNat), (4, f1), (4, b.toNat), (4, c.toNat), (7, f0)] ⟨t.pop.isLt, t.push.isLt, ho, hf2, a.isLt, hf1, b.isLt, c.isLt, hf0, trivial⟩,
    field_pack [(2, t.pop.toNat), (2, t.push.toNat)] 6 o [(1, f2), (2, a.toNat), (4, f1), (4, b.toNat), (4, c.toNat), (7, f0)] ho ⟨hf2, a.isLt, hf1, b.isLt, c.isLt, hf0, trivial⟩,
    field_pack [(2, t.pop.toNat), (2, t.push.toNat), (6, o), (1, f2), (2, a.toNat), (4, f1), (4, b.toNat), (4, c.toNat)] 7 f0 [] hf0 trivial,
    field_pack [(2, t.pop.toNat), (2, t.push.toNat), (6, o), (1, f2), (2, a.toNat)] 4 f1 [(4, b.toNat), (4, c.toNat), (7, f0)] hf1 ⟨b.isLt, c.isLt, hf0, trivial⟩,
    field_pack [(2, t.pop.toNat), (2, t.push.toNat), (6, o)] 1 f2 [(2, a.toNat), (4, f1), (4, b.toNat), (4, c.toNat), (7, f0)] hf2 ⟨a.isLt, hf1, b.isLt, c.isLt, hf0, trivial⟩,
    tok_pack t [(6, o), (1, f2), (2, a.toNat), (4, f1), (4, b.toNat), (4, c.toNat), (7, f0)] ⟨ho, hf2, a.isLt, hf1, b.isLt, c.isLt, hf0, trivial⟩ rfl,
    bits_pack [(2, t.pop.toNat), (2, t.push.toNat), (6, o), (1, f2)] 2 a [(4, f1), (4, b.toNat), (4, c.toNat), (7, f0)] ⟨hf1, b.isLt, c.isLt, hf0, trivial⟩,
    bits_pack [(2, t.pop.toNat), (2, t.push.toNat), (6, o), (1, f2), (2, a.toNat), (4, f1)] 4 b [(4, c.toNat), (7, f0)] ⟨c.isLt, hf0, trivial⟩,
    bits_pack [(2, t.pop.toNat), (2, t.push.toNat), (6, o), (1, f2), (2, a.toNat), (4, f1), (4, b.toNat)] 4 c [(7, f0)] ⟨hf0, trivial⟩⟩
  simp only [enc3, enc2, enc1, enc0, Tok.place, pack, width]
  omega

theorem shape38 (t : Tok) (o f0 f1 : Nat) (a : BitVec 4) (b : BitVec 4) (c : BitVec 4) (ho : o < 2 ^ 6) (hf0 : f0 < 2 ^ 7) (hf1 : f1 < 2 ^ 3) :
    ∃ w, enc3 (o * 4194304 + f0 * 1 + f1 * 524288) t a.toNat 15 b.toNat 11 c.toNat 7 = w ∧ w < 2 ^ 32 ∧ fieldNat w 22 6 = o ∧ fieldNat w 0 7 = f0 ∧ fieldNat w 19 3 = f1 ∧ tok w = t ∧ bits w 15 4 = a ∧ bits w 11 4 = b ∧ bits w 7 4 = c := by
  refine ⟨pack [(2, t.pop.toNat), (2, t.push.toNat), (6, o), (3, f1), (4, a.toNat), (4, b.toNat), (4, c.toNat), (7, f0)], ?_,
    pack_lt [(2, t.pop.toNat), (2, t.push.toNat), (6, o), (3, f1), (4, a.toNat), (4, b.toNat), (4, c.toNat), (7, f0)] ⟨t.pop.isLt, t.push.isLt, ho, hf1, a.isLt, b.isLt, c.isLt, hf0, trivial⟩,
    field_pack [(2, t.pop.toNat), (2, t.push.toNat)] 6 o [(3, f1), (4, a.toNat), (4, b.toNat), (4, c.toNat), (7, f0)] ho ⟨hf1, a.isLt, b.isLt, c.isLt, hf0, trivial⟩,
    field_pack [(2, t.pop.toNat), (2, t.push.toNat), (6, o), (3, f1), (4, a.toNat), (4, b.toNat), (4, c.toNat)] 7 f0 [] hf0 trivial,
    field_pack [(2, t.pop.toNat), (2, t.push.toNat), (6, o)] 3 f1 [(4, a.toNat), (4, b.toNat), (4, c.toNat), (7, f0)] hf1 ⟨a.isLt, b.isLt, c.isLt, hf0, trivial⟩,
    tok_pack t [(6, o), (3, f1), (4, a.toNat), (4, b.toNat), (4, c.toNat), (7, f0)] ⟨ho, hf1, a.isLt, b.isLt, c.isLt, hf0, trivial⟩ rfl,
    bits_pack [(2, t.pop.toNat), (2, t.push.toNat), (6, o), (3, f1)] 4 a [(4, b.toNat), (4, c.toNat), (7, f0)] ⟨b.isLt, c.isLt, hf0, trivial⟩,
    bits_pack [(2, t.pop.toNat), (2, t.push.toNat), (6, o), (3, f1), (4, a.toNat)] 4 b [(4, c.toNat), (7, f0)] ⟨c.isLt, hf0, trivial⟩,
    bits_pack [(2, t.pop.toNat), (2, t.push.toNat), (6, o), (3, f1), (4, a.toNat), (4, b.toNat)] 4 c [(7, f0)] ⟨hf0, trivial⟩⟩
  simp only [enc3, enc2, enc1, enc0, Tok.place, pack, width]
  omega

theorem shape39 (t : Tok) (o f0 : Nat) (a : BitVec 4) (ho : o < 2 ^ 6) (hf0 : f0 < 2 ^ 18) :
    ∃ w, enc1 (o * 4194304 + f0 * 1) t a.toNat 18 = w ∧ w < 2 ^ 32 ∧ fieldNat w 22 6 = o ∧ fieldNat w 0 18 = f0 ∧ tok w = t ∧ bits w 18 4 = a := by
  refine ⟨pack [(2, t.pop.toNat), (2, t.push.toNat), (6, o), (4, a.toNat), (18, f0)], ?_,
    pack_lt [(2, t.pop.toNat), (2, t.push.toNat), (6, o), (4, a.toNat), (18, f0)] ⟨t.pop.isLt, t.push.isLt, ho, a.isLt, hf0, trivial⟩,
    field_pack [(2, t.pop.toNat), (2, t.push.toNat)] 6 o [(4, a.toNat), (18, f0)] ho ⟨a.isLt, hf0, trivial⟩,
    field_pack [(2, t.pop.toNat), (2, t.push.toNat), (6, o), (4, a.toNat)] 18 f0 [] hf0 trivial,
    tok_pack t [(6, o), (4, a.toNat), (18, f0)] ⟨ho, a.isLt, hf0, trivial⟩ rfl,
    bits_pack [(2, t.pop.toNat), (2, t.push.toNat), (6, o)] 4 a [(18, f0)] ⟨hf0, trivial⟩⟩
  simp only [enc1, enc0, Tok.place, pack, width]
  omega

theorem shape40 (t : Tok) (o f0 : Nat) (a : BitVec 2) (b : BitVec 4) (ho : o < 2 ^ 6) (hf0 : f0 < 2 ^ 16) :
    ∃ w, enc2 (o * 4194304 + f0 * 1) t a.toNat 20 b.toNat 16 = w ∧ w < 2 ^ 32 ∧ fieldNat w 22 6 = o ∧ fieldNat w 0 16 = f0 ∧ tok w = t ∧ bits w 20 2 = a ∧ bits w 16 4 = b := by
  refine ⟨pack [(2, t.pop.toNat), (2, t.push.toNat), (6, o), (2, a.toNat), (4, b.toNat), (16, f0)], ?_,
    pack_lt [(2, t.pop.toNat), (2, t.push.toNat), (6, o), (2, a.toNat), (4, b.toNat), (16, f0)] ⟨t.pop.isLt, t.push.isLt, ho, a.isLt, b.isLt, hf0, trivial⟩,
    field_pack [(2, t.pop.toNat), (2, t.push.toNat)] 6 o [(2, a.toNat), (4, b.toNat), (16, f0)] ho ⟨a.isLt, b.isLt, hf0, trivial⟩,
    field_pack [(2, t.pop.toNat), (2, t.push.toNat), (6, o), (2, a.toNat), (4, b.toNat)] 16 f0 [] hf0 trivial,
    tok_pack t [(6, o), (2, a.toNat), (4, b.toNat), (16, f0)] ⟨ho, a.isLt, b.isLt, hf0, trivial⟩ rfl,
    bits_pack [(2, t.pop.toNat), (2, t.push.toNat), (6, o)] 2 a [(4, b.toNat), (16, f0)] ⟨b.isLt, hf0, trivial⟩,
    bits_pack [(2, t.pop.toNat), (2, t.push.toNat), (6, o), (2, a.toNat)] 4 b [(16, f0)] ⟨hf0, trivial⟩⟩
  simp only [enc2, enc1, enc0, Tok.place, pack, width]
  omega

theorem shape41 (t : Tok) (o f0 : Nat) (a : BitVec 3) (b : BitVec 4) (c : BitVec 4) (d : BitVec 3) (ho : o < 2 ^ 6) (hf0 : f0 < 2 ^ 8) :
    ∃ w, enc4 (o * 4194304 + f0 * 1) t a.toNat 19 b.toNat 15 c.toNat 11 d.toNat 8 = w ∧ w < 2 ^ 32 ∧ fieldNat w 22 6 = o ∧ fieldNat w 0 8 = f0 ∧ tok w = t ∧ bits w 19 3 = a ∧ bits w 15 4 = b ∧ bits w 11 4 = c ∧ bits w 8 3 = d := by
  refine ⟨pack [(2, t.pop.toNat), (2, t.push.toNat), (6, o), (3, a.toNat), (4, b.toNat), (4, c.toNat), (3, d.toNat), (8, f0)], ?_,
    pack_lt [(2, t.pop.toNat), (2, t.push.toNat), (6, o), (3, a.toNat), (4, b.toNat), (4, c.toNat), (3, d.toNat), (8, f0)] ⟨t.pop.isLt, t.push.isLt, ho, a.isLt, b.isLt, c.isLt, d.isLt, hf0, trivial⟩,
    field_pack [(2, t.pop.toNat), (2, t.push.toNat)] 6 o [(3, a.toNat), (4, b.toNat), (4, c.toNat), (3, d.toNat), (8, f0)] ho ⟨a.isLt, b.isLt, c.isLt, d.isLt, hf0, trivial⟩,
    field_pack [(2, t.pop.toNat), (2, t.push.toNat), (6, o), (3, a.toNat), (4, b.toNat), (4, c.toNat), (3, d.toNat)] 8 f0 [] hf0 trivial,
    tok_pack t [(6, o), (3, a.toNat), (4, b.toNat), (4, c.toNat), (3, d.toNat), (8, f0)] ⟨ho, a.isLt, b.isLt, c.isLt, d.isLt, hf0, trivial⟩ rfl,
    bits_pack [(2, t.pop.toNat), (2, t.push.toNat), (6, o)] 3 a [(4, b.toNat), (4, c.toNat), (3, d.toNat), (8, f0)] ⟨b.isLt, c.isLt, d.isLt, hf0, trivial⟩,
    bits_pack [(2, t.pop.toNat), (2, t.push.toNat), (6, o), (3, a.toNat)] 4 b [(4, c.toNat), (3, d.toNat), (8, f0)] ⟨c.isLt, d.isLt, hf0, trivial⟩,
    bits_pack [(2, t.pop.toNat), (2, t.push.toNat), (6, o), (3, a.toNat), (4, b.toNat)] 4 c [(3, d.toNat), (8, f0)] ⟨d.isLt, hf0, trivial⟩,
    bits_pack [(2, t.pop.toNat), (2, t.push.toNat), (6, o), (3, a.toNat), (4, b.toNat), (4, c.toNat)] 3 d [(8, f0)] ⟨hf0, trivial⟩⟩
  simp only [enc4, enc3, enc2, enc1, enc0, Tok.place, pack, width]
  omega

theorem shape42 (t : Tok) (o f0 : Nat) (a : BitVec 3) (ho : o < 2 ^ 6) (hf0 : f0 < 2 ^ 19) :
    ∃ w, enc1 (o * 4194304 + f0 * 1) t a.toNat 19 = w ∧ w < 2 ^ 32 ∧ fieldNat w 22 6 = o ∧ fieldNat w 0 19 = f0 ∧ tok w = t ∧ bits w 19 3 = a := by
  refine ⟨pack [(2, t.pop.toNat), (2, t.push.toNat), (6, o), (3, a.toNat), (19, f0)], ?_,
    pack_lt [(2, t.pop.toNat), (2, t.push.toNat), (6, o), (3, a.toNat), (19, f0)] ⟨t.pop.isLt, t.push.isLt, ho, a.isLt, hf0, trivial⟩,
    field_pack [(2, t.pop.toNat), (2, t.push.toNat)] 6 o [(3, a.toNat), (19, f0)] ho ⟨a.isLt, hf0, trivial⟩,
    field_pack [(2, t.pop.toNat), (2, t.push.toNat), (6, o), (3, a.toNat)] 19 f0 [] hf0 trivial,
    tok_pack t [(6, o), (3, a.toNat), (19, f0)] ⟨ho, a.isLt, hf0, trivial⟩ rfl,
    bits_pack [(2, t.pop.toNat), (2, t.push.toNat), (6, o)] 3 a [(19, f0)] ⟨hf0, trivial⟩⟩
  simp only [enc1, enc0, Tok.place, pack, width]
  omega

theorem shape43 (t : Tok) (o f0 : Nat) (a : BitVec 3) (b : BitVec 4) (c : BitVec 4) (ho : o < 2 ^ 6) (hf0 : f0 < 2 ^ 11) :
    ∃ w, enc3 (o * 4194304 + f0 * 1) t a.toNat 19 b.toNat 15 c.toNat 11 = w ∧ w < 2 ^ 32 ∧ fieldNat w 22 6 = o ∧ fieldNat w 0 11 = f0 ∧ tok w = t ∧ bits w 19 3 = a ∧ bits w 15 4 = b ∧ bits w 11 4 = c := by
  refine ⟨pack [(2, t.pop.toNat), (2, t.push.toNat), (6, o), (3, a.toNat), (4, b.toNat), (4, c.toNat), (11, f0)], ?_,
    pack_lt [(2, t.pop.toNat), (2, t.push.toNat), (6, o), (3, a.toNat), (4, b.toNat), (4, c.toNat), (11, f0)] ⟨t.pop.isLt, t.push.isLt, ho, a.isLt, b.isLt, c.isLt, hf0, trivial⟩,
    field_pack [(2, t.pop.toNat), (2, t.push.toNat)] 6 o [(3, a.toNat), (4, b.toNat), (4, c.toNat), (11, f0)] ho ⟨a.isLt, b.isLt, c.isLt, hf0, trivial⟩,
    field_pack [(2, t.pop.toNat), (2, t.push.toNat), (6, o), (3, a.toNat), (4, b.toNat), (4, c.toNat)] 11 f0 [] hf0 trivial,
    tok_pack t [(6, o), (3, a.toNat), (4, b.toNat), (4, c.toNat), (11, f0)] ⟨ho, a.isLt, b.isLt, c.isLt, hf0, trivial⟩ rfl,
    bits_pack [(2, t.pop.toNat), (2, t.push.toNat), (6, o)] 3 a [(4, b.toNat), (4, c.toNat), (11, f0)] ⟨b.isLt, c.isLt, hf0, trivial⟩,
    bits_pack [(2, t.pop.toNat), (2, t.push.toNat), (6, o), (3, a.toNat)] 4 b [(4, c.toNat), (11, f0)] ⟨c.isLt, hf0, trivial⟩,
    bits_pack [(2, t.pop.toNat), (2, t.push.toNat), (6, o), (3, a.toNat), (4, b.toNat)] 4 c [(11, f0)] ⟨hf0, trivial⟩⟩
  simp only [enc3, enc2, enc1, enc0, Tok.place, pack, width]
  omega

theorem shape44 (t : Tok) (o f0 : Nat) (a : BitVec 3) (b : BitVec 4) (c : BitVec 4) (d : BitVec 4) (ho : o < 2 ^ 6) (hf0 : f0 < 2 ^ 7) :
    ∃ w, enc4 (o * 4194304 + f0 * 1) t a.toNat 19 b.toNat 15 c.toNat 11 d.toNat 7 = w ∧ w < 2 ^ 32 ∧ fieldNat w 22 6 = o ∧ fieldNat w 0 7 = f0 ∧ tok w = t ∧ bits w 19 3 = a ∧ bits w 15 4 = b ∧ bits w 11 4 = c ∧ bits w 7 4 = d := by
  refine ⟨pack [(2, t.pop.toNat), (2, t.push.toNat), (6, o), (3, a.toNat), (4, b.toNat), (4, c.toNat), (4, d.toNat), (7, f0)], ?_,
    pack_lt [(2, t.pop.toNat), (2, t.push.toNat), (6, o), (3, a.toNat), (4, b.toNat), (4, c.toNat), (4, d.toNat), (7, f0)] ⟨t.pop.isLt, t.push.isLt, ho, a.isLt, b.isLt, c.isLt, d.isLt, hf0, trivial⟩,
    field_pack [(2, t.pop.toNat), (2, t.push.toNat)] 6 o [(3, a.toNat), (4, b.toNat), (4, c.toNat), (4, d.toNat), (7, f0)] ho ⟨a.isLt, b.isLt, c.isLt, d.isLt, hf0, trivial⟩,
    field_pack [(2, t.pop.toNat), (2, t.push.toNat), (6, o), (3, a.toNat), (4, b.toNat), (4, c.toNat), (4, d.toNat)] 7 f0 [] hf0 trivial,
    tok_pack t [(6, o), (3, a.toNat), (4, b.toNat), (4, c.toNat), (4, d.toNat), (7, f0)] ⟨ho, a.isLt, b.isLt, c.isLt, d.isLt, hf0, trivial⟩ rfl,
    bits_pack [(2, t.pop.toNat), (2, t.push.toNat), (6, o)] 3 a [(4, b.toNat), (4, c.toNat), (4, d.toNat), (7, f0)] ⟨b.isLt, c.isLt, d.isLt, hf0, trivial⟩,
    bits_pack [(2, t.pop.toNat), (2, t.push.toNat), (6, o), (3, a.toNat)] 4 b [(4, c.toNat), (4, d.toNat), (7, f0)] ⟨c.isLt, d.isLt, hf0, trivial⟩,
    bits_pack [(2, t.pop.toNat), (2, t.push.toNat), (6, o), (3, a.toNat), (4, b.toNat)] 4 c [(4, d.toNat), (7, f0)] ⟨d.isLt, hf0, trivial⟩,
    bits_pack [(2, t.pop.toNat), (2, t.push.toNat), (6, o), (3, a.toNat), (4, b.toNat), (4, c.toNat)] 4 d [(7, f0)] ⟨hf0, trivial⟩⟩
  simp only [enc4, enc3, enc2, enc1, enc0, Tok.place, pack, width]
  omega

theorem shape45 (t : Tok) (o f0 : Nat) (a : BitVec 3) (b : BitVec 2) (c : BitVec 4) (d : BitVec 4) (ho : o < 2 ^ 6) (hf0 : f0 < 2 ^ 9) :
    ∃ w, enc4 (o * 4194304 + f0 * 1) t a.toNat 19 b.toNat 17 c.toNat 13 d.toNat 9 = w ∧ w < 2 ^ 32 ∧ fieldNat w 22 6 = o ∧ fieldNat w 0 9 = f0 ∧ tok w = t ∧ bits w 19 3 = a ∧ bits w 17 2 = b ∧ bits w 13 4 = c ∧ bits w 9 4 = d := by
  refine ⟨pack [(2, t.pop.toNat), (2, t.push.toNat), (6, o), (3, a.toNat), (2, b.toNat), (4, c.toNat), (4, d.toNat), (9, f0)], ?_,
    pack_lt [(2, t.pop.toNat), (2, t.push.toNat), (6, o), (3, a.toNat), (2, b.toNat), (4, c.toNat), (4, d.toNat), (9, f0)] ⟨t.pop.isLt, t.push.isLt, ho, a.isLt, b.isLt, c.isLt, d.isLt, hf0, trivial⟩,
    field_pack [(2, t.pop.toNat), (2, t.push.toNat)] 6 o [(3, a.toNat), (2, b.toNat), (4, c.toNat), (4, d.toNat), (9, f0)] ho ⟨a.isLt, b.isLt, c.isLt, d.isLt, hf0, trivial⟩,
    field_pack [(2, t.pop.toNat), (2, t.push.toNat), (6, o), (3, a.toNat), (2, b.toNat), (4, c.toNat), (4, d.toNat)] 9 f0 [] hf0 trivial,
    tok_pack t [(6, o), (3, a.toNat), (2, b.toNat), (4, c.toNat), (4, d.toNat), (9, f0)] ⟨ho, a.isLt, b.isLt, c.isLt, d.isLt, hf0, trivial⟩ rfl,
    bits_pack [(2, t.pop.toNat), (2, t.push.toNat), (6, o)] 3 a [(2, b.toNat), (4, c.toNat), (4, d.toNat), (9, f0)] ⟨b.isLt, c.isLt, d.isLt, hf0, trivial⟩,
    bits_pack [(2, t.pop.toNat), (2, t.push.toNat), (6, o), (3, a.toNat)] 2 b [(4, c.toNat), (4, d.toNat), (9, f0)] ⟨c.isLt, d.isLt, hf0, trivial⟩,
    bits_pack [(2, t.pop.toNat), (2, t.push.toNat), (6, o), (3, a.toNat), (2, b.toNat)] 4 c [(4, d.toNat), (9, f0)] ⟨d.isLt, hf0, trivial⟩,
    bits_pack [(2, t.pop.toNat), (2, t.push.toNat), (6, o), (3, a.toNat), (2, b.toNat), (4, c.toNat)] 4 d [(9, f0)] ⟨hf0, trivial⟩⟩
  simp only [enc4, enc3, enc2, enc1, enc0, Tok.place, pack, width]
  omega

theorem shape46 (t : Tok) (o f0 : Nat) (a : BitVec 2) (b : BitVec 4) (c : BitVec 4) (d : BitVec 4) (g : BitVec 2) (ho : o < 2 ^ 6) (hf0 : f0 < 2 ^ 6) :
    ∃ w, enc5 (o * 4194304 + f0 * 1) t a.toNat 20 b.toNat 16 c.toNat 12 d.toNat 8 g.toNat 6 = w ∧ w < 2 ^ 32 ∧ fieldNat w 22 6 = o ∧ fieldNat w 0 6 = f0 ∧ tok w = t ∧ bits w 20 2 = a ∧ bits w 16 4 = b ∧ bits w 12 4 = c ∧ bits w 8 4 = d ∧ bits w 6 2 = g := by
  refine ⟨pack [(2, t.pop.toNat), (2, t.push.toNat), (6, o), (2, a.toNat), (4, b.toNat), (4, c.toNat), (4, d.toNat), (2, g.toNat), (6, f0)], ?_,
    pack_lt [(2, t.pop.toNat), (2, t.push.toNat), (6, o), (2, a.toNat), (4, b.toNat), (4, c.toNat), (4, d.toNat), (2, g.toNat), (6, f0)] ⟨t.pop.isLt, t.push.isLt, ho, a.isLt, b.isLt, c.isLt, d.isLt, g.isLt, hf0, trivial⟩,
    field_pack [(2, t.pop.toNat), (2, t.push.toNat)] 6 o [(2, a.toNat), (4, b.toNat), (4, c.toNat), (4, d.toNat), (2, g.toNat), (6, f0)] ho ⟨a.isLt, b.isLt, c.isLt, d.isLt, g.isLt, hf0, trivial⟩,
    field_pack [(2, t.pop.toNat), (2, t.push.toNat), (6, o), (2, a.toNat), (4, b.toNat), (4, c.toNat), (4, d.toNat), (2, g.toNat)] 6 f0 [] hf0 trivial,
    tok_pack t [(6, o), (2, a.toNat), (4, b.toNat), (4, c.toNat), (4, d.toNat), (2, g.toNat), (6, f0)] ⟨ho, a.isLt, b.isLt, c.isLt, d.isLt, g.isLt, hf0, trivial⟩ rfl,
    bits_pack [(2, t.pop.toNat), (2, t.push.toNat), (6, o)] 2 a [(4, b.toNat), (4, c.toNat), (4, d.toNat), (2, g.toNat), (6, f0)] ⟨b.isLt, c.isLt, d.isLt, g.isLt, hf0, trivial⟩,
    bits_pack [(2, t.pop.toNat), (2, t.push.toNat), (6, o), (2, a.toNat)] 4 b [(4, c.toNat), (4, d.toNat), (2, g.toNat), (6, f0)] ⟨c.isLt, d.isLt, g.isLt, hf0, trivial⟩,
    bits_pack [(2, t.pop.toNat), (2, t.push.toNat), (6, o), (2, a.toNat), (4, b.toNat)] 4 c [(4, d.toNat), (2, g.toNat), (6, f0)] ⟨d.isLt, g.isLt, hf0, trivial⟩,
    bits_pack [(2, t.pop.toNat), (2, t.push.toNat), (6, o), (2, a.toNat), (4, b.toNat), (4, c.toNat)] 4 d [(2, g.toNat), (6, f0)] ⟨g.isLt, hf0, trivial⟩,
    bits_pack [(2, t.pop.toNat), (2, t.push.toNat), (6, o), (2, a.toNat), (4, b.toNat), (4, c.toNat), (4, d.toNat)] 2 g [(6, f0)] ⟨hf0, trivial⟩⟩
  simp only [enc5, enc4, enc3, enc2, enc1, enc0, Tok.place, pack, width]
  omega

theorem shape47 (t : Tok) (o f0 : Nat) (a : BitVec 4) (b : BitVec 16) (ho : o < 2 ^ 6) (hf0 : f0 < 2 ^ 2) :
    ∃ w, enc2 (o * 4194304 + f0 * 65536) t a.toNat 18 b.toNat 0 = w ∧ w < 2 ^ 32 ∧ fieldNat w 22 6 = o ∧ fieldNat w 16 2 = f0 ∧ tok w = t ∧ bits w 18 4 = a ∧ bits w 0 16 = b := by
  refine ⟨pack [(2, t.pop.toNat), (2, t.push.toNat), (6, o), (4, a.toNat), (2, f0), (16, b.toNat)], ?_,
    pack_lt [(2, t.pop.toNat), (2, t.push.toNat), (6, o), (4, a.toNat), (2, f0), (16, b.toNat)] ⟨t.pop.isLt, t.push.isLt, ho, a.isLt, hf0, b.isLt, trivial⟩,
    field_pack [(2, t.pop.toNat), (2, t.push.toNat)] 6 o [(4, a.toNat), (2, f0), (16, b.toNat)] ho ⟨a.isLt, hf0, b.isLt, trivial⟩,
    field_pack [(2, t.pop.toNat), (2, t.push.toNat), (6, o), (4, a.toNat)] 2 f0 [(16, b.toNat)] hf0 ⟨b.isLt, trivial⟩,
    tok_pack t [(6, o), (4, a.toNat), (2, f0), (16, b.toNat)] ⟨ho, a.isLt, hf0, b.isLt, trivial⟩ rfl,
    bits_pack [(2, t.pop.toNat), (2, t.push.toNat), (6, o)] 4 a [(2, f0), (16, b.toNat)] ⟨hf0, b.isLt, trivial⟩,
    bits_pack [(2, t.pop.toNat), (2, t.push.toNat), (6, o), (4, a.toNat), (2, f0)] 16 b [] trivial⟩
  simp only [enc2, enc1, enc0, Tok.place, pack, width]
  omega

theorem shape48 (t : Tok) (o : Nat) (a : BitVec 4) (b : BitVec 4) (c : BitVec 14) (ho : o < 2 ^ 6) :
    ∃ w, enc3 (o * 4194304) t a.toNat 18 b.toNat 14 c.toNat 0 = w ∧ w < 2 ^ 32 ∧ fieldNat w 22 6 = o ∧ tok w = t ∧ bits w 18 4 = a ∧ bits w 14 4 = b ∧ bits w 0 14 = c := by
  refine ⟨pack [(2, t.pop.toNat), (2, t.push.toNat), (6, o), (4, a.toNat), (4, b.toNat), (14, c.toNat)], ?_,
    pack_lt [(2, t.pop.toNat), (2, t.push.toNat), (6, o), (4, a.toNat), (4, b.toNat), (14, c.toNat)] ⟨t.pop.isLt, t.push.isLt, ho, a.isLt, b.isLt, c.isLt, trivial⟩,
    field_pack [(2, t.pop.toNat), (2, t.push.toNat)] 6 o [(4, a.toNat), (4, b.toNat), (14, c.toNat)] ho ⟨a.isLt, b.isLt, c.isLt, trivial⟩,
    tok_pack t [(6, o), (4, a.toNat), (4, b.toNat), (14, c.toNat)] ⟨ho, a.isLt, b.isLt, c.isLt, trivial⟩ rfl,
    bits_pack [(2, t.pop.toNat), (2, t.push.toNat), (6, o)] 4 a [(4, b.toNat), (14, c.toNat)] ⟨b.isLt, c.isLt, trivial⟩,
    bits_pack [(2, t.pop.toNat), (2, t.push.toNat), (6, o), (4, a.toNat)] 4 b [(14, c.toNat)] ⟨c.isLt, trivial⟩,
    bits_pack [(2, t.pop.toNat), (2, t.push.toNat), (6, o), (4, a.toNat), (4, b.toNat)] 14 c [] trivial⟩
  simp only [enc3, enc2, enc1, enc0, Tok.place, pack, width]
  omega

theorem shape49 (t : Tok) (o f0 : Nat) (a : BitVec 4) (b : BitVec 4) (c : BitVec 4) (ho : o < 2 ^ 6) (hf0 : f0 < 2 ^ 10) :
    ∃ w, enc3 (o * 4194304 + f0 * 1) t a.toNat 18 b.toNat 14 c.toNat 10 = w ∧ w < 2 ^ 32 ∧ fieldNat w 22 6 = o ∧ fieldNat w 0 10 = f0 ∧ tok w = t ∧ bits w 18 4 = a ∧ bits w 14 4 = b ∧ bits w 10 4 = c := by
  refine ⟨pack [(2, t.pop.toNat), (2, t.push.toNat), (6, o), (4, a.toNat), (4, b.toNat), (4, c.toNat), (10, f0)], ?_,
    pack_lt [(2, t.pop.toNat), (2, t.push.toNat), (6, o), (4, a.toNat), (4, b.toNat), (4, c.toNat), (10, f0)] ⟨t.pop.isLt, t.push.isLt, ho, a.isLt, b.isLt, c.isLt, hf0, trivial⟩,
    field_pack [(2, t.pop.toNat), (2, t.push.toNat)] 6 o [(4, a.toNat), (4, b.toNat), (4, c.toNat), (10, f0)] ho ⟨a.isLt, b.isLt, c.isLt, hf0, trivial⟩,
    field_pack [(2, t.pop.toNat), (2, t.push.toNat), (6, o), (4, a.toNat), (4, b.toNat), (4, c.toNat)] 10 f0 [] hf0 trivial,
    tok_pack t [(6, o), (4, a.toNat), (4, b.toNat), (4, c.toNat), (10, f0)] ⟨ho, a.isLt, b.isLt, c.isLt, hf0, trivial⟩ rfl,
    bits_pack [(2, t.pop.toNat), (2, t.push.toNat), (6, o)] 4 a [(4, b.toNat), (4, c.toNat), (10, f0)] ⟨b.isLt, c.isLt, hf0, trivial⟩,
    bits_pack [(2, t.pop.toNat), (2, t.push.toNat), (6, o), (4, a.toNat)] 4 b [(4, c.toNat), (10, f0)] ⟨c.isLt, hf0, trivial⟩,
    bits_pack [(2, t.pop.toNat), (2, t.push.toNat), (6, o), (4, a.toNat), (4, b.toNat)] 4 c [(10, f0)] ⟨hf0, trivial⟩⟩
  simp only [enc3, enc2, enc1, enc0, Tok.place, pack, width]
  omega

theorem shape50 (t : Tok) (o : Nat) (a : BitVec 4) (b : BitVec 18) (ho : o < 2 ^ 6) :
    ∃ w, enc2 (o * 4194304) t a.toNat 18 b.toNat 0 = w ∧ w < 2 ^ 32 ∧ fieldNat w 22 6 = o ∧ tok w = t ∧ bits w 18 4 = a ∧ bits w 0 18 = b := by
  refine ⟨pack [(2, t.pop.toNat), (2, t.push.toNat), (6, o), (4, a.toNat), (18, b.toNat)], ?_,
    pack_lt [(2, t.pop.toNat), (2, t.push.toNat), (6, o), (4, a.toNat), (18, b.toNat)] ⟨t.pop.isLt, t.push.isLt, ho, a.isLt, b.isLt, trivial⟩,
    field_pack [(2, t.pop.toNat), (2, t.push.toNat)] 6 o [(4, a.toNat), (18, b.toNat)] ho ⟨a.isLt, b.isLt, trivial⟩,
    tok_pack t [(6, o), (4, a.toNat), (18, b.toNat)] ⟨ho, a.isLt, b.isLt, trivial⟩ rfl,
    bits_pack [(2, t.pop.toNat), (2, t.push.toNat), (6, o)] 4 a [(18, b.toNat)] ⟨b.isLt, trivial⟩,
    bits_pack [(2, t.pop.toNat), (2, t.push.toNat), (6, o), (4, a.toNat)] 18 b [] trivial⟩
  simp only [enc2, enc1, enc0, Tok.place, pack, width]
  omega

theorem shape51 (t : Tok) (o f0 : Nat) (a : BitVec 4) (b : BitVec 4) (c : BitVec 1) (d : BitVec 3) (ho : o < 2 ^ 6) (hf0 : f0 < 2 ^ 10) :
    ∃ w, enc4 (o * 4194304 + f0 * 1) t a.toNat 18 b.toNat 14 c.toNat 13 d.toNat 10 = w ∧ w < 2 ^ 32 ∧ fieldNat w 22 6 = o ∧ fieldNat w 0 10 = f0 ∧ tok w = t ∧ bits w 18 4 = a ∧ bits w 14 4 = b ∧ bits w 13 1 = c ∧ bits w 10 3 = d := by
  refine ⟨pack [(2, t.pop.toNat), (2, t.push.toNat), (6, o), (4, a.toNat), (4, b.toNat), (1, c.toNat), (3, d.toNat), (10, f0)], ?_,
    pack_lt [(2, t.pop.toNat), (2, t.push.toNat), (6, o), (4, a.toNat), (4, b.toNat), (1, c.toNat), (3, d.toNat), (10, f0)] ⟨t.pop.isLt, t.push.isLt, ho, a.isLt, b.isLt, c.isLt, d.isLt, hf0, trivial⟩,
    field_pack [(2, t.pop.toNat), (2, t.push.toNat)] 6 o [(4, a.toNat), (4, b.toNat), (1, c.toNat), (3, d.toNat), (10, f0)] ho ⟨a.isLt, b.isLt, c.isLt, d.isLt, hf0, trivial⟩,
    field_pack [(2, t.pop.toNat), (2, t.push.toNat), (6, o), (4, a.toNat), (4, b.toNat), (1, c.toNat), (3, d.toNat)] 10 f0 [] hf0 trivial,
    tok_pack t [(6, o), (4, a.toNat), (4, b.toNat), (1, c.toNat), (3, d.toNat), (10, f0)] ⟨ho, a.isLt, b.isLt, c.isLt, d.isLt, hf0, trivial⟩ rfl,
    bits_pack [(2, t.pop.toNat), (2, t.push.toNat), (6, o)] 4 a [(4, b.toNat), (1, c.toNat), (3, d.toNat), (10, f0)] ⟨b.isLt, c.isLt, d.isLt, hf0, trivial⟩,
    bits_pack [(2, t.pop.toNat), (2, t.push.toNat), (6, o), (4, a.toNat)] 4 b [(1, c.toNat), (3, d.toNat), (10, f0)] ⟨c.isLt, d.isLt, hf0, trivial⟩,
    bits_pack [(2, t.pop.toNat), (2, t.push.toNat), (6, o), (4, a.toNat), (4, b.toNat)] 1 c [(3, d.toNat), (10, f0)] ⟨d.isLt, hf0, trivial⟩,
    bits_pack [(2, t.pop.toNat), (2, t.push.toNat), (6, o), (4, a.toNat), (4, b.toNat), (1, c.toNat)] 3 d [(10, f0)] ⟨hf0, trivial⟩⟩
  simp only [enc4, enc3, enc2, enc1, enc0, Tok.place, pack, width]
  omega

theorem shape52 (t : Tok) (o f0 f1 : Nat) (a : BitVec 4) (b : BitVec 3) (ho : o < 2 ^ 6) (hf0 : f0 < 2 ^ 10) (hf1 : f1 < 2 ^ 5) :
    ∃ w, enc2 (o * 4194304 + f0 * 1 + f1 * 8192) t a.toNat 18 b.toNat 10 = w ∧ w < 2 ^ 32 ∧ fieldNat w 22 6 = o ∧ fieldNat w 0 10 = f0 ∧ fieldNat w 13 5 = f1 ∧ tok w = t ∧ bits w 18 4 = a ∧ bits w 10 3 = b := by
  refine ⟨pack [(2, t.pop.toNat), (2, t.push.toNat), (6, o), (4, a.toNat), (5, f1), (3, b.toNat), (10, f0)], ?_,
    pack_lt [(2, t.pop.toNat), (2, t.push.toNat), (6, o), (4, a.toNat), (5, f1), (3, b.toNat), (10, f0)] ⟨t.pop.isLt, t.push.isLt, ho, a.isLt, hf1, b.isLt, hf0, trivial⟩,
    field_pack [(2, t.pop.toNat), (2, t.push.toNat)] 6 o [(4, a.toNat), (5, f1), (3, b.toNat), (10, f0)] ho ⟨a.isLt, hf1, b.isLt, hf0, trivial⟩,
    field_pack [(2, t.pop.toNat), (2, t.push.toNat), (6, o), (4, a.toNat), (5, f1), (3, b.toNat)] 10 f0 [] hf0 trivial,
    field_pack [(2, t.pop.toNat), (2, t.push.toNat), (6, o), (4, a.toNat)] 5 f1 [(3, b.toNat), (10, f0)] hf1 ⟨b.isLt, hf0, trivial⟩,
    tok_pack t [(6, o), (4, a.toNat), (5, f1), (3, b.toNat), (10, f0)] ⟨ho, a.isLt, hf1, b.isLt, hf0, trivial⟩ rfl,
    bits_pack [(2, t.pop.toNat), (2, t.push.toNat), (6, o)] 4 a [(5, f1), (3, b.toNat), (10, f0)] ⟨hf1, b.isLt, hf0, trivial⟩,
    bits_pack [(2, t.pop.toNat), (2, t.push.toNat), (6, o), (4, a.toNat), (5, f1)] 3 b [(10, f0)] ⟨hf0, trivial⟩⟩
  simp only [enc2, enc1, enc0, Tok.place, pack, width]
  omega

theorem shape53 (t : Tok) (o f0 f1 : Nat) (a : BitVec 4) (b : BitVec 12) (ho : o < 2 ^ 6) (hf0 : f0 < 2 ^ 2) (hf1 : f1 < 2 ^ 4) :
    ∃ w, enc2 (o * 4194304 + f0 * 4096 + f1 * 262144) t a.toNat 14 b.toNat 0 = w ∧ w < 2 ^ 32 ∧ fieldNat w 22 6 = o ∧ fieldNat w 12 2 = f0 ∧ fieldNat w 18 4 = f1 ∧ tok w = t ∧ bits w 14 4 = a ∧ bits w 0 12 = b := by
  refine ⟨pack [(2, t.pop.toNat), (2, t.push.toNat), (6, o), (4, f1), (4, a.toNat), (2, f0), (12, b.toNat)], ?_,
    pack_lt [(2, t.pop.toNat), (2, t.push.toNat), (6, o), (4, f1), (4, a.toNat), (2, f0), (12, b.toNat)] ⟨t.pop.isLt, t.push.isLt, ho, hf1, a.isLt, hf0, b.isLt, trivial⟩,
    field_pack [(2, t.pop.toNat), (2, t.push.toNat)] 6 o [(4, f1), (4, a.toNat), (2, f0), (12, b.toNat)] ho ⟨hf1, a.isLt, hf0, b.isLt, trivial⟩,
    field_pack [(2, t.pop.toNat), (2, t.push.toNat), (6, o), (4, f1), (4, a.toNat)] 2 f0 [(12, b.toNat)] hf0 ⟨b.isLt, trivial⟩,
    field_pack [(2, t.pop.toNat), (2, t.push.toNat), (6, o)] 4 f1 [(4, a.toNat), (2, f0), (12, b.toNat)] hf1 ⟨a.isLt, hf0, b.isLt, trivial⟩,
    tok_pack t [(6, o), (4, f1), (4, a.toNat), (2, f0), (12, b.toNat)] ⟨ho, hf1, a.isLt, hf0, b.isLt, trivial⟩ rfl,
    bits_pack [(2, t.pop.toNat), (2, t.push.toNat), (6, o), (4, f1)] 4 a [(2, f0), (12, b.toNat)] ⟨hf0, b.isLt, trivial⟩,
    bits_pack [(2, t.pop.toNat), (2, t.push.toNat), (6, o), (4, f1), (4, a.toNat), (2, f0)] 12 b [] trivial⟩
  simp only [enc2, enc1, enc0, Tok.place, pack, width]
  omega

theorem add (t : Tok) (xd : BitVec 5) (xa : BitVec 5) (xb : BitVec 5) : Statement (.add t xd xa xb) := by
  obtain ⟨w, e, hb, ho, h0, rfl, rfl, rfl, rfl⟩ := shape0 t 0x1 0x0 xd xa xb (by decide) (by decide)
  exact close (st := .S) rfl e hb ((congrArg (rowSAt · w) ho).trans (if_pos h0))

theorem sub (t : Tok) (xd : BitVec 5) (xa : BitVec 5) (xb : BitVec 5) : Statement (.sub t xd xa xb) := by
  obtain ⟨w, e, hb, ho, h0, rfl, rfl, rfl, rfl⟩ := shape0 t 0x1 0x1 xd xa xb (by decide) (by decide)
  exact close (st := .S) rfl e hb ((congrArg (rowSAt · w) ho).trans ((if_neg (ne 0x0 h0 rfl)).trans (if_pos h0)))

theorem and (t : Tok) (xd : BitVec 5) (xa : BitVec 5) (xb : BitVec 5) : Statement (.and t xd xa xb) := by
  obtain ⟨w, e, hb, ho, h0, rfl, rfl, rfl, rfl⟩ := shape0 t 0x1 0x2 xd xa xb (by decide) (by decide)
  exact close (st := .S) rfl e hb ((congrArg (rowSAt · w) ho).trans ((if_neg (ne 0x0 h0 rfl)).trans ((if_neg (ne 0x1 h0 rfl)).trans (if_pos h0))))

theorem or (t : Tok) (xd : BitVec 5) (xa : BitVec 5) (xb : BitVec 5) : Statement (.or t xd xa xb) := by
  obtain ⟨w, e, hb, ho, h0, rfl, rfl, rfl, rfl⟩ := shape0 t 0x1 0x3 xd xa xb (by decide) (by decide)
  exact close (st := .S) rfl e hb ((congrArg (rowSAt · w) ho).trans ((if_neg (ne 0x0 h0 rfl)).trans ((if_neg (ne 0x1 h0 rfl)).trans ((if_neg (ne 0x2 h0 rfl)).trans (if_pos h0)))))

theorem xor (t : Tok) (xd : BitVec 5) (xa : BitVec 5) (xb : BitVec 5) : Statement (.xor t xd xa xb) := by
  obtain ⟨w, e, hb, ho, h0, rfl, rfl, rfl, rfl⟩ := shape0 t 0x1 0x4 xd xa xb (by decide) (by decide)
  exact close (st := .S) rfl e hb ((congrArg (rowSAt · w) ho).trans ((if_neg (ne 0x0 h0 rfl)).trans ((if_neg (ne 0x1 h0 rfl)).trans ((if_neg (ne 0x2 h0 rfl)).trans ((if_neg (ne 0x3 h0 rfl)).trans (if_pos h0))))))

theorem sll (t : Tok) (xd : BitVec 5) (xa : BitVec 5) (xb : BitVec 5) : Statement (.sll t xd xa xb) := by
  obtain ⟨w, e, hb, ho, h0, rfl, rfl, rfl, rfl⟩ := shape0 t 0x1 0x5 xd xa xb (by decide) (by decide)
  exact close (st := .S) rfl e hb ((congrArg (rowSAt · w) ho).trans ((if_neg (ne 0x0 h0 rfl)).trans ((if_neg (ne 0x1 h0 rfl)).trans ((if_neg (ne 0x2 h0 rfl)).trans ((if_neg (ne 0x3 h0 rfl)).trans ((if_neg (ne 0x4 h0 rfl)).trans (if_pos h0)))))))

theorem srl (t : Tok) (xd : BitVec 5) (xa : BitVec 5) (xb : BitVec 5) : Statement (.srl t xd xa xb) := by
  obtain ⟨w, e, hb, ho, h0, rfl, rfl, rfl, rfl⟩ := shape0 t 0x1 0x6 xd xa xb (by decide) (by decide)
  exact close (st := .S) rfl e hb ((congrArg (rowSAt · w) ho).trans ((if_neg (ne 0x0 h0 rfl)).trans ((if_neg (ne 0x1 h0 rfl)).trans ((if_neg (ne 0x2 h0 rfl)).trans ((if_neg (ne 0x3 h0 rfl)).trans ((if_neg (ne 0x4 h0 rfl)).trans ((if_neg (ne 0x5 h0 rfl)).trans (if_pos h0))))))))

theorem sra (t : Tok) (xd : BitVec 5) (xa : BitVec 5) (xb : BitVec 5) : Statement (.sra t xd xa xb) := by
  obtain ⟨w, e, hb, ho, h0, rfl, rfl, rfl, rfl⟩ := shape0 t 0x1 0x7 xd xa xb (by decide) (by decide)
  exact close (st := .S) rfl e hb ((congrArg (rowSAt · w) ho).trans ((if_neg (ne 0x0 h0 rfl)).trans ((if_neg (ne 0x1 h0 rfl)).trans ((if_neg (ne 0x2 h0 rfl)).trans ((if_neg (ne 0x3 h0 rfl)).trans ((if_neg (ne 0x4 h0 rfl)).trans ((if_neg (ne 0x5 h0 rfl)).trans ((if_neg (ne 0x6 h0 rfl)).trans (if_pos h0)))))))))

theorem slt (t : Tok) (xd : BitVec 5) (xa : BitVec 5) (xb : BitVec 5) : Statement (.slt t xd xa xb) := by
  obtain ⟨w, e, hb, ho, h0, rfl, rfl, rfl, rfl⟩ := shape0 t 0x1 0x8 xd xa xb (by decide) (by decide)
  exact close (st := .S) rfl e hb ((congrArg (rowSAt · w) ho).trans ((if_neg (ne 0x0 h0 rfl)).trans ((if_neg (ne 0x1 h0 rfl)).trans ((if_neg (ne 0x2 h0 rfl)).trans ((if_neg (ne 0x3 h0 rfl)).trans ((if_neg (ne 0x4 h0 rfl)).trans ((if_neg (ne 0x5 h0 rfl)).trans ((if_neg (ne 0x6 h0 rfl)).trans ((if_neg (ne 0x7 h0 rfl)).trans (if_pos h0))))))))))

theorem sltU (t : Tok) (xd : BitVec 5) (xa : BitVec 5) (xb : BitVec 5) : Statement (.sltU t xd xa xb) := by
  obtain ⟨w, e, hb, ho, h0, rfl, rfl, rfl, rfl⟩ := shape0 t 0x1 0x9 xd xa xb (by decide) (by decide)
  exact close (st := .S) rfl e hb ((congrArg (rowSAt · w) ho).trans ((if_neg (ne 0x0 h0 rfl)).trans ((if_neg (ne 0x1 h0 rfl)).trans ((if_neg (ne 0x2 h0 rfl)).trans ((if_neg (ne 0x3 h0 rfl)).trans ((if_neg (ne 0x4 h0 rfl)).trans ((if_neg (ne 0x5 h0 rfl)).trans ((if_neg (ne 0x6 h0 rfl)).trans ((if_neg (ne 0x7 h0 rfl)).trans ((if_neg (ne 0x8 h0 rfl)).trans (if_pos h0)))))))))))

theorem min (t : Tok) (xd : BitVec 5) (xa : BitVec 5) (xb : BitVec 5) : Statement (.min t xd xa xb) := by
  obtain ⟨w, e, hb, ho, h0, rfl, rfl, rfl, rfl⟩ := shape0 t 0x1 0xA xd xa xb (by decide) (by decide)
  exact close (st := .S) rfl e hb ((congrArg (rowSAt · w) ho).trans ((if_neg (ne 0x0 h0 rfl)).trans ((if_neg (ne 0x1 h0 rfl)).trans ((if_neg (ne 0x2 h0 rfl)).trans ((if_neg (ne 0x3 h0 rfl)).trans ((if_neg (ne 0x4 h0 rfl)).trans ((if_neg (ne 0x5 h0 rfl)).trans ((if_neg (ne 0x6 h0 rfl)).trans ((if_neg (ne 0x7 h0 rfl)).trans ((if_neg (ne 0x8 h0 rfl)).trans ((if_neg (ne 0x9 h0 rfl)).trans (if_pos h0))))))))))))

theorem minU (t : Tok) (xd : BitVec 5) (xa : BitVec 5) (xb : BitVec 5) : Statement (.minU t xd xa xb) := by
  obtain ⟨w, e, hb, ho, h0, rfl, rfl, rfl, rfl⟩ := shape0 t 0x1 0xB xd xa xb (by decide) (by decide)
  exact close (st := .S) rfl e hb ((congrArg (rowSAt · w) ho).trans ((if_neg (ne 0x0 h0 rfl)).trans ((if_neg (ne 0x1 h0 rfl)).trans ((if_neg (ne 0x2 h0 rfl)).trans ((if_neg (ne 0x3 h0 rfl)).trans ((if_neg (ne 0x4 h0 rfl)).trans ((if_neg (ne 0x5 h0 rfl)).trans ((if_neg (ne 0x6 h0 rfl)).trans ((if_neg (ne 0x7 h0 rfl)).trans ((if_neg (ne 0x8 h0 rfl)).trans ((if_neg (ne 0x9 h0 rfl)).trans ((if_neg (ne 0xA h0 rfl)).trans (if_pos h0)))))))))))))

theorem max (t : Tok) (xd : BitVec 5) (xa : BitVec 5) (xb : BitVec 5) : Statement (.max t xd xa xb) := by
  obtain ⟨w, e, hb, ho, h0, rfl, rfl, rfl, rfl⟩ := shape0 t 0x1 0xC xd xa xb (by decide) (by decide)
  exact close (st := .S) rfl e hb ((congrArg (rowSAt · w) ho).trans ((if_neg (ne 0x0 h0 rfl)).trans ((if_neg (ne 0x1 h0 rfl)).trans ((if_neg (ne 0x2 h0 rfl)).trans ((if_neg (ne 0x3 h0 rfl)).trans ((if_neg (ne 0x4 h0 rfl)).trans ((if_neg (ne 0x5 h0 rfl)).trans ((if_neg (ne 0x6 h0 rfl)).trans ((if_neg (ne 0x7 h0 rfl)).trans ((if_neg (ne 0x8 h0 rfl)).trans ((if_neg (ne 0x9 h0 rfl)).trans ((if_neg (ne 0xA h0 rfl)).trans ((if_neg (ne 0xB h0 rfl)).trans (if_pos h0))))))))))))))

theorem maxU (t : Tok) (xd : BitVec 5) (xa : BitVec 5) (xb : BitVec 5) : Statement (.maxU t xd xa xb) := by
  obtain ⟨w, e, hb, ho, h0, rfl, rfl, rfl, rfl⟩ := shape0 t 0x1 0xD xd xa xb (by decide) (by decide)
  exact close (st := .S) rfl e hb ((congrArg (rowSAt · w) ho).trans ((if_neg (ne 0x0 h0 rfl)).trans ((if_neg (ne 0x1 h0 rfl)).trans ((if_neg (ne 0x2 h0 rfl)).trans ((if_neg (ne 0x3 h0 rfl)).trans ((if_neg (ne 0x4 h0 rfl)).trans ((if_neg (ne 0x5 h0 rfl)).trans ((if_neg (ne 0x6 h0 rfl)).trans ((if_neg (ne 0x7 h0 rfl)).trans ((if_neg (ne 0x8 h0 rfl)).trans ((if_neg (ne 0x9 h0 rfl)).trans ((if_neg (ne 0xA h0 rfl)).trans ((if_neg (ne 0xB h0 rfl)).trans ((if_neg (ne 0xC h0 rfl)).trans (if_pos h0)))))))))))))))

theorem mul (t : Tok) (xd : BitVec 5) (xa : BitVec 5) (xb : BitVec 5) : Statement (.mul t xd xa xb) := by
  obtain ⟨w, e, hb, ho, h0, rfl, rfl, rfl, rfl⟩ := shape0 t 0x2 0x0 xd xa xb (by decide) (by decide)
  exact close (st := .S) rfl e hb ((congrArg (rowSAt · w) ho).trans (if_pos h0))

theorem mulh (t : Tok) (xd : BitVec 5) (xa : BitVec 5) (xb : BitVec 5) : Statement (.mulh t xd xa xb) := by
  obtain ⟨w, e, hb, ho, h0, rfl, rfl, rfl, rfl⟩ := shape0 t 0x2 0x1 xd xa xb (by decide) (by decide)
  exact close (st := .S) rfl e hb ((congrArg (rowSAt · w) ho).trans ((if_neg (ne 0x0 h0 rfl)).trans (if_pos h0)))

theorem mulhU (t : Tok) (xd : BitVec 5) (xa : BitVec 5) (xb : BitVec 5) : Statement (.mulhU t xd xa xb) := by
  obtain ⟨w, e, hb, ho, h0, rfl, rfl, rfl, rfl⟩ := shape0 t 0x2 0x2 xd xa xb (by decide) (by decide)
  exact close (st := .S) rfl e hb ((congrArg (rowSAt · w) ho).trans ((if_neg (ne 0x0 h0 rfl)).trans ((if_neg (ne 0x1 h0 rfl)).trans (if_pos h0))))

theorem div (t : Tok) (xd : BitVec 5) (xa : BitVec 5) (xb : BitVec 5) : Statement (.div t xd xa xb) := by
  obtain ⟨w, e, hb, ho, h0, rfl, rfl, rfl, rfl⟩ := shape0 t 0x2 0x3 xd xa xb (by decide) (by decide)
  exact close (st := .S) rfl e hb ((congrArg (rowSAt · w) ho).trans ((if_neg (ne 0x0 h0 rfl)).trans ((if_neg (ne 0x1 h0 rfl)).trans ((if_neg (ne 0x2 h0 rfl)).trans (if_pos h0)))))

theorem divU (t : Tok) (xd : BitVec 5) (xa : BitVec 5) (xb : BitVec 5) : Statement (.divU t xd xa xb) := by
  obtain ⟨w, e, hb, ho, h0, rfl, rfl, rfl, rfl⟩ := shape0 t 0x2 0x4 xd xa xb (by decide) (by decide)
  exact close (st := .S) rfl e hb ((congrArg (rowSAt · w) ho).trans ((if_neg (ne 0x0 h0 rfl)).trans ((if_neg (ne 0x1 h0 rfl)).trans ((if_neg (ne 0x2 h0 rfl)).trans ((if_neg (ne 0x3 h0 rfl)).trans (if_pos h0))))))

theorem rem (t : Tok) (xd : BitVec 5) (xa : BitVec 5) (xb : BitVec 5) : Statement (.rem t xd xa xb) := by
  obtain ⟨w, e, hb, ho, h0, rfl, rfl, rfl, rfl⟩ := shape0 t 0x2 0x5 xd xa xb (by decide) (by decide)
  exact close (st := .S) rfl e hb ((congrArg (rowSAt · w) ho).trans ((if_neg (ne 0x0 h0 rfl)).trans ((if_neg (ne 0x1 h0 rfl)).trans ((if_neg (ne 0x2 h0 rfl)).trans ((if_neg (ne 0x3 h0 rfl)).trans ((if_neg (ne 0x4 h0 rfl)).trans (if_pos h0)))))))

theorem remU (t : Tok) (xd : BitVec 5) (xa : BitVec 5) (xb : BitVec 5) : Statement (.remU t xd xa xb) := by
  obtain ⟨w, e, hb, ho, h0, rfl, rfl, rfl, rfl⟩ := shape0 t 0x2 0x6 xd xa xb (by decide) (by decide)
  exact close (st := .S) rfl e hb ((congrArg (rowSAt · w) ho).trans ((if_neg (ne 0x0 h0 rfl)).trans ((if_neg (ne 0x1 h0 rfl)).trans ((if_neg (ne 0x2 h0 rfl)).trans ((if_neg (ne 0x3 h0 rfl)).trans ((if_neg (ne 0x4 h0 rfl)).trans ((if_neg (ne 0x5 h0 rfl)).trans (if_pos h0))))))))

theorem clz (t : Tok) (xd : BitVec 5) (xa : BitVec 5) : Statement (.clz t xd xa) := by
  obtain ⟨w, e, hb, ho, h0, rfl, rfl, rfl⟩ := shape1 t 0x3 0x0 xd xa (by decide) (by decide)
  exact close (st := .S) rfl e hb ((congrArg (rowSAt · w) ho).trans (if_pos h0))

theorem ctz (t : Tok) (xd : BitVec 5) (xa : BitVec 5) : Statement (.ctz t xd xa) := by
  obtain ⟨w, e, hb, ho, h0, rfl, rfl, rfl⟩ := shape1 t 0x3 0x1 xd xa (by decide) (by decide)
  exact close (st := .S) rfl e hb ((congrArg (rowSAt · w) ho).trans ((if_neg (ne 0x0 h0 rfl)).trans (if_pos h0)))

theorem popc (t : Tok) (xd : BitVec 5) (xa : BitVec 5) : Statement (.popc t xd xa) := by
  obtain ⟨w, e, hb, ho, h0, rfl, rfl, rfl⟩ := shape1 t 0x3 0x2 xd xa (by decide) (by decide)
  exact close (st := .S) rfl e hb ((congrArg (rowSAt · w) ho).trans ((if_neg (ne 0x0 h0 rfl)).trans ((if_neg (ne 0x1 h0 rfl)).trans (if_pos h0))))

theorem fsh (t : Tok) (xd : BitVec 5) (xa : BitVec 5) (xb : BitVec 5) (n : BitVec 6) : Statement (.fsh t xd xa xb n) := by
  obtain ⟨w, e, hb, ho, h0, rfl, rfl, rfl, rfl, rfl⟩ := shape2 t 0x3 0x1 xd xa xb n (by decide) (by decide)
  exact close (st := .S) rfl e hb ((congrArg (rowSAt · w) ho).trans ((if_neg (by unfold fieldNat at *; omega)).trans ((if_neg (by unfold fieldNat at *; omega)).trans ((if_neg (by unfold fieldNat at *; omega)).trans (if_pos h0)))))

theorem addImmediate (t : Tok) (xd : BitVec 5) (xa : BitVec 5) (imm : BitVec 12) : Statement (.addImmediate t xd xa imm) := by
  obtain ⟨w, e, hb, ho, rfl, rfl, rfl, rfl⟩ := shape3 t 0x4 xd xa imm (by decide)
  exact close (st := .S) rfl e hb ((congrArg (rowSAt · w) ho).trans (rfl))

theorem andImmediate (t : Tok) (xd : BitVec 5) (xa : BitVec 5) (imm : BitVec 12) : Statement (.andImmediate t xd xa imm) := by
  obtain ⟨w, e, hb, ho, rfl, rfl, rfl, rfl⟩ := shape3 t 0x5 xd xa imm (by decide)
  exact close (st := .S) rfl e hb ((congrArg (rowSAt · w) ho).trans (rfl))

theorem orImmediate (t : Tok) (xd : BitVec 5) (xa : BitVec 5) (imm : BitVec 12) : Statement (.orImmediate t xd xa imm) := by
  obtain ⟨w, e, hb, ho, rfl, rfl, rfl, rfl⟩ := shape3 t 0x6 xd xa imm (by decide)
  exact close (st := .S) rfl e hb ((congrArg (rowSAt · w) ho).trans (rfl))

theorem xorImmediate (t : Tok) (xd : BitVec 5) (xa : BitVec 5) (imm : BitVec 12) : Statement (.xorImmediate t xd xa imm) := by
  obtain ⟨w, e, hb, ho, rfl, rfl, rfl, rfl⟩ := shape3 t 0x7 xd xa imm (by decide)
  exact close (st := .S) rfl e hb ((congrArg (rowSAt · w) ho).trans (rfl))

theorem sllImmediate (t : Tok) (xd : BitVec 5) (xa : BitVec 5) (sh : BitVec 6) : Statement (.sllImmediate t xd xa sh) := by
  obtain ⟨w, e, hb, ho, h0, rfl, rfl, rfl, rfl⟩ := shape4 t 0x8 0x0 xd xa sh (by decide) (by decide)
  exact close (st := .S) rfl e hb ((congrArg (rowSAt · w) ho).trans (if_pos h0))

theorem srlImmediate (t : Tok) (xd : BitVec 5) (xa : BitVec 5) (sh : BitVec 6) : Statement (.srlImmediate t xd xa sh) := by
  obtain ⟨w, e, hb, ho, h0, rfl, rfl, rfl, rfl⟩ := shape4 t 0x9 0x0 xd xa sh (by decide) (by decide)
  exact close (st := .S) rfl e hb ((congrArg (rowSAt · w) ho).trans (if_pos h0))

theorem sraImmediate (t : Tok) (xd : BitVec 5) (xa : BitVec 5) (sh : BitVec 6) : Statement (.sraImmediate t xd xa sh) := by
  obtain ⟨w, e, hb, ho, h0, rfl, rfl, rfl, rfl⟩ := shape4 t 0xA 0x0 xd xa sh (by decide) (by decide)
  exact close (st := .S) rfl e hb ((congrArg (rowSAt · w) ho).trans (if_pos h0))

theorem sltImmediate (t : Tok) (xd : BitVec 5) (xa : BitVec 5) (imm : BitVec 12) : Statement (.sltImmediate t xd xa imm) := by
  obtain ⟨w, e, hb, ho, rfl, rfl, rfl, rfl⟩ := shape3 t 0xB xd xa imm (by decide)
  exact close (st := .S) rfl e hb ((congrArg (rowSAt · w) ho).trans (rfl))

theorem bfx (t : Tok) (xd : BitVec 5) (xa : BitVec 5) (pos : BitVec 6) (len1 : BitVec 6) : Statement (.bfx t xd xa pos len1) := by
  obtain ⟨w, e, hb, ho, rfl, rfl, rfl, rfl, rfl⟩ := shape5 t 0xC xd xa pos len1 (by decide)
  exact close (st := .S) rfl e hb ((congrArg (rowSAt · w) ho).trans (rfl))

theorem bfxU (t : Tok) (xd : BitVec 5) (xa : BitVec 5) (pos : BitVec 6) (len1 : BitVec 6) : Statement (.bfxU t xd xa pos len1) := by
  obtain ⟨w, e, hb, ho, rfl, rfl, rfl, rfl, rfl⟩ := shape5 t 0xD xd xa pos len1 (by decide)
  exact close (st := .S) rfl e hb ((congrArg (rowSAt · w) ho).trans (rfl))

theorem bfi (t : Tok) (xd : BitVec 5) (xa : BitVec 5) (pos : BitVec 6) (len1 : BitVec 6) : Statement (.bfi t xd xa pos len1) := by
  obtain ⟨w, e, hb, ho, rfl, rfl, rfl, rfl, rfl⟩ := shape5 t 0xE xd xa pos len1 (by decide)
  exact close (st := .S) rfl e hb ((congrArg (rowSAt · w) ho).trans (rfl))

theorem lui (t : Tok) (xd : BitVec 5) (imm : BitVec 17) : Statement (.lui t xd imm) := by
  obtain ⟨w, e, hb, ho, rfl, rfl, rfl⟩ := shape6 t 0xF xd imm (by decide)
  exact close (st := .S) rfl e hb ((congrArg (rowSAt · w) ho).trans (rfl))

theorem orsh (t : Tok) (xd : BitVec 5) (imm : BitVec 16) : Statement (.orsh t xd imm) := by
  obtain ⟨w, e, hb, ho, h0, rfl, rfl, rfl⟩ := shape7 t 0x10 0x0 xd imm (by decide) (by decide)
  exact close (st := .S) rfl e hb ((congrArg (rowSAt · w) ho).trans (if_pos h0))

theorem ldB (t : Tok) (xd : BitVec 5) (xa : BitVec 5) (imm : BitVec 12) : Statement (.ldB t xd xa imm) := by
  obtain ⟨w, e, hb, ho, rfl, rfl, rfl, rfl⟩ := shape3 t 0x11 xd xa imm (by decide)
  exact close (st := .S) rfl e hb ((congrArg (rowSAt · w) ho).trans (rfl))

theorem ldH (t : Tok) (xd : BitVec 5) (xa : BitVec 5) (imm : BitVec 12) : Statement (.ldH t xd xa imm) := by
  obtain ⟨w, e, hb, ho, rfl, rfl, rfl, rfl⟩ := shape3 t 0x12 xd xa imm (by decide)
  exact close (st := .S) rfl e hb ((congrArg (rowSAt · w) ho).trans (rfl))

theorem ldW (t : Tok) (xd : BitVec 5) (xa : BitVec 5) (imm : BitVec 12) : Statement (.ldW t xd xa imm) := by
  obtain ⟨w, e, hb, ho, rfl, rfl, rfl, rfl⟩ := shape3 t 0x13 xd xa imm (by decide)
  exact close (st := .S) rfl e hb ((congrArg (rowSAt · w) ho).trans (rfl))

theorem ldD (t : Tok) (xd : BitVec 5) (xa : BitVec 5) (imm : BitVec 12) : Statement (.ldD t xd xa imm) := by
  obtain ⟨w, e, hb, ho, rfl, rfl, rfl, rfl⟩ := shape3 t 0x14 xd xa imm (by decide)
  exact close (st := .S) rfl e hb ((congrArg (rowSAt · w) ho).trans (rfl))

theorem ldBU (t : Tok) (xd : BitVec 5) (xa : BitVec 5) (imm : BitVec 12) : Statement (.ldBU t xd xa imm) := by
  obtain ⟨w, e, hb, ho, rfl, rfl, rfl, rfl⟩ := shape3 t 0x15 xd xa imm (by decide)
  exact close (st := .S) rfl e hb ((congrArg (rowSAt · w) ho).trans (rfl))

theorem ldHU (t : Tok) (xd : BitVec 5) (xa : BitVec 5) (imm : BitVec 12) : Statement (.ldHU t xd xa imm) := by
  obtain ⟨w, e, hb, ho, rfl, rfl, rfl, rfl⟩ := shape3 t 0x16 xd xa imm (by decide)
  exact close (st := .S) rfl e hb ((congrArg (rowSAt · w) ho).trans (rfl))

theorem ldWU (t : Tok) (xd : BitVec 5) (xa : BitVec 5) (imm : BitVec 12) : Statement (.ldWU t xd xa imm) := by
  obtain ⟨w, e, hb, ho, rfl, rfl, rfl, rfl⟩ := shape3 t 0x17 xd xa imm (by decide)
  exact close (st := .S) rfl e hb ((congrArg (rowSAt · w) ho).trans (rfl))

theorem stB (t : Tok) (xs : BitVec 5) (xa : BitVec 5) (imm : BitVec 12) : Statement (.stB t xs xa imm) := by
  obtain ⟨w, e, hb, ho, rfl, rfl, rfl, rfl⟩ := shape3 t 0x18 xs xa imm (by decide)
  exact close (st := .S) rfl e hb ((congrArg (rowSAt · w) ho).trans (rfl))

theorem stH (t : Tok) (xs : BitVec 5) (xa : BitVec 5) (imm : BitVec 12) : Statement (.stH t xs xa imm) := by
  obtain ⟨w, e, hb, ho, rfl, rfl, rfl, rfl⟩ := shape3 t 0x19 xs xa imm (by decide)
  exact close (st := .S) rfl e hb ((congrArg (rowSAt · w) ho).trans (rfl))

theorem stW (t : Tok) (xs : BitVec 5) (xa : BitVec 5) (imm : BitVec 12) : Statement (.stW t xs xa imm) := by
  obtain ⟨w, e, hb, ho, rfl, rfl, rfl, rfl⟩ := shape3 t 0x1A xs xa imm (by decide)
  exact close (st := .S) rfl e hb ((congrArg (rowSAt · w) ho).trans (rfl))

theorem stD (t : Tok) (xs : BitVec 5) (xa : BitVec 5) (imm : BitVec 12) : Statement (.stD t xs xa imm) := by
  obtain ⟨w, e, hb, ho, rfl, rfl, rfl, rfl⟩ := shape3 t 0x1B xs xa imm (by decide)
  exact close (st := .S) rfl e hb ((congrArg (rowSAt · w) ho).trans (rfl))

theorem ldlu (t : Tok) (xd : BitVec 5) (xa : BitVec 5) (imm : BitVec 12) : Statement (.ldlu t xd xa imm) := by
  obtain ⟨w, e, hb, ho, rfl, rfl, rfl, rfl⟩ := shape3 t 0x1C xd xa imm (by decide)
  exact close (st := .S) rfl e hb ((congrArg (rowSAt · w) ho).trans (rfl))

theorem pref (t : Tok) (xa : BitVec 5) (imm : BitVec 12) : Statement (.pref t xa imm) := by
  obtain ⟨w, e, hb, ho, h0, rfl, rfl, rfl⟩ := shape8 t 0x1D 0x0 xa imm (by decide) (by decide)
  exact close (st := .S) rfl e hb ((congrArg (rowSAt · w) ho).trans (if_pos h0))

theorem resq (t : Tok) (xd : BitVec 5) (xa : BitVec 5) (imm : BitVec 12) : Statement (.resq t xd xa imm) := by
  obtain ⟨w, e, hb, ho, rfl, rfl, rfl, rfl⟩ := shape3 t 0x1E xd xa imm (by decide)
  exact close (st := .S) rfl e hb ((congrArg (rowSAt · w) ho).trans (rfl))

theorem amoSwap (t : Tok) (xd : BitVec 5) (xa : BitVec 5) (xb : BitVec 5) (scope : BitVec 2) (wide : BitVec 1) : Statement (.amoSwap t xd xa xb scope wide) := by
  obtain ⟨w, e, hb, ho, h0, h1, rfl, rfl, rfl, rfl, rfl, rfl⟩ := shape9 t 0x1F 0x0 0x0 xd xa xb scope wide (by decide) (by decide) (by decide)
  exact close (st := .S) rfl e hb ((congrArg (rowSAt · w) ho).trans (if_pos ⟨h0, h1⟩))

theorem amoAdd (t : Tok) (xd : BitVec 5) (xa : BitVec 5) (xb : BitVec 5) (scope : BitVec 2) (wide : BitVec 1) : Statement (.amoAdd t xd xa xb scope wide) := by
  obtain ⟨w, e, hb, ho, h0, h1, rfl, rfl, rfl, rfl, rfl, rfl⟩ := shape9 t 0x1F 0x0 0x1 xd xa xb scope wide (by decide) (by decide) (by decide)
  exact close (st := .S) rfl e hb ((congrArg (rowSAt · w) ho).trans ((if_neg (fun h => ne 0x0 h1 rfl h.2)).trans (if_pos ⟨h0, h1⟩)))

theorem amoAnd (t : Tok) (xd : BitVec 5) (xa : BitVec 5) (xb : BitVec 5) (scope : BitVec 2) (wide : BitVec 1) : Statement (.amoAnd t xd xa xb scope wide) := by
  obtain ⟨w, e, hb, ho, h0, h1, rfl, rfl, rfl, rfl, rfl, rfl⟩ := shape9 t 0x1F 0x0 0x2 xd xa xb scope wide (by decide) (by decide) (by decide)
  exact close (st := .S) rfl e hb ((congrArg (rowSAt · w) ho).trans ((if_neg (fun h => ne 0x0 h1 rfl h.2)).trans ((if_neg (fun h => ne 0x1 h1 rfl h.2)).trans (if_pos ⟨h0, h1⟩))))

theorem amoOr (t : Tok) (xd : BitVec 5) (xa : BitVec 5) (xb : BitVec 5) (scope : BitVec 2) (wide : BitVec 1) : Statement (.amoOr t xd xa xb scope wide) := by
  obtain ⟨w, e, hb, ho, h0, h1, rfl, rfl, rfl, rfl, rfl, rfl⟩ := shape9 t 0x1F 0x0 0x3 xd xa xb scope wide (by decide) (by decide) (by decide)
  exact close (st := .S) rfl e hb ((congrArg (rowSAt · w) ho).trans ((if_neg (fun h => ne 0x0 h1 rfl h.2)).trans ((if_neg (fun h => ne 0x1 h1 rfl h.2)).trans ((if_neg (fun h => ne 0x2 h1 rfl h.2)).trans (if_pos ⟨h0, h1⟩)))))

theorem amoXor (t : Tok) (xd : BitVec 5) (xa : BitVec 5) (xb : BitVec 5) (scope : BitVec 2) (wide : BitVec 1) : Statement (.amoXor t xd xa xb scope wide) := by
  obtain ⟨w, e, hb, ho, h0, h1, rfl, rfl, rfl, rfl, rfl, rfl⟩ := shape9 t 0x1F 0x0 0x4 xd xa xb scope wide (by decide) (by decide) (by decide)
  exact close (st := .S) rfl e hb ((congrArg (rowSAt · w) ho).trans ((if_neg (fun h => ne 0x0 h1 rfl h.2)).trans ((if_neg (fun h => ne 0x1 h1 rfl h.2)).trans ((if_neg (fun h => ne 0x2 h1 rfl h.2)).trans ((if_neg (fun h => ne 0x3 h1 rfl h.2)).trans (if_pos ⟨h0, h1⟩))))))

theorem amoMin (t : Tok) (xd : BitVec 5) (xa : BitVec 5) (xb : BitVec 5) (scope : BitVec 2) (wide : BitVec 1) : Statement (.amoMin t xd xa xb scope wide) := by
  obtain ⟨w, e, hb, ho, h0, h1, rfl, rfl, rfl, rfl, rfl, rfl⟩ := shape9 t 0x1F 0x0 0x5 xd xa xb scope wide (by decide) (by decide) (by decide)
  exact close (st := .S) rfl e hb ((congrArg (rowSAt · w) ho).trans ((if_neg (fun h => ne 0x0 h1 rfl h.2)).trans ((if_neg (fun h => ne 0x1 h1 rfl h.2)).trans ((if_neg (fun h => ne 0x2 h1 rfl h.2)).trans ((if_neg (fun h => ne 0x3 h1 rfl h.2)).trans ((if_neg (fun h => ne 0x4 h1 rfl h.2)).trans (if_pos ⟨h0, h1⟩)))))))

theorem amoMax (t : Tok) (xd : BitVec 5) (xa : BitVec 5) (xb : BitVec 5) (scope : BitVec 2) (wide : BitVec 1) : Statement (.amoMax t xd xa xb scope wide) := by
  obtain ⟨w, e, hb, ho, h0, h1, rfl, rfl, rfl, rfl, rfl, rfl⟩ := shape9 t 0x1F 0x0 0x6 xd xa xb scope wide (by decide) (by decide) (by decide)
  exact close (st := .S) rfl e hb ((congrArg (rowSAt · w) ho).trans ((if_neg (fun h => ne 0x0 h1 rfl h.2)).trans ((if_neg (fun h => ne 0x1 h1 rfl h.2)).trans ((if_neg (fun h => ne 0x2 h1 rfl h.2)).trans ((if_neg (fun h => ne 0x3 h1 rfl h.2)).trans ((if_neg (fun h => ne 0x4 h1 rfl h.2)).trans ((if_neg (fun h => ne 0x5 h1 rfl h.2)).trans (if_pos ⟨h0, h1⟩))))))))

theorem amoCas (t : Tok) (xd : BitVec 5) (xa : BitVec 5) (xb : BitVec 5) (scope : BitVec 2) (wide : BitVec 1) : Statement (.amoCas t xd xa xb scope wide) := by
  obtain ⟨w, e, hb, ho, h0, h1, rfl, rfl, rfl, rfl, rfl, rfl⟩ := shape9 t 0x1F 0x0 0x7 xd xa xb scope wide (by decide) (by decide) (by decide)
  exact close (st := .S) rfl e hb ((congrArg (rowSAt · w) ho).trans ((if_neg (fun h => ne 0x0 h1 rfl h.2)).trans ((if_neg (fun h => ne 0x1 h1 rfl h.2)).trans ((if_neg (fun h => ne 0x2 h1 rfl h.2)).trans ((if_neg (fun h => ne 0x3 h1 rfl h.2)).trans ((if_neg (fun h => ne 0x4 h1 rfl h.2)).trans ((if_neg (fun h => ne 0x5 h1 rfl h.2)).trans ((if_neg (fun h => ne 0x6 h1 rfl h.2)).trans (if_pos ⟨h0, h1⟩)))))))))

theorem beq (t : Tok) (xa : BitVec 5) (xb : BitVec 5) (off : BitVec 12) : Statement (.beq t xa xb off) := by
  obtain ⟨w, e, hb, ho, rfl, rfl, rfl, rfl⟩ := shape3 t 0x20 xa xb off (by decide)
  exact close (st := .S) rfl e hb ((congrArg (rowSAt · w) ho).trans (rfl))

theorem bne (t : Tok) (xa : BitVec 5) (xb : BitVec 5) (off : BitVec 12) : Statement (.bne t xa xb off) := by
  obtain ⟨w, e, hb, ho, rfl, rfl, rfl, rfl⟩ := shape3 t 0x21 xa xb off (by decide)
  exact close (st := .S) rfl e hb ((congrArg (rowSAt · w) ho).trans (rfl))

theorem blt (t : Tok) (xa : BitVec 5) (xb : BitVec 5) (off : BitVec 12) : Statement (.blt t xa xb off) := by
  obtain ⟨w, e, hb, ho, rfl, rfl, rfl, rfl⟩ := shape3 t 0x22 xa xb off (by decide)
  exact close (st := .S) rfl e hb ((congrArg (rowSAt · w) ho).trans (rfl))

theorem bge (t : Tok) (xa : BitVec 5) (xb : BitVec 5) (off : BitVec 12) : Statement (.bge t xa xb off) := by
  obtain ⟨w, e, hb, ho, rfl, rfl, rfl, rfl⟩ := shape3 t 0x23 xa xb off (by decide)
  exact close (st := .S) rfl e hb ((congrArg (rowSAt · w) ho).trans (rfl))

theorem bltU (t : Tok) (xa : BitVec 5) (xb : BitVec 5) (off : BitVec 12) : Statement (.bltU t xa xb off) := by
  obtain ⟨w, e, hb, ho, rfl, rfl, rfl, rfl⟩ := shape3 t 0x24 xa xb off (by decide)
  exact close (st := .S) rfl e hb ((congrArg (rowSAt · w) ho).trans (rfl))

theorem bgeU (t : Tok) (xa : BitVec 5) (xb : BitVec 5) (off : BitVec 12) : Statement (.bgeU t xa xb off) := by
  obtain ⟨w, e, hb, ho, rfl, rfl, rfl, rfl⟩ := shape3 t 0x25 xa xb off (by decide)
  exact close (st := .S) rfl e hb ((congrArg (rowSAt · w) ho).trans (rfl))

theorem jal (t : Tok) (xd : BitVec 5) (off : BitVec 17) : Statement (.jal t xd off) := by
  obtain ⟨w, e, hb, ho, rfl, rfl, rfl⟩ := shape6 t 0x26 xd off (by decide)
  exact close (st := .S) rfl e hb ((congrArg (rowSAt · w) ho).trans (rfl))

theorem jalr (t : Tok) (xd : BitVec 5) (xa : BitVec 5) (imm : BitVec 12) : Statement (.jalr t xd xa imm) := by
  obtain ⟨w, e, hb, ho, rfl, rfl, rfl, rfl⟩ := shape3 t 0x27 xd xa imm (by decide)
  exact close (st := .S) rfl e hb ((congrArg (rowSAt · w) ho).trans (rfl))

theorem fadd (t : Tok) (xd : BitVec 5) (xa : BitVec 5) (xb : BitVec 5) (dbl : BitVec 1) : Statement (.fadd t xd xa xb dbl) := by
  obtain ⟨w, e, hb, ho, h0, rfl, rfl, rfl, rfl, rfl⟩ := shape10 t 0x28 0x0 xd xa xb dbl (by decide) (by decide)
  exact close (st := .S) rfl e hb ((congrArg (rowSAt · w) ho).trans (if_pos h0))

theorem fsub (t : Tok) (xd : BitVec 5) (xa : BitVec 5) (xb : BitVec 5) (dbl : BitVec 1) : Statement (.fsub t xd xa xb dbl) := by
  obtain ⟨w, e, hb, ho, h0, rfl, rfl, rfl, rfl, rfl⟩ := shape10 t 0x28 0x1 xd xa xb dbl (by decide) (by decide)
  exact close (st := .S) rfl e hb ((congrArg (rowSAt · w) ho).trans ((if_neg (ne 0x0 h0 rfl)).trans (if_pos h0)))

theorem fmul (t : Tok) (xd : BitVec 5) (xa : BitVec 5) (xb : BitVec 5) (dbl : BitVec 1) : Statement (.fmul t xd xa xb dbl) := by
  obtain ⟨w, e, hb, ho, h0, rfl, rfl, rfl, rfl, rfl⟩ := shape10 t 0x28 0x2 xd xa xb dbl (by decide) (by decide)
  exact close (st := .S) rfl e hb ((congrArg (rowSAt · w) ho).trans ((if_neg (ne 0x0 h0 rfl)).trans ((if_neg (ne 0x1 h0 rfl)).trans (if_pos h0))))

theorem fdiv (t : Tok) (xd : BitVec 5) (xa : BitVec 5) (xb : BitVec 5) (dbl : BitVec 1) : Statement (.fdiv t xd xa xb dbl) := by
  obtain ⟨w, e, hb, ho, h0, rfl, rfl, rfl, rfl, rfl⟩ := shape10 t 0x28 0x3 xd xa xb dbl (by decide) (by decide)
  exact close (st := .S) rfl e hb ((congrArg (rowSAt · w) ho).trans ((if_neg (ne 0x0 h0 rfl)).trans ((if_neg (ne 0x1 h0 rfl)).trans ((if_neg (ne 0x2 h0 rfl)).trans (if_pos h0)))))

theorem fsqrt (t : Tok) (xd : BitVec 5) (xa : BitVec 5) (dbl : BitVec 1) : Statement (.fsqrt t xd xa dbl) := by
  obtain ⟨w, e, hb, ho, h0, h1, rfl, rfl, rfl, rfl⟩ := shape11 t 0x28 0x4 0x0 xd xa dbl (by decide) (by decide) (by decide)
  exact close (st := .S) rfl e hb ((congrArg (rowSAt · w) ho).trans ((if_neg (ne 0x0 h0 rfl)).trans ((if_neg (ne 0x1 h0 rfl)).trans ((if_neg (ne 0x2 h0 rfl)).trans ((if_neg (ne 0x3 h0 rfl)).trans (if_pos ⟨h0, h1⟩))))))

theorem fmin (t : Tok) (xd : BitVec 5) (xa : BitVec 5) (xb : BitVec 5) (dbl : BitVec 1) : Statement (.fmin t xd xa xb dbl) := by
  obtain ⟨w, e, hb, ho, h0, rfl, rfl, rfl, rfl, rfl⟩ := shape10 t 0x28 0x5 xd xa xb dbl (by decide) (by decide)
  exact close (st := .S) rfl e hb ((congrArg (rowSAt · w) ho).trans ((if_neg (ne 0x0 h0 rfl)).trans ((if_neg (ne 0x1 h0 rfl)).trans ((if_neg (ne 0x2 h0 rfl)).trans ((if_neg (ne 0x3 h0 rfl)).trans ((if_neg (fun h => ne 0x4 h0 rfl h.1)).trans (if_pos h0)))))))

theorem fmax (t : Tok) (xd : BitVec 5) (xa : BitVec 5) (xb : BitVec 5) (dbl : BitVec 1) : Statement (.fmax t xd xa xb dbl) := by
  obtain ⟨w, e, hb, ho, h0, rfl, rfl, rfl, rfl, rfl⟩ := shape10 t 0x28 0x6 xd xa xb dbl (by decide) (by decide)
  exact close (st := .S) rfl e hb ((congrArg (rowSAt · w) ho).trans ((if_neg (ne 0x0 h0 rfl)).trans ((if_neg (ne 0x1 h0 rfl)).trans ((if_neg (ne 0x2 h0 rfl)).trans ((if_neg (ne 0x3 h0 rfl)).trans ((if_neg (fun h => ne 0x4 h0 rfl h.1)).trans ((if_neg (ne 0x5 h0 rfl)).trans (if_pos h0))))))))

theorem fma (t : Tok) (xd : BitVec 5) (xa : BitVec 5) (xb : BitVec 5) (dbl : BitVec 1) : Statement (.fma t xd xa xb dbl) := by
  obtain ⟨w, e, hb, ho, h0, rfl, rfl, rfl, rfl, rfl⟩ := shape10 t 0x28 0x7 xd xa xb dbl (by decide) (by decide)
  exact close (st := .S) rfl e hb ((congrArg (rowSAt · w) ho).trans ((if_neg (ne 0x0 h0 rfl)).trans ((if_neg (ne 0x1 h0 rfl)).trans ((if_neg (ne 0x2 h0 rfl)).trans ((if_neg (ne 0x3 h0 rfl)).trans ((if_neg (fun h => ne 0x4 h0 rfl h.1)).trans ((if_neg (ne 0x5 h0 rfl)).trans ((if_neg (ne 0x6 h0 rfl)).trans (if_pos h0)))))))))

theorem fcmpEq (t : Tok) (xd : BitVec 5) (xa : BitVec 5) (xb : BitVec 5) (dbl : BitVec 1) : Statement (.fcmpEq t xd xa xb dbl) := by
  obtain ⟨w, e, hb, ho, h0, rfl, rfl, rfl, rfl, rfl⟩ := shape10 t 0x28 0x8 xd xa xb dbl (by decide) (by decide)
  exact close (st := .S) rfl e hb ((congrArg (rowSAt · w) ho).trans ((if_neg (ne 0x0 h0 rfl)).trans ((if_neg (ne 0x1 h0 rfl)).trans ((if_neg (ne 0x2 h0 rfl)).trans ((if_neg (ne 0x3 h0 rfl)).trans ((if_neg (fun h => ne 0x4 h0 rfl h.1)).trans ((if_neg (ne 0x5 h0 rfl)).trans ((if_neg (ne 0x6 h0 rfl)).trans ((if_neg (ne 0x7 h0 rfl)).trans (if_pos h0))))))))))

theorem fcmpLt (t : Tok) (xd : BitVec 5) (xa : BitVec 5) (xb : BitVec 5) (dbl : BitVec 1) : Statement (.fcmpLt t xd xa xb dbl) := by
  obtain ⟨w, e, hb, ho, h0, rfl, rfl, rfl, rfl, rfl⟩ := shape10 t 0x28 0x9 xd xa xb dbl (by decide) (by decide)
  exact close (st := .S) rfl e hb ((congrArg (rowSAt · w) ho).trans ((if_neg (ne 0x0 h0 rfl)).trans ((if_neg (ne 0x1 h0 rfl)).trans ((if_neg (ne 0x2 h0 rfl)).trans ((if_neg (ne 0x3 h0 rfl)).trans ((if_neg (fun h => ne 0x4 h0 rfl h.1)).trans ((if_neg (ne 0x5 h0 rfl)).trans ((if_neg (ne 0x6 h0 rfl)).trans ((if_neg (ne 0x7 h0 rfl)).trans ((if_neg (ne 0x8 h0 rfl)).trans (if_pos h0)))))))))))

theorem fcmpLe (t : Tok) (xd : BitVec 5) (xa : BitVec 5) (xb : BitVec 5) (dbl : BitVec 1) : Statement (.fcmpLe t xd xa xb dbl) := by
  obtain ⟨w, e, hb, ho, h0, rfl, rfl, rfl, rfl, rfl⟩ := shape10 t 0x28 0xA xd xa xb dbl (by decide) (by decide)
  exact close (st := .S) rfl e hb ((congrArg (rowSAt · w) ho).trans ((if_neg (ne 0x0 h0 rfl)).trans ((if_neg (ne 0x1 h0 rfl)).trans ((if_neg (ne 0x2 h0 rfl)).trans ((if_neg (ne 0x3 h0 rfl)).trans ((if_neg (fun h => ne 0x4 h0 rfl h.1)).trans ((if_neg (ne 0x5 h0 rfl)).trans ((if_neg (ne 0x6 h0 rfl)).trans ((if_neg (ne 0x7 h0 rfl)).trans ((if_neg (ne 0x8 h0 rfl)).trans ((if_neg (ne 0x9 h0 rfl)).trans (if_pos h0))))))))))))

theorem fcvtFromI64 (t : Tok) (xd : BitVec 5) (xa : BitVec 5) (dbl : BitVec 1) (rz : BitVec 1) : Statement (.fcvtFromI64 t xd xa dbl rz) := by
  obtain ⟨w, e, hb, ho, h0, h1, rfl, rfl, rfl, rfl, rfl⟩ := shape12 t 0x28 0x10 0x0 xd xa dbl rz (by decide) (by decide) (by decide)
  exact close (st := .S) rfl e hb ((congrArg (rowSAt · w) ho).trans ((if_neg (by unfold fieldNat at *; omega)).trans ((if_neg (by unfold fieldNat at *; omega)).trans ((if_neg (by unfold fieldNat at *; omega)).trans ((if_neg (by unfold fieldNat at *; omega)).trans ((if_neg (by unfold fieldNat at *; omega)).trans ((if_neg (by unfold fieldNat at *; omega)).trans ((if_neg (by unfold fieldNat at *; omega)).trans ((if_neg (by unfold fieldNat at *; omega)).trans ((if_neg (by unfold fieldNat at *; omega)).trans ((if_neg (by unfold fieldNat at *; omega)).trans ((if_neg (by unfold fieldNat at *; omega)).trans (if_pos ⟨h0, h1⟩)))))))))))))

theorem fcvtFromU64 (t : Tok) (xd : BitVec 5) (xa : BitVec 5) (dbl : BitVec 1) (rz : BitVec 1) : Statement (.fcvtFromU64 t xd xa dbl rz) := by
  obtain ⟨w, e, hb, ho, h0, h1, rfl, rfl, rfl, rfl, rfl⟩ := shape12 t 0x28 0x11 0x0 xd xa dbl rz (by decide) (by decide) (by decide)
  exact close (st := .S) rfl e hb ((congrArg (rowSAt · w) ho).trans ((if_neg (by unfold fieldNat at *; omega)).trans ((if_neg (by unfold fieldNat at *; omega)).trans ((if_neg (by unfold fieldNat at *; omega)).trans ((if_neg (by unfold fieldNat at *; omega)).trans ((if_neg (by unfold fieldNat at *; omega)).trans ((if_neg (by unfold fieldNat at *; omega)).trans ((if_neg (by unfold fieldNat at *; omega)).trans ((if_neg (by unfold fieldNat at *; omega)).trans ((if_neg (by unfold fieldNat at *; omega)).trans ((if_neg (by unfold fieldNat at *; omega)).trans ((if_neg (by unfold fieldNat at *; omega)).trans ((if_neg (fun h => ne 0x10 h0 rfl h.1)).trans (if_pos ⟨h0, h1⟩))))))))))))))

theorem fcvtToI64 (t : Tok) (xd : BitVec 5) (xa : BitVec 5) (dbl : BitVec 1) (rz : BitVec 1) : Statement (.fcvtToI64 t xd xa dbl rz) := by
  obtain ⟨w, e, hb, ho, h0, h1, rfl, rfl, rfl, rfl, rfl⟩ := shape12 t 0x28 0x12 0x0 xd xa dbl rz (by decide) (by decide) (by decide)
  exact close (st := .S) rfl e hb ((congrArg (rowSAt · w) ho).trans ((if_neg (by unfold fieldNat at *; omega)).trans ((if_neg (by unfold fieldNat at *; omega)).trans ((if_neg (by unfold fieldNat at *; omega)).trans ((if_neg (by unfold fieldNat at *; omega)).trans ((if_neg (by unfold fieldNat at *; omega)).trans ((if_neg (by unfold fieldNat at *; omega)).trans ((if_neg (by unfold fieldNat at *; omega)).trans ((if_neg (by unfold fieldNat at *; omega)).trans ((if_neg (by unfold fieldNat at *; omega)).trans ((if_neg (by unfold fieldNat at *; omega)).trans ((if_neg (by unfold fieldNat at *; omega)).trans ((if_neg (fun h => ne 0x10 h0 rfl h.1)).trans ((if_neg (fun h => ne 0x11 h0 rfl h.1)).trans (if_pos ⟨h0, h1⟩)))))))))))))))

theorem fcvtToU64 (t : Tok) (xd : BitVec 5) (xa : BitVec 5) (dbl : BitVec 1) (rz : BitVec 1) : Statement (.fcvtToU64 t xd xa dbl rz) := by
  obtain ⟨w, e, hb, ho, h0, h1, rfl, rfl, rfl, rfl, rfl⟩ := shape12 t 0x28 0x13 0x0 xd xa dbl rz (by decide) (by decide) (by decide)
  exact close (st := .S) rfl e hb ((congrArg (rowSAt · w) ho).trans ((if_neg (by unfold fieldNat at *; omega)).trans ((if_neg (by unfold fieldNat at *; omega)).trans ((if_neg (by unfold fieldNat at *; omega)).trans ((if_neg (by unfold fieldNat at *; omega)).trans ((if_neg (by unfold fieldNat at *; omega)).trans ((if_neg (by unfold fieldNat at *; omega)).trans ((if_neg (by unfold fieldNat at *; omega)).trans ((if_neg (by unfold fieldNat at *; omega)).trans ((if_neg (by unfold fieldNat at *; omega)).trans ((if_neg (by unfold fieldNat at *; omega)).trans ((if_neg (by unfold fieldNat at *; omega)).trans ((if_neg (fun h => ne 0x10 h0 rfl h.1)).trans ((if_neg (fun h => ne 0x11 h0 rfl h.1)).trans ((if_neg (fun h => ne 0x12 h0 rfl h.1)).trans (if_pos ⟨h0, h1⟩))))))))))))))))

theorem fcvtSD (t : Tok) (xd : BitVec 5) (xa : BitVec 5) (rz : BitVec 1) : Statement (.fcvtSD t xd xa rz) := by
  obtain ⟨w, e, hb, ho, h0, h1, rfl, rfl, rfl, rfl⟩ := shape13 t 0x28 0x14 0x0 xd xa rz (by decide) (by decide) (by decide)
  exact close (st := .S) rfl e hb ((congrArg (rowSAt · w) ho).trans ((if_neg (by unfold fieldNat at *; omega)).trans ((if_neg (by unfold fieldNat at *; omega)).trans ((if_neg (by unfold fieldNat at *; omega)).trans ((if_neg (by unfold fieldNat at *; omega)).trans ((if_neg (by unfold fieldNat at *; omega)).trans ((if_neg (by unfold fieldNat at *; omega)).trans ((if_neg (by unfold fieldNat at *; omega)).trans ((if_neg (by unfold fieldNat at *; omega)).trans ((if_neg (by unfold fieldNat at *; omega)).trans ((if_neg (by unfold fieldNat at *; omega)).trans ((if_neg (by unfold fieldNat at *; omega)).trans ((if_neg (fun h => ne 0x10 h0 rfl h.1)).trans ((if_neg (fun h => ne 0x11 h0 rfl h.1)).trans ((if_neg (fun h => ne 0x12 h0 rfl h.1)).trans ((if_neg (fun h => ne 0x13 h0 rfl h.1)).trans (if_pos ⟨h0, h1⟩)))))))))))))))))

theorem fcvtDS (t : Tok) (xd : BitVec 5) (xa : BitVec 5) : Statement (.fcvtDS t xd xa) := by
  obtain ⟨w, e, hb, ho, h0, rfl, rfl, rfl⟩ := shape1 t 0x28 0x54 xd xa (by decide) (by decide)
  exact close (st := .S) rfl e hb ((congrArg (rowSAt · w) ho).trans ((if_neg (by unfold fieldNat at *; omega)).trans ((if_neg (by unfold fieldNat at *; omega)).trans ((if_neg (by unfold fieldNat at *; omega)).trans ((if_neg (by unfold fieldNat at *; omega)).trans ((if_neg (by unfold fieldNat at *; omega)).trans ((if_neg (by unfold fieldNat at *; omega)).trans ((if_neg (by unfold fieldNat at *; omega)).trans ((if_neg (by unfold fieldNat at *; omega)).trans ((if_neg (by unfold fieldNat at *; omega)).trans ((if_neg (by unfold fieldNat at *; omega)).trans ((if_neg (by unfold fieldNat at *; omega)).trans ((if_neg (by unfold fieldNat at *; omega)).trans ((if_neg (by unfold fieldNat at *; omega)).trans ((if_neg (by unfold fieldNat at *; omega)).trans ((if_neg (by unfold fieldNat at *; omega)).trans ((if_neg (by unfold fieldNat at *; omega)).trans (if_pos h0))))))))))))))))))

theorem acwait (t : Tok) (xd : BitVec 5) (xa : BitVec 5) (xb : BitVec 5) : Statement (.acwait t xd xa xb) := by
  obtain ⟨w, e, hb, ho, h0, rfl, rfl, rfl, rfl⟩ := shape0 t 0x30 0x0 xd xa xb (by decide) (by decide)
  exact close (st := .S) rfl e hb ((congrArg (rowSAt · w) ho).trans (if_pos h0))

theorem acread (t : Tok) (xd : BitVec 5) (xa : BitVec 5) : Statement (.acread t xd xa) := by
  obtain ⟨w, e, hb, ho, h0, rfl, rfl, rfl⟩ := shape1 t 0x30 0x1 xd xa (by decide) (by decide)
  exact close (st := .S) rfl e hb ((congrArg (rowSAt · w) ho).trans ((if_neg (by unfold fieldNat at *; omega)).trans (if_pos h0)))

theorem bar (t : Tok) (xa : BitVec 5) (xb : BitVec 5) : Statement (.bar t xa xb) := by
  obtain ⟨w, e, hb, ho, h0, h1, rfl, rfl, rfl⟩ := shape14 t 0x30 0x2 0x0 xa xb (by decide) (by decide) (by decide)
  exact close (st := .S) rfl e hb ((congrArg (rowSAt · w) ho).trans ((if_neg (ne 0x0 h0 rfl)).trans ((if_neg (by unfold fieldNat at *; omega)).trans (if_pos ⟨h0, h1⟩))))

theorem wopen (t : Tok) (xd : BitVec 5) (xa : BitVec 5) : Statement (.wopen t xd xa) := by
  obtain ⟨w, e, hb, ho, h0, rfl, rfl, rfl⟩ := shape1 t 0x30 0x3 xd xa (by decide) (by decide)
  exact close (st := .S) rfl e hb ((congrArg (rowSAt · w) ho).trans ((if_neg (by unfold fieldNat at *; omega)).trans ((if_neg (ne 0x1 h0 rfl)).trans ((if_neg (by unfold fieldNat at *; omega)).trans (if_pos h0)))))

theorem wnext (t : Tok) (xd : BitVec 5) (xa : BitVec 5) : Statement (.wnext t xd xa) := by
  obtain ⟨w, e, hb, ho, h0, rfl, rfl, rfl⟩ := shape1 t 0x30 0x4 xd xa (by decide) (by decide)
  exact close (st := .S) rfl e hb ((congrArg (rowSAt · w) ho).trans ((if_neg (by unfold fieldNat at *; omega)).trans ((if_neg (ne 0x1 h0 rfl)).trans ((if_neg (by unfold fieldNat at *; omega)).trans ((if_neg (ne 0x3 h0 rfl)).trans (if_pos h0))))))

theorem wdone (t : Tok) (xa : BitVec 5) (xb : BitVec 5) : Statement (.wdone t xa xb) := by
  obtain ⟨w, e, hb, ho, h0, h1, rfl, rfl, rfl⟩ := shape14 t 0x30 0x5 0x0 xa xb (by decide) (by decide) (by decide)
  exact close (st := .S) rfl e hb ((congrArg (rowSAt · w) ho).trans ((if_neg (ne 0x0 h0 rfl)).trans ((if_neg (by unfold fieldNat at *; omega)).trans ((if_neg (fun h => ne 0x2 h0 rfl h.1)).trans ((if_neg (by unfold fieldNat at *; omega)).trans ((if_neg (by unfold fieldNat at *; omega)).trans (if_pos ⟨h0, h1⟩)))))))

theorem ipub (t : Tok) (xa : BitVec 5) (xb : BitVec 5) : Statement (.ipub t xa xb) := by
  obtain ⟨w, e, hb, ho, h0, h1, rfl, rfl, rfl⟩ := shape14 t 0x30 0x6 0x0 xa xb (by decide) (by decide) (by decide)
  exact close (st := .S) rfl e hb ((congrArg (rowSAt · w) ho).trans ((if_neg (ne 0x0 h0 rfl)).trans ((if_neg (by unfold fieldNat at *; omega)).trans ((if_neg (fun h => ne 0x2 h0 rfl h.1)).trans ((if_neg (by unfold fieldNat at *; omega)).trans ((if_neg (by unfold fieldNat at *; omega)).trans ((if_neg (fun h => ne 0x5 h0 rfl h.1)).trans (if_pos ⟨h0, h1⟩))))))))

theorem solve (t : Tok) (xd : BitVec 5) (xa : BitVec 5) : Statement (.solve t xd xa) := by
  obtain ⟨w, e, hb, ho, h0, rfl, rfl, rfl⟩ := shape1 t 0x30 0x7 xd xa (by decide) (by decide)
  exact close (st := .S) rfl e hb ((congrArg (rowSAt · w) ho).trans ((if_neg (by unfold fieldNat at *; omega)).trans ((if_neg (ne 0x1 h0 rfl)).trans ((if_neg (by unfold fieldNat at *; omega)).trans ((if_neg (ne 0x3 h0 rfl)).trans ((if_neg (ne 0x4 h0 rfl)).trans ((if_neg (by unfold fieldNat at *; omega)).trans ((if_neg (by unfold fieldNat at *; omega)).trans (if_pos h0)))))))))

theorem pacq (t : Tok) (xa : BitVec 5) : Statement (.pacq t xa) := by
  obtain ⟨w, e, hb, ho, h0, h1, rfl, rfl⟩ := shape15 t 0x30 0x8 0x0 xa (by decide) (by decide) (by decide)
  exact close (st := .S) rfl e hb ((congrArg (rowSAt · w) ho).trans ((if_neg (by unfold fieldNat at *; omega)).trans ((if_neg (ne 0x1 h0 rfl)).trans ((if_neg (by unfold fieldNat at *; omega)).trans ((if_neg (ne 0x3 h0 rfl)).trans ((if_neg (ne 0x4 h0 rfl)).trans ((if_neg (by unfold fieldNat at *; omega)).trans ((if_neg (by unfold fieldNat at *; omega)).trans ((if_neg (ne 0x7 h0 rfl)).trans (if_pos ⟨h0, h1⟩))))))))))

theorem prel (t : Tok) : Statement (.prel t) := by
  obtain ⟨w, e, hb, ho, h0, rfl⟩ := shape16 t 0x30 0x9 (by decide) (by decide)
  exact close (st := .S) rfl e hb ((congrArg (rowSAt · w) ho).trans ((if_neg (by unfold fieldNat at *; omega)).trans ((if_neg (by unfold fieldNat at *; omega)).trans ((if_neg (by unfold fieldNat at *; omega)).trans ((if_neg (by unfold fieldNat at *; omega)).trans ((if_neg (by unfold fieldNat at *; omega)).trans ((if_neg (by unfold fieldNat at *; omega)).trans ((if_neg (by unfold fieldNat at *; omega)).trans ((if_neg (by unfold fieldNat at *; omega)).trans ((if_neg (by unfold fieldNat at *; omega)).trans (if_pos h0)))))))))))

theorem gtc (t : Tok) (xd : BitVec 5) : Statement (.gtc t xd) := by
  obtain ⟨w, e, hb, ho, h0, rfl, rfl⟩ := shape17 t 0x30 0xA xd (by decide) (by decide)
  exact close (st := .S) rfl e hb ((congrArg (rowSAt · w) ho).trans ((if_neg (by unfold fieldNat at *; omega)).trans ((if_neg (by unfold fieldNat at *; omega)).trans ((if_neg (by unfold fieldNat at *; omega)).trans ((if_neg (by unfold fieldNat at *; omega)).trans ((if_neg (by unfold fieldNat at *; omega)).trans ((if_neg (by unfold fieldNat at *; omega)).trans ((if_neg (by unfold fieldNat at *; omega)).trans ((if_neg (by unfold fieldNat at *; omega)).trans ((if_neg (by unfold fieldNat at *; omega)).trans ((if_neg (by unfold fieldNat at *; omega)).trans (if_pos h0))))))))))))

theorem snap (t : Tok) : Statement (.snap t) := by
  obtain ⟨w, e, hb, ho, h0, rfl⟩ := shape16 t 0x30 0xB (by decide) (by decide)
  exact close (st := .S) rfl e hb ((congrArg (rowSAt · w) ho).trans ((if_neg (by unfold fieldNat at *; omega)).trans ((if_neg (by unfold fieldNat at *; omega)).trans ((if_neg (by unfold fieldNat at *; omega)).trans ((if_neg (by unfold fieldNat at *; omega)).trans ((if_neg (by unfold fieldNat at *; omega)).trans ((if_neg (by unfold fieldNat at *; omega)).trans ((if_neg (by unfold fieldNat at *; omega)).trans ((if_neg (by unfold fieldNat at *; omega)).trans ((if_neg (by unfold fieldNat at *; omega)).trans ((if_neg (ne 0x9 h0 rfl)).trans ((if_neg (by unfold fieldNat at *; omega)).trans (if_pos h0)))))))))))))

theorem hfence (t : Tok) : Statement (.hfence t) := by
  obtain ⟨w, e, hb, ho, h0, rfl⟩ := shape16 t 0x30 0xC (by decide) (by decide)
  exact close (st := .S) rfl e hb ((congrArg (rowSAt · w) ho).trans ((if_neg (by unfold fieldNat at *; omega)).trans ((if_neg (by unfold fieldNat at *; omega)).trans ((if_neg (by unfold fieldNat at *; omega)).trans ((if_neg (by unfold fieldNat at *; omega)).trans ((if_neg (by unfold fieldNat at *; omega)).trans ((if_neg (by unfold fieldNat at *; omega)).trans ((if_neg (by unfold fieldNat at *; omega)).trans ((if_neg (by unfold fieldNat at *; omega)).trans ((if_neg (by unfold fieldNat at *; omega)).trans ((if_neg (ne 0x9 h0 rfl)).trans ((if_neg (by unfold fieldNat at *; omega)).trans ((if_neg (ne 0xB h0 rfl)).trans (if_pos h0))))))))))))))

theorem eret (t : Tok) : Statement (.eret t) := by
  obtain ⟨w, e, hb, ho, h0, rfl⟩ := shape16 t 0x30 0xD (by decide) (by decide)
  exact close (st := .S) rfl e hb ((congrArg (rowSAt · w) ho).trans ((if_neg (by unfold fieldNat at *; omega)).trans ((if_neg (by unfold fieldNat at *; omega)).trans ((if_neg (by unfold fieldNat at *; omega)).trans ((if_neg (by unfold fieldNat at *; omega)).trans ((if_neg (by unfold fieldNat at *; omega)).trans ((if_neg (by unfold fieldNat at *; omega)).trans ((if_neg (by unfold fieldNat at *; omega)).trans ((if_neg (by unfold fieldNat at *; omega)).trans ((if_neg (by unfold fieldNat at *; omega)).trans ((if_neg (ne 0x9 h0 rfl)).trans ((if_neg (by unfold fieldNat at *; omega)).trans ((if_neg (ne 0xB h0 rfl)).trans ((if_neg (ne 0xC h0 rfl)).trans (if_pos h0)))))))))))))))

theorem nendS (t : Tok) : Statement (.nendS t) := by
  obtain ⟨w, e, hb, ho, h0, rfl⟩ := shape16 t 0x30 0xE (by decide) (by decide)
  exact close (st := .S) rfl e hb ((congrArg (rowSAt · w) ho).trans ((if_neg (by unfold fieldNat at *; omega)).trans ((if_neg (by unfold fieldNat at *; omega)).trans ((if_neg (by unfold fieldNat at *; omega)).trans ((if_neg (by unfold fieldNat at *; omega)).trans ((if_neg (by unfold fieldNat at *; omega)).trans ((if_neg (by unfold fieldNat at *; omega)).trans ((if_neg (by unfold fieldNat at *; omega)).trans ((if_neg (by unfold fieldNat at *; omega)).trans ((if_neg (by unfold fieldNat at *; omega)).trans ((if_neg (ne 0x9 h0 rfl)).trans ((if_neg (by unfold fieldNat at *; omega)).trans ((if_neg (ne 0xB h0 rfl)).trans ((if_neg (ne 0xC h0 rfl)).trans ((if_neg (ne 0xD h0 rfl)).trans (if_pos h0))))))))))))))))

theorem crd (t : Tok) (xd : BitVec 5) (cr : BitVec 12) : Statement (.crd t xd cr) := by
  obtain ⟨w, e, hb, ho, h0, rfl, rfl, rfl⟩ := shape18 t 0x31 0x0 xd cr (by decide) (by decide)
  exact close (st := .S) rfl e hb ((congrArg (rowSAt · w) ho).trans (if_pos h0))

theorem cwr (t : Tok) (xa : BitVec 5) (cr : BitVec 12) : Statement (.cwr t xa cr) := by
  obtain ⟨w, e, hb, ho, h0, rfl, rfl, rfl⟩ := shape8 t 0x32 0x0 xa cr (by decide) (by decide)
  exact close (st := .S) rfl e hb ((congrArg (rowSAt · w) ho).trans (if_pos h0))

theorem trap (t : Tok) (code : BitVec 12) : Statement (.trap t code) := by
  obtain ⟨w, e, hb, ho, h0, rfl, rfl⟩ := shape19 t 0x33 0x0 code (by decide) (by decide)
  exact close (st := .S) rfl e hb ((congrArg (rowSAt · w) ho).trans (if_pos h0))

theorem vadd (t : Tok) (vd : BitVec 5) (va : BitVec 5) (vb : BitVec 5) (ws : BitVec 1) (mask : BitVec 3) (ls : BitVec 2) : Statement (.vadd t vd va vb ws mask ls) := by
  obtain ⟨w, e, hb, ho, rfl, rfl, rfl, rfl, rfl, rfl, rfl⟩ := shape20 t 0x1 vd va vb ws mask ls (by decide)
  exact close (st := .V) rfl e hb ((congrArg (rowVAt · w) ho).trans (rfl))

theorem vsub (t : Tok) (vd : BitVec 5) (va : BitVec 5) (vb : BitVec 5) (ws : BitVec 1) (mask : BitVec 3) (ls : BitVec 2) : Statement (.vsub t vd va vb ws mask ls) := by
  obtain ⟨w, e, hb, ho, rfl, rfl, rfl, rfl, rfl, rfl, rfl⟩ := shape20 t 0x2 vd va vb ws mask ls (by decide)
  exact close (st := .V) rfl e hb ((congrArg (rowVAt · w) ho).trans (rfl))

theorem vmul (t : Tok) (vd : BitVec 5) (va : BitVec 5) (vb : BitVec 5) (ws : BitVec 1) (mask : BitVec 3) (ls : BitVec 2) : Statement (.vmul t vd va vb ws mask ls) := by
  obtain ⟨w, e, hb, ho, rfl, rfl, rfl, rfl, rfl, rfl, rfl⟩ := shape20 t 0x3 vd va vb ws mask ls (by decide)
  exact close (st := .V) rfl e hb ((congrArg (rowVAt · w) ho).trans (rfl))

theorem vfma (t : Tok) (vd : BitVec 5) (va : BitVec 5) (vb : BitVec 5) (mask : BitVec 3) (ls : BitVec 2) : Statement (.vfma t vd va vb mask ls) := by
  obtain ⟨w, e, hb, ho, h0, rfl, rfl, rfl, rfl, rfl, rfl⟩ := shape21 t 0x4 0x0 vd va vb mask ls (by decide) (by decide)
  exact close (st := .V) rfl e hb ((congrArg (rowVAt · w) ho).trans (if_pos h0))

theorem vmin (t : Tok) (vd : BitVec 5) (va : BitVec 5) (vb : BitVec 5) (ws : BitVec 1) (mask : BitVec 3) (ls : BitVec 2) : Statement (.vmin t vd va vb ws mask ls) := by
  obtain ⟨w, e, hb, ho, rfl, rfl, rfl, rfl, rfl, rfl, rfl⟩ := shape20 t 0x5 vd va vb ws mask ls (by decide)
  exact close (st := .V) rfl e hb ((congrArg (rowVAt · w) ho).trans (rfl))

theorem vmax (t : Tok) (vd : BitVec 5) (va : BitVec 5) (vb : BitVec 5) (ws : BitVec 1) (mask : BitVec 3) (ls : BitVec 2) : Statement (.vmax t vd va vb ws mask ls) := by
  obtain ⟨w, e, hb, ho, rfl, rfl, rfl, rfl, rfl, rfl, rfl⟩ := shape20 t 0x6 vd va vb ws mask ls (by decide)
  exact close (st := .V) rfl e hb ((congrArg (rowVAt · w) ho).trans (rfl))

theorem vabs (t : Tok) (vd : BitVec 5) (va : BitVec 5) (ws : BitVec 1) (mask : BitVec 3) (ls : BitVec 1) : Statement (.vabs t vd va ws mask ls) := by
  obtain ⟨w, e, hb, ho, h0, h1, rfl, rfl, rfl, rfl, rfl, rfl⟩ := shape22 t 0x7 0x0 0x0 vd va ws mask ls (by decide) (by decide) (by decide)
  exact close (st := .V) rfl e hb ((congrArg (rowVAt · w) ho).trans (if_pos ⟨h0, h1⟩))

theorem vneg (t : Tok) (vd : BitVec 5) (va : BitVec 5) (ws : BitVec 1) (mask : BitVec 3) (ls : BitVec 1) : Statement (.vneg t vd va ws mask ls) := by
  obtain ⟨w, e, hb, ho, h0, h1, rfl, rfl, rfl, rfl, rfl, rfl⟩ := shape22 t 0x8 0x0 0x0 vd va ws mask ls (by decide) (by decide) (by decide)
  exact close (st := .V) rfl e hb ((congrArg (rowVAt · w) ho).trans (if_pos ⟨h0, h1⟩))

theorem vdiv (t : Tok) (vd : BitVec 5) (va : BitVec 5) (vb : BitVec 5) (ws : BitVec 1) (mask : BitVec 3) (ls : BitVec 2) : Statement (.vdiv t vd va vb ws mask ls) := by
  obtain ⟨w, e, hb, ho, rfl, rfl, rfl, rfl, rfl, rfl, rfl⟩ := shape20 t 0x9 vd va vb ws mask ls (by decide)
  exact close (st := .V) rfl e hb ((congrArg (rowVAt · w) ho).trans (rfl))

theorem vrcp (t : Tok) (vd : BitVec 5) (va : BitVec 5) (ws : BitVec 1) (mask : BitVec 3) (ls : BitVec 1) : Statement (.vrcp t vd va ws mask ls) := by
  obtain ⟨w, e, hb, ho, h0, h1, rfl, rfl, rfl, rfl, rfl, rfl⟩ := shape22 t 0xA 0x0 0x0 vd va ws mask ls (by decide) (by decide) (by decide)
  exact close (st := .V) rfl e hb ((congrArg (rowVAt · w) ho).trans (if_pos ⟨h0, h1⟩))

theorem vrsq (t : Tok) (vd : BitVec 5) (va : BitVec 5) (ws : BitVec 1) (mask : BitVec 3) (ls : BitVec 1) : Statement (.vrsq t vd va ws mask ls) := by
  obtain ⟨w, e, hb, ho, h0, h1, rfl, rfl, rfl, rfl, rfl, rfl⟩ := shape22 t 0xB 0x0 0x0 vd va ws mask ls (by decide) (by decide) (by decide)
  exact close (st := .V) rfl e hb ((congrArg (rowVAt · w) ho).trans (if_pos ⟨h0, h1⟩))

theorem vsqrt (t : Tok) (vd : BitVec 5) (va : BitVec 5) (ws : BitVec 1) (mask : BitVec 3) (ls : BitVec 1) : Statement (.vsqrt t vd va ws mask ls) := by
  obtain ⟨w, e, hb, ho, h0, h1, rfl, rfl, rfl, rfl, rfl, rfl⟩ := shape22 t 0xC 0x0 0x0 vd va ws mask ls (by decide) (by decide) (by decide)
  exact close (st := .V) rfl e hb ((congrArg (rowVAt · w) ho).trans (if_pos ⟨h0, h1⟩))

theorem vexp2 (t : Tok) (vd : BitVec 5) (va : BitVec 5) (ws : BitVec 1) (mask : BitVec 3) (ls : BitVec 1) : Statement (.vexp2 t vd va ws mask ls) := by
  obtain ⟨w, e, hb, ho, h0, h1, rfl, rfl, rfl, rfl, rfl, rfl⟩ := shape22 t 0xD 0x0 0x0 vd va ws mask ls (by decide) (by decide) (by decide)
  exact close (st := .V) rfl e hb ((congrArg (rowVAt · w) ho).trans (if_pos ⟨h0, h1⟩))

theorem vlog2 (t : Tok) (vd : BitVec 5) (va : BitVec 5) (ws : BitVec 1) (mask : BitVec 3) (ls : BitVec 1) : Statement (.vlog2 t vd va ws mask ls) := by
  obtain ⟨w, e, hb, ho, h0, h1, rfl, rfl, rfl, rfl, rfl, rfl⟩ := shape22 t 0xE 0x0 0x0 vd va ws mask ls (by decide) (by decide) (by decide)
  exact close (st := .V) rfl e hb ((congrArg (rowVAt · w) ho).trans (if_pos ⟨h0, h1⟩))

theorem vadds (t : Tok) (vd : BitVec 5) (va : BitVec 5) (vb : BitVec 5) (ws : BitVec 1) (mask : BitVec 3) (ls : BitVec 2) : Statement (.vadds t vd va vb ws mask ls) := by
  obtain ⟨w, e, hb, ho, rfl, rfl, rfl, rfl, rfl, rfl, rfl⟩ := shape20 t 0xF vd va vb ws mask ls (by decide)
  exact close (st := .V) rfl e hb ((congrArg (rowVAt · w) ho).trans (rfl))

theorem vsubs (t : Tok) (vd : BitVec 5) (va : BitVec 5) (vb : BitVec 5) (ws : BitVec 1) (mask : BitVec 3) (ls : BitVec 2) : Statement (.vsubs t vd va vb ws mask ls) := by
  obtain ⟨w, e, hb, ho, rfl, rfl, rfl, rfl, rfl, rfl, rfl⟩ := shape20 t 0x10 vd va vb ws mask ls (by decide)
  exact close (st := .V) rfl e hb ((congrArg (rowVAt · w) ho).trans (rfl))

theorem vand (t : Tok) (vd : BitVec 5) (va : BitVec 5) (vb : BitVec 5) (ws : BitVec 1) (mask : BitVec 3) (ls : BitVec 2) : Statement (.vand t vd va vb ws mask ls) := by
  obtain ⟨w, e, hb, ho, rfl, rfl, rfl, rfl, rfl, rfl, rfl⟩ := shape20 t 0x11 vd va vb ws mask ls (by decide)
  exact close (st := .V) rfl e hb ((congrArg (rowVAt · w) ho).trans (rfl))

theorem vor (t : Tok) (vd : BitVec 5) (va : BitVec 5) (vb : BitVec 5) (ws : BitVec 1) (mask : BitVec 3) (ls : BitVec 2) : Statement (.vor t vd va vb ws mask ls) := by
  obtain ⟨w, e, hb, ho, rfl, rfl, rfl, rfl, rfl, rfl, rfl⟩ := shape20 t 0x12 vd va vb ws mask ls (by decide)
  exact close (st := .V) rfl e hb ((congrArg (rowVAt · w) ho).trans (rfl))

theorem vxor (t : Tok) (vd : BitVec 5) (va : BitVec 5) (vb : BitVec 5) (ws : BitVec 1) (mask : BitVec 3) (ls : BitVec 2) : Statement (.vxor t vd va vb ws mask ls) := by
  obtain ⟨w, e, hb, ho, rfl, rfl, rfl, rfl, rfl, rfl, rfl⟩ := shape20 t 0x13 vd va vb ws mask ls (by decide)
  exact close (st := .V) rfl e hb ((congrArg (rowVAt · w) ho).trans (rfl))

theorem vsll (t : Tok) (vd : BitVec 5) (va : BitVec 5) (vb : BitVec 5) (ws : BitVec 1) (mask : BitVec 3) (ls : BitVec 2) : Statement (.vsll t vd va vb ws mask ls) := by
  obtain ⟨w, e, hb, ho, rfl, rfl, rfl, rfl, rfl, rfl, rfl⟩ := shape20 t 0x14 vd va vb ws mask ls (by decide)
  exact close (st := .V) rfl e hb ((congrArg (rowVAt · w) ho).trans (rfl))

theorem vsrl (t : Tok) (vd : BitVec 5) (va : BitVec 5) (vb : BitVec 5) (ws : BitVec 1) (mask : BitVec 3) (ls : BitVec 2) : Statement (.vsrl t vd va vb ws mask ls) := by
  obtain ⟨w, e, hb, ho, rfl, rfl, rfl, rfl, rfl, rfl, rfl⟩ := shape20 t 0x15 vd va vb ws mask ls (by decide)
  exact close (st := .V) rfl e hb ((congrArg (rowVAt · w) ho).trans (rfl))

theorem vsra (t : Tok) (vd : BitVec 5) (va : BitVec 5) (vb : BitVec 5) (ws : BitVec 1) (mask : BitVec 3) (ls : BitVec 2) : Statement (.vsra t vd va vb ws mask ls) := by
  obtain ⟨w, e, hb, ho, rfl, rfl, rfl, rfl, rfl, rfl, rfl⟩ := shape20 t 0x16 vd va vb ws mask ls (by decide)
  exact close (st := .V) rfl e hb ((congrArg (rowVAt · w) ho).trans (rfl))

theorem vsllI (t : Tok) (vd : BitVec 5) (va : BitVec 5) (imm : BitVec 5) (ws : BitVec 1) (mask : BitVec 3) (ls : BitVec 1) : Statement (.vsllI t vd va imm ws mask ls) := by
  obtain ⟨w, e, hb, ho, h0, rfl, rfl, rfl, rfl, rfl, rfl, rfl⟩ := shape23 t 0x17 0x0 vd va imm ws mask ls (by decide) (by decide)
  exact close (st := .V) rfl e hb ((congrArg (rowVAt · w) ho).trans (if_pos h0))

theorem vsrlI (t : Tok) (vd : BitVec 5) (va : BitVec 5) (imm : BitVec 5) (ws : BitVec 1) (mask : BitVec 3) (ls : BitVec 1) : Statement (.vsrlI t vd va imm ws mask ls) := by
  obtain ⟨w, e, hb, ho, h0, rfl, rfl, rfl, rfl, rfl, rfl, rfl⟩ := shape23 t 0x18 0x0 vd va imm ws mask ls (by decide) (by decide)
  exact close (st := .V) rfl e hb ((congrArg (rowVAt · w) ho).trans (if_pos h0))

theorem vsraI (t : Tok) (vd : BitVec 5) (va : BitVec 5) (imm : BitVec 5) (ws : BitVec 1) (mask : BitVec 3) (ls : BitVec 1) : Statement (.vsraI t vd va imm ws mask ls) := by
  obtain ⟨w, e, hb, ho, h0, rfl, rfl, rfl, rfl, rfl, rfl, rfl⟩ := shape23 t 0x19 0x0 vd va imm ws mask ls (by decide) (by decide)
  exact close (st := .V) rfl e hb ((congrArg (rowVAt · w) ho).trans (if_pos h0))

theorem vbfx (t : Tok) (vd : BitVec 5) (va : BitVec 5) (vb : BitVec 5) (ws : BitVec 1) (mask : BitVec 3) (ls : BitVec 2) : Statement (.vbfx t vd va vb ws mask ls) := by
  obtain ⟨w, e, hb, ho, rfl, rfl, rfl, rfl, rfl, rfl, rfl⟩ := shape20 t 0x1A vd va vb ws mask ls (by decide)
  exact close (st := .V) rfl e hb ((congrArg (rowVAt · w) ho).trans (rfl))

theorem vbfxU (t : Tok) (vd : BitVec 5) (va : BitVec 5) (vb : BitVec 5) (ws : BitVec 1) (mask : BitVec 3) (ls : BitVec 2) : Statement (.vbfxU t vd va vb ws mask ls) := by
  obtain ⟨w, e, hb, ho, rfl, rfl, rfl, rfl, rfl, rfl, rfl⟩ := shape20 t 0x1B vd va vb ws mask ls (by decide)
  exact close (st := .V) rfl e hb ((congrArg (rowVAt · w) ho).trans (rfl))

theorem vfsh (t : Tok) (vd : BitVec 5) (va : BitVec 5) (vb : BitVec 5) (mask : BitVec 3) (ls : BitVec 2) : Statement (.vfsh t vd va vb mask ls) := by
  obtain ⟨w, e, hb, ho, h0, rfl, rfl, rfl, rfl, rfl, rfl⟩ := shape21 t 0x1C 0x0 vd va vb mask ls (by decide) (by decide)
  exact close (st := .V) rfl e hb ((congrArg (rowVAt · w) ho).trans (if_pos h0))

theorem vpopc (t : Tok) (vd : BitVec 5) (va : BitVec 5) (ws : BitVec 1) (mask : BitVec 3) (ls : BitVec 1) : Statement (.vpopc t vd va ws mask ls) := by
  obtain ⟨w, e, hb, ho, h0, h1, rfl, rfl, rfl, rfl, rfl, rfl⟩ := shape22 t 0x1D 0x0 0x0 vd va ws mask ls (by decide) (by decide) (by decide)
  exact close (st := .V) rfl e hb ((congrArg (rowVAt · w) ho).trans (if_pos ⟨h0, h1⟩))

theorem vclz (t : Tok) (vd : BitVec 5) (va : BitVec 5) (ws : BitVec 1) (mask : BitVec 3) (ls : BitVec 1) : Statement (.vclz t vd va ws mask ls) := by
  obtain ⟨w, e, hb, ho, h0, h1, rfl, rfl, rfl, rfl, rfl, rfl⟩ := shape22 t 0x1E 0x0 0x0 vd va ws mask ls (by decide) (by decide) (by decide)
  exact close (st := .V) rfl e hb ((congrArg (rowVAt · w) ho).trans (if_pos ⟨h0, h1⟩))

theorem vcmpEq (t : Tok) (kd : BitVec 3) (va : BitVec 5) (vb : BitVec 5) (mask : BitVec 3) (ls : BitVec 2) : Statement (.vcmpEq t kd va vb mask ls) := by
  obtain ⟨w, e, hb, ho, h0, h1, rfl, rfl, rfl, rfl, rfl, rfl⟩ := shape24 t 0x20 0x0 0x0 kd va vb mask ls (by decide) (by decide) (by decide)
  exact close (st := .V) rfl e hb ((congrArg (rowVAt · w) ho).trans (if_pos ⟨h0, h1⟩))

theorem vcmpNe (t : Tok) (kd : BitVec 3) (va : BitVec 5) (vb : BitVec 5) (mask : BitVec 3) (ls : BitVec 2) : Statement (.vcmpNe t kd va vb mask ls) := by
  obtain ⟨w, e, hb, ho, h0, h1, rfl, rfl, rfl, rfl, rfl, rfl⟩ := shape24 t 0x21 0x0 0x0 kd va vb mask ls (by decide) (by decide) (by decide)
  exact close (st := .V) rfl e hb ((congrArg (rowVAt · w) ho).trans (if_pos ⟨h0, h1⟩))

theorem vcmpLt (t : Tok) (kd : BitVec 3) (va : BitVec 5) (vb : BitVec 5) (mask : BitVec 3) (ls : BitVec 2) : Statement (.vcmpLt t kd va vb mask ls) := by
  obtain ⟨w, e, hb, ho, h0, h1, rfl, rfl, rfl, rfl, rfl, rfl⟩ := shape24 t 0x22 0x0 0x0 kd va vb mask ls (by decide) (by decide) (by decide)
  exact close (st := .V) rfl e hb ((congrArg (rowVAt · w) ho).trans (if_pos ⟨h0, h1⟩))

theorem vcmpLe (t : Tok) (kd : BitVec 3) (va : BitVec 5) (vb : BitVec 5) (mask : BitVec 3) (ls : BitVec 2) : Statement (.vcmpLe t kd va vb mask ls) := by
  obtain ⟨w, e, hb, ho, h0, h1, rfl, rfl, rfl, rfl, rfl, rfl⟩ := shape24 t 0x23 0x0 0x0 kd va vb mask ls (by decide) (by decide) (by decide)
  exact close (st := .V) rfl e hb ((congrArg (rowVAt · w) ho).trans (if_pos ⟨h0, h1⟩))

theorem kand (t : Tok) (kd : BitVec 5) (ka : BitVec 3) (kb : BitVec 3) : Statement (.kand t kd ka kb) := by
  obtain ⟨w, e, hb, ho, h0, h1, h2, rfl, rfl, rfl, rfl⟩ := shape25 t 0x24 0x0 0x0 0x0 kd ka kb (by decide) (by decide) (by decide) (by decide)
  exact close (st := .V) rfl e hb ((congrArg (rowVAt · w) ho).trans (if_pos ⟨h0, h1, h2⟩))

theorem kor (t : Tok) (kd : BitVec 5) (ka : BitVec 3) (kb : BitVec 3) : Statement (.kor t kd ka kb) := by
  obtain ⟨w, e, hb, ho, h0, h1, h2, rfl, rfl, rfl, rfl⟩ := shape25 t 0x25 0x0 0x0 0x0 kd ka kb (by decide) (by decide) (by decide) (by decide)
  exact close (st := .V) rfl e hb ((congrArg (rowVAt · w) ho).trans (if_pos ⟨h0, h1, h2⟩))

theorem kxor (t : Tok) (kd : BitVec 5) (ka : BitVec 3) (kb : BitVec 3) : Statement (.kxor t kd ka kb) := by
  obtain ⟨w, e, hb, ho, h0, h1, h2, rfl, rfl, rfl, rfl⟩ := shape25 t 0x26 0x0 0x0 0x0 kd ka kb (by decide) (by decide) (by decide) (by decide)
  exact close (st := .V) rfl e hb ((congrArg (rowVAt · w) ho).trans (if_pos ⟨h0, h1, h2⟩))

theorem knot (t : Tok) (kd : BitVec 5) (ka : BitVec 3) : Statement (.knot t kd ka) := by
  obtain ⟨w, e, hb, ho, h0, h1, rfl, rfl, rfl⟩ := shape26 t 0x27 0x0 0x0 kd ka (by decide) (by decide) (by decide)
  exact close (st := .V) rfl e hb ((congrArg (rowVAt · w) ho).trans (if_pos ⟨h0, h1⟩))

theorem vsel (t : Tok) (vd : BitVec 5) (va : BitVec 5) (vb : BitVec 5) (ws : BitVec 1) (mask : BitVec 3) (ls : BitVec 2) : Statement (.vsel t vd va vb ws mask ls) := by
  obtain ⟨w, e, hb, ho, rfl, rfl, rfl, rfl, rfl, rfl, rfl⟩ := shape20 t 0x28 vd va vb ws mask ls (by decide)
  exact close (st := .V) rfl e hb ((congrArg (rowVAt · w) ho).trans (rfl))

theorem vmov (t : Tok) (vd : BitVec 5) (va : BitVec 5) (ws : BitVec 1) (mask : BitVec 3) (ls : BitVec 1) : Statement (.vmov t vd va ws mask ls) := by
  obtain ⟨w, e, hb, ho, h0, h1, rfl, rfl, rfl, rfl, rfl, rfl⟩ := shape22 t 0x29 0x0 0x0 vd va ws mask ls (by decide) (by decide) (by decide)
  exact close (st := .V) rfl e hb ((congrArg (rowVAt · w) ho).trans (if_pos ⟨h0, h1⟩))

theorem vbcast (t : Tok) (vd : BitVec 5) (va : BitVec 5) (vb : BitVec 5) (ws : BitVec 1) (mask : BitVec 3) (ls : BitVec 2) : Statement (.vbcast t vd va vb ws mask ls) := by
  obtain ⟨w, e, hb, ho, rfl, rfl, rfl, rfl, rfl, rfl, rfl⟩ := shape20 t 0x2A vd va vb ws mask ls (by decide)
  exact close (st := .V) rfl e hb ((congrArg (rowVAt · w) ho).trans (rfl))

theorem vperm (t : Tok) (vd : BitVec 5) (va : BitVec 5) (vb : BitVec 5) (ws : BitVec 1) (mask : BitVec 3) (ls : BitVec 2) : Statement (.vperm t vd va vb ws mask ls) := by
  obtain ⟨w, e, hb, ho, rfl, rfl, rfl, rfl, rfl, rfl, rfl⟩ := shape20 t 0x2B vd va vb ws mask ls (by decide)
  exact close (st := .V) rfl e hb ((congrArg (rowVAt · w) ho).trans (rfl))

theorem vrot (t : Tok) (vd : BitVec 5) (va : BitVec 5) (vb : BitVec 5) (ws : BitVec 1) (mask : BitVec 3) (ls : BitVec 2) : Statement (.vrot t vd va vb ws mask ls) := by
  obtain ⟨w, e, hb, ho, rfl, rfl, rfl, rfl, rfl, rfl, rfl⟩ := shape20 t 0x2C vd va vb ws mask ls (by decide)
  exact close (st := .V) rfl e hb ((congrArg (rowVAt · w) ho).trans (rfl))

theorem vli (t : Tok) (vd : BitVec 5) (imm : BitVec 10) (ws : BitVec 1) (mask : BitVec 3) : Statement (.vli t vd imm ws mask) := by
  obtain ⟨w, e, hb, ho, h0, rfl, rfl, rfl, rfl, rfl⟩ := shape27 t 0x2D 0x0 vd imm ws mask (by decide) (by decide)
  exact close (st := .V) rfl e hb ((congrArg (rowVAt · w) ho).trans (if_pos h0))

theorem vidx (t : Tok) (vd : BitVec 5) (ws : BitVec 1) (mask : BitVec 3) : Statement (.vidx t vd ws mask) := by
  obtain ⟨w, e, hb, ho, h0, h1, rfl, rfl, rfl, rfl⟩ := shape28 t 0x2E 0x0 0x0 vd ws mask (by decide) (by decide) (by decide)
  exact close (st := .V) rfl e hb ((congrArg (rowVAt · w) ho).trans (if_pos ⟨h0, h1⟩))

theorem vredAdd (t : Tok) (vd : BitVec 5) (va : BitVec 5) (ws : BitVec 1) (mask : BitVec 3) (ls : BitVec 1) : Statement (.vredAdd t vd va ws mask ls) := by
  obtain ⟨w, e, hb, ho, h0, h1, rfl, rfl, rfl, rfl, rfl, rfl⟩ := shape22 t 0x30 0x0 0x0 vd va ws mask ls (by decide) (by decide) (by decide)
  exact close (st := .V) rfl e hb ((congrArg (rowVAt · w) ho).trans (if_pos ⟨h0, h1⟩))

theorem vredMin (t : Tok) (vd : BitVec 5) (va : BitVec 5) (ws : BitVec 1) (mask : BitVec 3) (ls : BitVec 1) : Statement (.vredMin t vd va ws mask ls) := by
  obtain ⟨w, e, hb, ho, h0, h1, rfl, rfl, rfl, rfl, rfl, rfl⟩ := shape22 t 0x31 0x0 0x0 vd va ws mask ls (by decide) (by decide) (by decide)
  exact close (st := .V) rfl e hb ((congrArg (rowVAt · w) ho).trans (if_pos ⟨h0, h1⟩))

theorem vredMax (t : Tok) (vd : BitVec 5) (va : BitVec 5) (ws : BitVec 1) (mask : BitVec 3) (ls : BitVec 1) : Statement (.vredMax t vd va ws mask ls) := by
  obtain ⟨w, e, hb, ho, h0, h1, rfl, rfl, rfl, rfl, rfl, rfl⟩ := shape22 t 0x32 0x0 0x0 vd va ws mask ls (by decide) (by decide) (by decide)
  exact close (st := .V) rfl e hb ((congrArg (rowVAt · w) ho).trans (if_pos ⟨h0, h1⟩))

theorem vscanAdd (t : Tok) (vd : BitVec 5) (va : BitVec 5) (ws : BitVec 1) (mask : BitVec 3) (ls : BitVec 1) : Statement (.vscanAdd t vd va ws mask ls) := by
  obtain ⟨w, e, hb, ho, h0, h1, rfl, rfl, rfl, rfl, rfl, rfl⟩ := shape22 t 0x33 0x0 0x0 vd va ws mask ls (by decide) (by decide) (by decide)
  exact close (st := .V) rfl e hb ((congrArg (rowVAt · w) ho).trans (if_pos ⟨h0, h1⟩))

theorem vcvt (t : Tok) (part : BitVec 2) (vd : BitVec 5) (va : BitVec 5) (tag : BitVec 4) (ws : BitVec 1) (mask : BitVec 3) (ls : BitVec 1) : Statement (.vcvt t part vd va tag ws mask ls) := by
  obtain ⟨w, e, hb, ho, h0, h1, rfl, rfl, rfl, rfl, rfl, rfl, rfl, rfl⟩ := shape29 t 0x10 0x0 0x0 part vd va tag ws mask ls (by decide) (by decide) (by decide)
  have hc : fieldNat w 21 7 = 0x40 ∨ fieldNat w 21 7 = 0x41 ∨ fieldNat w 21 7 = 0x42 ∨ fieldNat w 21 7 = 0x43 := by
    unfold fieldNat at *; omega
  rcases hc with hc | hc | hc | hc
  · exact close (st := .V) rfl e hb ((congrArg (rowVAt · w) hc).trans (if_pos ⟨h0, h1⟩))
  · exact close (st := .V) rfl e hb ((congrArg (rowVAt · w) hc).trans (if_pos ⟨h0, h1⟩))
  · exact close (st := .V) rfl e hb ((congrArg (rowVAt · w) hc).trans (if_pos ⟨h0, h1⟩))
  · exact close (st := .V) rfl e hb ((congrArg (rowVAt · w) hc).trans (if_pos ⟨h0, h1⟩))

theorem vcvtRz (t : Tok) (part : BitVec 2) (vd : BitVec 5) (va : BitVec 5) (tag : BitVec 4) (ws : BitVec 1) (mask : BitVec 3) (ls : BitVec 1) : Statement (.vcvtRz t part vd va tag ws mask ls) := by
  obtain ⟨w, e, hb, ho, h0, h1, rfl, rfl, rfl, rfl, rfl, rfl, rfl, rfl⟩ := shape29 t 0x11 0x0 0x0 part vd va tag ws mask ls (by decide) (by decide) (by decide)
  have hc : fieldNat w 21 7 = 0x44 ∨ fieldNat w 21 7 = 0x45 ∨ fieldNat w 21 7 = 0x46 ∨ fieldNat w 21 7 = 0x47 := by
    unfold fieldNat at *; omega
  rcases hc with hc | hc | hc | hc
  · exact close (st := .V) rfl e hb ((congrArg (rowVAt · w) hc).trans (if_pos ⟨h0, h1⟩))
  · exact close (st := .V) rfl e hb ((congrArg (rowVAt · w) hc).trans (if_pos ⟨h0, h1⟩))
  · exact close (st := .V) rfl e hb ((congrArg (rowVAt · w) hc).trans (if_pos ⟨h0, h1⟩))
  · exact close (st := .V) rfl e hb ((congrArg (rowVAt · w) hc).trans (if_pos ⟨h0, h1⟩))

theorem vcvtSr (t : Tok) (part : BitVec 2) (vd : BitVec 5) (va : BitVec 5) (tag : BitVec 4) (ws : BitVec 1) (mask : BitVec 3) (ls : BitVec 1) : Statement (.vcvtSr t part vd va tag ws mask ls) := by
  obtain ⟨w, e, hb, ho, h0, h1, rfl, rfl, rfl, rfl, rfl, rfl, rfl, rfl⟩ := shape29 t 0x12 0x0 0x0 part vd va tag ws mask ls (by decide) (by decide) (by decide)
  have hc : fieldNat w 21 7 = 0x48 ∨ fieldNat w 21 7 = 0x49 ∨ fieldNat w 21 7 = 0x4A ∨ fieldNat w 21 7 = 0x4B := by
    unfold fieldNat at *; omega
  rcases hc with hc | hc | hc | hc
  · exact close (st := .V) rfl e hb ((congrArg (rowVAt · w) hc).trans (if_pos ⟨h0, h1⟩))
  · exact close (st := .V) rfl e hb ((congrArg (rowVAt · w) hc).trans (if_pos ⟨h0, h1⟩))
  · exact close (st := .V) rfl e hb ((congrArg (rowVAt · w) hc).trans (if_pos ⟨h0, h1⟩))
  · exact close (st := .V) rfl e hb ((congrArg (rowVAt · w) hc).trans (if_pos ⟨h0, h1⟩))

theorem vsplit3 (t : Tok) (vd : BitVec 5) (va : BitVec 5) (part : BitVec 5) (ws : BitVec 1) (mask : BitVec 3) (ls : BitVec 1) : Statement (.vsplit3 t vd va part ws mask ls) := by
  obtain ⟨w, e, hb, ho, h0, rfl, rfl, rfl, rfl, rfl, rfl, rfl⟩ := shape23 t 0x50 0x0 vd va part ws mask ls (by decide) (by decide)
  exact close (st := .V) rfl e hb ((congrArg (rowVAt · w) ho).trans (if_pos h0))

theorem vld (t : Tok) (vd : BitVec 5) (va : BitVec 5) (tag : BitVec 4) (ws : BitVec 1) (mask : BitVec 3) (ls : BitVec 1) : Statement (.vld t vd va tag ws mask ls) := by
  obtain ⟨w, e, hb, ho, h0, h1, rfl, rfl, rfl, rfl, rfl, rfl, rfl⟩ := shape30 t 0x54 0x0 0x0 vd va tag ws mask ls (by decide) (by decide) (by decide)
  exact close (st := .V) rfl e hb ((congrArg (rowVAt · w) ho).trans (if_pos ⟨h0, h1⟩))

theorem vst (t : Tok) (va : BitVec 5) (vb : BitVec 5) (mask : BitVec 3) (ls : BitVec 2) : Statement (.vst t va vb mask ls) := by
  obtain ⟨w, e, hb, ho, h0, h1, rfl, rfl, rfl, rfl, rfl⟩ := shape31 t 0x55 0x0 0x0 va vb mask ls (by decide) (by decide) (by decide)
  exact close (st := .V) rfl e hb ((congrArg (rowVAt · w) ho).trans (if_pos ⟨h0, h1⟩))

theorem vldm (t : Tok) (vd : BitVec 5) (va : BitVec 5) (tag : BitVec 4) (ws : BitVec 1) (mask : BitVec 3) (ls : BitVec 1) : Statement (.vldm t vd va tag ws mask ls) := by
  obtain ⟨w, e, hb, ho, h0, h1, rfl, rfl, rfl, rfl, rfl, rfl, rfl⟩ := shape30 t 0x56 0x0 0x0 vd va tag ws mask ls (by decide) (by decide) (by decide)
  exact close (st := .V) rfl e hb ((congrArg (rowVAt · w) ho).trans (if_pos ⟨h0, h1⟩))

theorem vstm (t : Tok) (va : BitVec 5) (vb : BitVec 5) (mask : BitVec 3) (ls : BitVec 2) : Statement (.vstm t va vb mask ls) := by
  obtain ⟨w, e, hb, ho, h0, h1, rfl, rfl, rfl, rfl, rfl⟩ := shape31 t 0x57 0x0 0x0 va vb mask ls (by decide) (by decide) (by decide)
  exact close (st := .V) rfl e hb ((congrArg (rowVAt · w) ho).trans (if_pos ⟨h0, h1⟩))

theorem vgath (t : Tok) (vd : BitVec 5) (va : BitVec 5) (tag : BitVec 4) (ws : BitVec 1) (mask : BitVec 3) (ls : BitVec 1) : Statement (.vgath t vd va tag ws mask ls) := by
  obtain ⟨w, e, hb, ho, h0, h1, rfl, rfl, rfl, rfl, rfl, rfl, rfl⟩ := shape30 t 0x58 0x0 0x0 vd va tag ws mask ls (by decide) (by decide) (by decide)
  exact close (st := .V) rfl e hb ((congrArg (rowVAt · w) ho).trans (if_pos ⟨h0, h1⟩))

theorem vscat (t : Tok) (va : BitVec 5) (vb : BitVec 5) (mask : BitVec 3) (ls : BitVec 2) : Statement (.vscat t va vb mask ls) := by
  obtain ⟨w, e, hb, ho, h0, h1, rfl, rfl, rfl, rfl, rfl⟩ := shape31 t 0x59 0x0 0x0 va vb mask ls (by decide) (by decide) (by decide)
  exact close (st := .V) rfl e hb ((congrArg (rowVAt · w) ho).trans (if_pos ⟨h0, h1⟩))

theorem vldf (t : Tok) (vd : BitVec 5) (va : BitVec 5) (code : BitVec 5) (ws : BitVec 1) (mask : BitVec 3) (ls : BitVec 1) : Statement (.vldf t vd va code ws mask ls) := by
  obtain ⟨w, e, hb, ho, h0, rfl, rfl, rfl, rfl, rfl, rfl, rfl⟩ := shape23 t 0x5A 0x0 vd va code ws mask ls (by decide) (by decide)
  exact close (st := .V) rfl e hb ((congrArg (rowVAt · w) ho).trans (if_pos h0))

theorem vstf (t : Tok) (code : BitVec 4) (va : BitVec 5) (vb : BitVec 5) (mask : BitVec 3) (ls : BitVec 2) : Statement (.vstf t code va vb mask ls) := by
  obtain ⟨w, e, hb, ho, h0, h1, rfl, rfl, rfl, rfl, rfl, rfl⟩ := shape32 t 0x5B 0x0 0x0 code va vb mask ls (by decide) (by decide) (by decide)
  exact close (st := .V) rfl e hb ((congrArg (rowVAt · w) ho).trans (if_pos ⟨h0, h1⟩))

theorem vpal (t : Tok) (va : BitVec 5) (pal : BitVec 1) (ls : BitVec 1) : Statement (.vpal t va pal ls) := by
  obtain ⟨w, e, hb, ho, h0, h1, h2, rfl, rfl, rfl, rfl⟩ := shape33 t 0x5C 0x0 0x0 0x0 va pal ls (by decide) (by decide) (by decide) (by decide)
  exact close (st := .V) rfl e hb ((congrArg (rowVAt · w) ho).trans (if_pos ⟨h0, h1, h2⟩))

theorem vcgen (t : Tok) (vd : BitVec 5) (va : BitVec 5) (vb : BitVec 5) (ws : BitVec 1) (mask : BitVec 3) (ls : BitVec 2) : Statement (.vcgen t vd va vb ws mask ls) := by
  obtain ⟨w, e, hb, ho, rfl, rfl, rfl, rfl, rfl, rfl, rfl⟩ := shape20 t 0x5D vd va vb ws mask ls (by decide)
  exact close (st := .V) rfl e hb ((congrArg (rowVAt · w) ho).trans (rfl))

theorem vovf (t : Tok) (va : BitVec 5) (mask : BitVec 3) (ls : BitVec 1) : Statement (.vovf t va mask ls) := by
  obtain ⟨w, e, hb, ho, h0, h1, h2, rfl, rfl, rfl, rfl⟩ := shape34 t 0x60 0x0 0x0 0x0 va mask ls (by decide) (by decide) (by decide) (by decide)
  exact close (st := .V) rfl e hb ((congrArg (rowVAt · w) ho).trans (if_pos ⟨h0, h1, h2⟩))

theorem vlsc (t : Tok) : Statement (.vlsc t) := by
  obtain ⟨w, e, hb, ho, h0, rfl⟩ := shape35 t 0x61 0x0 (by decide) (by decide)
  exact close (st := .V) rfl e hb ((congrArg (rowVAt · w) ho).trans (if_pos h0))

theorem vadam (t : Tok) (vd : BitVec 5) (va : BitVec 5) (vb : BitVec 5) (mask : BitVec 3) (ls : BitVec 2) : Statement (.vadam t vd va vb mask ls) := by
  obtain ⟨w, e, hb, ho, h0, rfl, rfl, rfl, rfl, rfl, rfl⟩ := shape21 t 0x62 0x0 vd va vb mask ls (by decide) (by decide)
  exact close (st := .V) rfl e hb ((congrArg (rowVAt · w) ho).trans (if_pos h0))

theorem vqenc (t : Tok) (vd : BitVec 5) (va : BitVec 5) (vb : BitVec 5) (ws : BitVec 1) (mask : BitVec 3) (ls : BitVec 2) : Statement (.vqenc t vd va vb ws mask ls) := by
  obtain ⟨w, e, hb, ho, rfl, rfl, rfl, rfl, rfl, rfl, rfl⟩ := shape20 t 0x63 vd va vb ws mask ls (by decide)
  exact close (st := .V) rfl e hb ((congrArg (rowVAt · w) ho).trans (rfl))

theorem vqencPal1 (t : Tok) (vd : BitVec 5) (va : BitVec 5) (vb : BitVec 5) (ws : BitVec 1) (mask : BitVec 3) (ls : BitVec 2) : Statement (.vqencPal1 t vd va vb ws mask ls) := by
  obtain ⟨w, e, hb, ho, rfl, rfl, rfl, rfl, rfl, rfl, rfl⟩ := shape20 t 0x64 vd va vb ws mask ls (by decide)
  exact close (st := .V) rfl e hb ((congrArg (rowVAt · w) ho).trans (rfl))

theorem vloop (t : Tok) (count1 : BitVec 10) (len1 : BitVec 11) : Statement (.vloop t count1 len1) := by
  obtain ⟨w, e, hb, ho, rfl, rfl, rfl⟩ := shape36 t 0x7D count1 len1 (by decide)
  exact close (st := .V) rfl e hb ((congrArg (rowVAt · w) ho).trans (rfl))

theorem nendV (t : Tok) : Statement (.nendV t) := by
  obtain ⟨w, e, hb, ho, h0, rfl⟩ := shape35 t 0x7F 0x0 (by decide) (by decide)
  exact close (st := .V) rfl e hb ((congrArg (rowVAt · w) ho).trans (if_pos h0))

theorem mwldSlot (t : Tok) (slot : BitVec 2) (code : BitVec 4) (pb : BitVec 4) : Statement (.mwldSlot t slot code pb) := by
  obtain ⟨w, e, hb, ho, h0, h1, h2, rfl, rfl, rfl, rfl⟩ := shape37 t 0x1 0x0 0x0 0x0 slot code pb (by decide) (by decide) (by decide) (by decide)
  exact close (st := .M) rfl e hb ((congrArg (rowMAt · w) ho).trans (if_pos ⟨h0, h1, h2⟩))

theorem mwldScratchpad (t : Tok) (pa : BitVec 4) (code : BitVec 4) (pb : BitVec 4) : Statement (.mwldScratchpad t pa code pb) := by
  obtain ⟨w, e, hb, ho, h0, h1, rfl, rfl, rfl, rfl⟩ := shape38 t 0x1 0x0 0x4 pa code pb (by decide) (by decide) (by decide)
  exact close (st := .M) rfl e hb ((congrArg (rowMAt · w) ho).trans ((if_neg (by unfold fieldNat at *; omega)).trans (if_pos ⟨h0, h1⟩)))

theorem mswp (t : Tok) : Statement (.mswp t) := by
  obtain ⟨w, e, hb, ho, h0, rfl⟩ := shape16 t 0x2 0x0 (by decide) (by decide)
  exact close (st := .M) rfl e hb ((congrArg (rowMAt · w) ho).trans (if_pos h0))

theorem mband (t : Tok) (bands : BitVec 4) : Statement (.mband t bands) := by
  obtain ⟨w, e, hb, ho, h0, rfl, rfl⟩ := shape39 t 0x3 0x0 bands (by decide) (by decide)
  exact close (st := .M) rfl e hb ((congrArg (rowMAt · w) ho).trans (if_pos h0))

theorem mslot (t : Tok) (slot : BitVec 2) (pa : BitVec 4) : Statement (.mslot t slot pa) := by
  obtain ⟨w, e, hb, ho, h0, rfl, rfl, rfl⟩ := shape40 t 0x4 0x0 slot pa (by decide) (by decide)
  exact close (st := .M) rfl e hb ((congrArg (rowMAt · w) ho).trans (if_pos h0))

theorem mmf (t : Tok) (tile : BitVec 3) (pa : BitVec 4) (pb : BitVec 4) (fmt : BitVec 3) : Statement (.mmf t tile pa pb fmt) := by
  obtain ⟨w, e, hb, ho, h0, rfl, rfl, rfl, rfl, rfl⟩ := shape41 t 0x5 0x0 tile pa pb fmt (by decide) (by decide)
  exact close (st := .M) rfl e hb ((congrArg (rowMAt · w) ho).trans (if_pos h0))

theorem mmb (t : Tok) (tile : BitVec 3) (pa : BitVec 4) (pb : BitVec 4) (fmt : BitVec 3) : Statement (.mmb t tile pa pb fmt) := by
  obtain ⟨w, e, hb, ho, h0, rfl, rfl, rfl, rfl, rfl⟩ := shape41 t 0x6 0x0 tile pa pb fmt (by decide) (by decide)
  exact close (st := .M) rfl e hb ((congrArg (rowMAt · w) ho).trans (if_pos h0))

theorem mmw (t : Tok) (tile : BitVec 3) (pa : BitVec 4) (pb : BitVec 4) (fmt : BitVec 3) : Statement (.mmw t tile pa pb fmt) := by
  obtain ⟨w, e, hb, ho, h0, rfl, rfl, rfl, rfl, rfl⟩ := shape41 t 0x7 0x0 tile pa pb fmt (by decide) (by decide)
  exact close (st := .M) rfl e hb ((congrArg (rowMAt · w) ho).trans (if_pos h0))

theorem mconst (t : Tok) (tile : BitVec 3) (pa : BitVec 4) (pb : BitVec 4) (kind : BitVec 3) : Statement (.mconst t tile pa pb kind) := by
  obtain ⟨w, e, hb, ho, h0, rfl, rfl, rfl, rfl, rfl⟩ := shape41 t 0x8 0x0 tile pa pb kind (by decide) (by decide)
  exact close (st := .M) rfl e hb ((congrArg (rowMAt · w) ho).trans (if_pos h0))

theorem mconstB (t : Tok) (tile : BitVec 3) (pa : BitVec 4) (pb : BitVec 4) (kind : BitVec 3) : Statement (.mconstB t tile pa pb kind) := by
  obtain ⟨w, e, hb, ho, h0, rfl, rfl, rfl, rfl, rfl⟩ := shape41 t 0x8 0x80 tile pa pb kind (by decide) (by decide)
  exact close (st := .M) rfl e hb ((congrArg (rowMAt · w) ho).trans ((if_neg (ne 0x0 h0 rfl)).trans (if_pos h0)))

theorem mzero (t : Tok) (tile : BitVec 3) : Statement (.mzero t tile) := by
  obtain ⟨w, e, hb, ho, h0, rfl, rfl⟩ := shape42 t 0x9 0x0 tile (by decide) (by decide)
  exact close (st := .M) rfl e hb ((congrArg (rowMAt · w) ho).trans (if_pos h0))

theorem macc (t : Tok) (tile : BitVec 3) (pa : BitVec 4) (pb : BitVec 4) : Statement (.macc t tile pa pb) := by
  obtain ⟨w, e, hb, ho, h0, rfl, rfl, rfl, rfl⟩ := shape43 t 0xA 0x0 tile pa pb (by decide) (by decide)
  exact close (st := .M) rfl e hb ((congrArg (rowMAt · w) ho).trans (if_pos h0))

theorem madr (t : Tok) (tile : BitVec 3) (pa : BitVec 4) (pb : BitVec 4) (code : BitVec 4) : Statement (.madr t tile pa pb code) := by
  obtain ⟨w, e, hb, ho, h0, rfl, rfl, rfl, rfl, rfl⟩ := shape44 t 0xB 0x0 tile pa pb code (by decide) (by decide)
  exact close (st := .M) rfl e hb ((congrArg (rowMAt · w) ho).trans (if_pos h0))

theorem madrRz (t : Tok) (tile : BitVec 3) (pa : BitVec 4) (pb : BitVec 4) (code : BitVec 4) : Statement (.madrRz t tile pa pb code) := by
  obtain ⟨w, e, hb, ho, h0, rfl, rfl, rfl, rfl, rfl⟩ := shape44 t 0xB 0x20 tile pa pb code (by decide) (by decide)
  exact close (st := .M) rfl e hb ((congrArg (rowMAt · w) ho).trans ((if_neg (ne 0x0 h0 rfl)).trans (if_pos h0)))

theorem madrSr (t : Tok) (tile : BitVec 3) (pa : BitVec 4) (pb : BitVec 4) (code : BitVec 4) : Statement (.madrSr t tile pa pb code) := by
  obtain ⟨w, e, hb, ho, h0, rfl, rfl, rfl, rfl, rfl⟩ := shape44 t 0xB 0x40 tile pa pb code (by decide) (by decide)
  exact close (st := .M) rfl e hb ((congrArg (rowMAt · w) ho).trans ((if_neg (ne 0x0 h0 rfl)).trans ((if_neg (ne 0x20 h0 rfl)).trans (if_pos h0))))

theorem mchk (t : Tok) (tile : BitVec 3) : Statement (.mchk t tile) := by
  obtain ⟨w, e, hb, ho, h0, rfl, rfl⟩ := shape42 t 0xC 0x0 tile (by decide) (by decide)
  exact close (st := .M) rfl e hb ((congrArg (rowMAt · w) ho).trans (if_pos h0))

theorem mbind (t : Tok) (hnd : BitVec 2) (pa : BitVec 4) : Statement (.mbind t hnd pa) := by
  obtain ⟨w, e, hb, ho, h0, rfl, rfl, rfl⟩ := shape40 t 0xD 0x0 hnd pa (by decide) (by decide)
  exact close (st := .M) rfl e hb ((congrArg (rowMAt · w) ho).trans (if_pos h0))

theorem mimm (t : Tok) (tile : BitVec 3) (hnd : BitVec 2) (pa : BitVec 4) (pb : BitVec 4) : Statement (.mimm t tile hnd pa pb) := by
  obtain ⟨w, e, hb, ho, h0, rfl, rfl, rfl, rfl, rfl⟩ := shape45 t 0xE 0x0 tile hnd pa pb (by decide) (by decide)
  exact close (st := .M) rfl e hb ((congrArg (rowMAt · w) ho).trans (if_pos h0))

theorem mimmHi (t : Tok) (tile : BitVec 3) (hnd : BitVec 2) (pa : BitVec 4) (pb : BitVec 4) : Statement (.mimmHi t tile hnd pa pb) := by
  obtain ⟨w, e, hb, ho, h0, rfl, rfl, rfl, rfl, rfl⟩ := shape45 t 0xE 0x80 tile hnd pa pb (by decide) (by decide)
  exact close (st := .M) rfl e hb ((congrArg (rowMAt · w) ho).trans ((if_neg (ne 0x0 h0 rfl)).trans (if_pos h0)))

theorem mimmMid (t : Tok) (tile : BitVec 3) (hnd : BitVec 2) (pa : BitVec 4) (pb : BitVec 4) : Statement (.mimmMid t tile hnd pa pb) := by
  obtain ⟨w, e, hb, ho, h0, rfl, rfl, rfl, rfl, rfl⟩ := shape45 t 0xE 0x100 tile hnd pa pb (by decide) (by decide)
  exact close (st := .M) rfl e hb ((congrArg (rowMAt · w) ho).trans ((if_neg (ne 0x0 h0 rfl)).trans ((if_neg (ne 0x80 h0 rfl)).trans (if_pos h0))))

theorem mimmLo (t : Tok) (tile : BitVec 3) (hnd : BitVec 2) (pa : BitVec 4) (pb : BitVec 4) : Statement (.mimmLo t tile hnd pa pb) := by
  obtain ⟨w, e, hb, ho, h0, rfl, rfl, rfl, rfl, rfl⟩ := shape45 t 0xE 0x180 tile hnd pa pb (by decide) (by decide)
  exact close (st := .M) rfl e hb ((congrArg (rowMAt · w) ho).trans ((if_neg (ne 0x0 h0 rfl)).trans ((if_neg (ne 0x80 h0 rfl)).trans ((if_neg (ne 0x100 h0 rfl)).trans (if_pos h0)))))

theorem mimv (t : Tok) (hnd : BitVec 2) (pa : BitVec 4) (pb : BitVec 4) (pc : BitVec 4) (nrhs1 : BitVec 2) : Statement (.mimv t hnd pa pb pc nrhs1) := by
  obtain ⟨w, e, hb, ho, h0, rfl, rfl, rfl, rfl, rfl, rfl⟩ := shape46 t 0xF 0x0 hnd pa pb pc nrhs1 (by decide) (by decide)
  exact close (st := .M) rfl e hb ((congrArg (rowMAt · w) ho).trans (if_pos h0))

theorem mli (t : Tok) (pd : BitVec 4) (imm : BitVec 16) : Statement (.mli t pd imm) := by
  obtain ⟨w, e, hb, ho, h0, rfl, rfl, rfl⟩ := shape47 t 0x20 0x0 pd imm (by decide) (by decide)
  exact close (st := .M) rfl e hb ((congrArg (rowMAt · w) ho).trans (if_pos h0))

theorem mlih (t : Tok) (pd : BitVec 4) (imm : BitVec 16) : Statement (.mlih t pd imm) := by
  obtain ⟨w, e, hb, ho, h0, rfl, rfl, rfl⟩ := shape47 t 0x21 0x0 pd imm (by decide) (by decide)
  exact close (st := .M) rfl e hb ((congrArg (rowMAt · w) ho).trans (if_pos h0))

theorem maddi (t : Tok) (pd : BitVec 4) (pa : BitVec 4) (imm : BitVec 14) : Statement (.maddi t pd pa imm) := by
  obtain ⟨w, e, hb, ho, rfl, rfl, rfl, rfl⟩ := shape48 t 0x22 pd pa imm (by decide)
  exact close (st := .M) rfl e hb ((congrArg (rowMAt · w) ho).trans (rfl))

theorem madd (t : Tok) (pd : BitVec 4) (pa : BitVec 4) (pb : BitVec 4) : Statement (.madd t pd pa pb) := by
  obtain ⟨w, e, hb, ho, h0, rfl, rfl, rfl, rfl⟩ := shape49 t 0x23 0x0 pd pa pb (by decide) (by decide)
  exact close (st := .M) rfl e hb ((congrArg (rowMAt · w) ho).trans (if_pos h0))

theorem mmuli (t : Tok) (pd : BitVec 4) (pa : BitVec 4) (imm : BitVec 14) : Statement (.mmuli t pd pa imm) := by
  obtain ⟨w, e, hb, ho, rfl, rfl, rfl, rfl⟩ := shape48 t 0x24 pd pa imm (by decide)
  exact close (st := .M) rfl e hb ((congrArg (rowMAt · w) ho).trans (rfl))

theorem mlds (t : Tok) (pd : BitVec 4) (pa : BitVec 4) (imm : BitVec 14) : Statement (.mlds t pd pa imm) := by
  obtain ⟨w, e, hb, ho, rfl, rfl, rfl, rfl⟩ := shape48 t 0x25 pd pa imm (by decide)
  exact close (st := .M) rfl e hb ((congrArg (rowMAt · w) ho).trans (rfl))

theorem mloop (t : Tok) (pa : BitVec 4) (off : BitVec 18) : Statement (.mloop t pa off) := by
  obtain ⟨w, e, hb, ho, rfl, rfl, rfl⟩ := shape50 t 0x26 pa off (by decide)
  exact close (st := .M) rfl e hb ((congrArg (rowMAt · w) ho).trans (rfl))

theorem nendM (t : Tok) : Statement (.nendM t) := by
  obtain ⟨w, e, hb, ho, h0, rfl⟩ := shape16 t 0x3F 0x0 (by decide) (by decide)
  exact close (st := .M) rfl e hb ((congrArg (rowMAt · w) ho).trans (if_pos h0))

theorem ccopy1d (t : Tok) (qb : BitVec 4) (slot : BitVec 4) (sl : BitVec 1) (eng : BitVec 3) : Statement (.ccopy1d t qb slot sl eng) := by
  obtain ⟨w, e, hb, ho, h0, rfl, rfl, rfl, rfl, rfl⟩ := shape51 t 0x1 0x0 qb slot sl eng (by decide) (by decide)
  exact close (st := .C) rfl e hb ((congrArg (rowCAt · w) ho).trans (if_pos h0))

theorem ccopy2d (t : Tok) (qb : BitVec 4) (slot : BitVec 4) (sl : BitVec 1) (eng : BitVec 3) : Statement (.ccopy2d t qb slot sl eng) := by
  obtain ⟨w, e, hb, ho, h0, rfl, rfl, rfl, rfl, rfl⟩ := shape51 t 0x2 0x0 qb slot sl eng (by decide) (by decide)
  exact close (st := .C) rfl e hb ((congrArg (rowCAt · w) ho).trans (if_pos h0))

theorem ccopy3d (t : Tok) (qb : BitVec 4) (slot : BitVec 4) (sl : BitVec 1) (eng : BitVec 3) : Statement (.ccopy3d t qb slot sl eng) := by
  obtain ⟨w, e, hb, ho, h0, rfl, rfl, rfl, rfl, rfl⟩ := shape51 t 0x3 0x0 qb slot sl eng (by decide) (by decide)
  exact close (st := .C) rfl e hb ((congrArg (rowCAt · w) ho).trans (if_pos h0))

theorem cgath (t : Tok) (qb : BitVec 4) (slot : BitVec 4) (sl : BitVec 1) (eng : BitVec 3) : Statement (.cgath t qb slot sl eng) := by
  obtain ⟨w, e, hb, ho, h0, rfl, rfl, rfl, rfl, rfl⟩ := shape51 t 0x4 0x0 qb slot sl eng (by decide) (by decide)
  exact close (st := .C) rfl e hb ((congrArg (rowCAt · w) ho).trans (if_pos h0))

theorem cscat (t : Tok) (qb : BitVec 4) (slot : BitVec 4) (sl : BitVec 1) (eng : BitVec 3) : Statement (.cscat t qb slot sl eng) := by
  obtain ⟨w, e, hb, ho, h0, rfl, rfl, rfl, rfl, rfl⟩ := shape51 t 0x5 0x0 qb slot sl eng (by decide) (by decide)
  exact close (st := .C) rfl e hb ((congrArg (rowCAt · w) ho).trans (if_pos h0))

theorem cfill (t : Tok) (qb : BitVec 4) (slot : BitVec 4) (sl : BitVec 1) (eng : BitVec 3) : Statement (.cfill t qb slot sl eng) := by
  obtain ⟨w, e, hb, ho, h0, rfl, rfl, rfl, rfl, rfl⟩ := shape51 t 0x6 0x0 qb slot sl eng (by decide) (by decide)
  exact close (st := .C) rfl e hb ((congrArg (rowCAt · w) ho).trans (if_pos h0))

theorem cradd (t : Tok) (qb : BitVec 4) (slot : BitVec 4) (sl : BitVec 1) (eng : BitVec 3) : Statement (.cradd t qb slot sl eng) := by
  obtain ⟨w, e, hb, ho, h0, rfl, rfl, rfl, rfl, rfl⟩ := shape51 t 0x7 0x0 qb slot sl eng (by decide) (by decide)
  exact close (st := .C) rfl e hb ((congrArg (rowCAt · w) ho).trans (if_pos h0))

theorem cfput (t : Tok) (qb : BitVec 4) (slot : BitVec 4) (sl : BitVec 1) (eng : BitVec 3) : Statement (.cfput t qb slot sl eng) := by
  obtain ⟨w, e, hb, ho, h0, rfl, rfl, rfl, rfl, rfl⟩ := shape51 t 0x8 0x0 qb slot sl eng (by decide) (by decide)
  exact close (st := .C) rfl e hb ((congrArg (rowCAt · w) ho).trans (if_pos h0))

theorem cfget (t : Tok) (qb : BitVec 4) (slot : BitVec 4) (sl : BitVec 1) (eng : BitVec 3) : Statement (.cfget t qb slot sl eng) := by
  obtain ⟨w, e, hb, ho, h0, rfl, rfl, rfl, rfl, rfl⟩ := shape51 t 0x9 0x0 qb slot sl eng (by decide) (by decide)
  exact close (st := .C) rfl e hb ((congrArg (rowCAt · w) ho).trans (if_pos h0))

theorem crs (t : Tok) (qb : BitVec 4) (slot : BitVec 4) (sl : BitVec 1) (eng : BitVec 3) : Statement (.crs t qb slot sl eng) := by
  obtain ⟨w, e, hb, ho, h0, rfl, rfl, rfl, rfl, rfl⟩ := shape51 t 0xA 0x0 qb slot sl eng (by decide) (by decide)
  exact close (st := .C) rfl e hb ((congrArg (rowCAt · w) ho).trans (if_pos h0))

theorem cag (t : Tok) (qb : BitVec 4) (slot : BitVec 4) (sl : BitVec 1) (eng : BitVec 3) : Statement (.cag t qb slot sl eng) := by
  obtain ⟨w, e, hb, ho, h0, rfl, rfl, rfl, rfl, rfl⟩ := shape51 t 0xB 0x0 qb slot sl eng (by decide) (by decide)
  exact close (st := .C) rfl e hb ((congrArg (rowCAt · w) ho).trans (if_pos h0))

theorem carm (t : Tok) (qb : BitVec 4) (eng : BitVec 3) : Statement (.carm t qb eng) := by
  obtain ⟨w, e, hb, ho, h0, h1, rfl, rfl, rfl⟩ := shape52 t 0xC 0x0 0x0 qb eng (by decide) (by decide) (by decide)
  exact close (st := .C) rfl e hb ((congrArg (rowCAt · w) ho).trans (if_pos ⟨h0, h1⟩))

theorem csend (t : Tok) (qa : BitVec 4) (eng : BitVec 3) : Statement (.csend t qa eng) := by
  obtain ⟨w, e, hb, ho, h0, h1, rfl, rfl, rfl⟩ := shape52 t 0xD 0x0 0x0 qa eng (by decide) (by decide) (by decide)
  exact close (st := .C) rfl e hb ((congrArg (rowCAt · w) ho).trans (if_pos ⟨h0, h1⟩))

theorem cfence (t : Tok) : Statement (.cfence t) := by
  obtain ⟨w, e, hb, ho, h0, rfl⟩ := shape16 t 0xE 0x0 (by decide) (by decide)
  exact close (st := .C) rfl e hb ((congrArg (rowCAt · w) ho).trans (if_pos h0))

theorem cpermit (t : Tok) (slot : BitVec 4) (n1 : BitVec 12) : Statement (.cpermit t slot n1) := by
  obtain ⟨w, e, hb, ho, h0, h1, rfl, rfl, rfl⟩ := shape53 t 0xF 0x0 0x0 slot n1 (by decide) (by decide) (by decide)
  exact close (st := .C) rfl e hb ((congrArg (rowCAt · w) ho).trans (if_pos ⟨h0, h1⟩))

theorem qli (t : Tok) (qd : BitVec 4) (imm : BitVec 16) : Statement (.qli t qd imm) := by
  obtain ⟨w, e, hb, ho, h0, rfl, rfl, rfl⟩ := shape47 t 0x20 0x0 qd imm (by decide) (by decide)
  exact close (st := .C) rfl e hb ((congrArg (rowCAt · w) ho).trans (if_pos h0))

theorem qlih (t : Tok) (qd : BitVec 4) (imm : BitVec 16) : Statement (.qlih t qd imm) := by
  obtain ⟨w, e, hb, ho, h0, rfl, rfl, rfl⟩ := shape47 t 0x21 0x0 qd imm (by decide) (by decide)
  exact close (st := .C) rfl e hb ((congrArg (rowCAt · w) ho).trans (if_pos h0))

theorem qaddi (t : Tok) (qd : BitVec 4) (qa : BitVec 4) (imm : BitVec 14) : Statement (.qaddi t qd qa imm) := by
  obtain ⟨w, e, hb, ho, rfl, rfl, rfl, rfl⟩ := shape48 t 0x22 qd qa imm (by decide)
  exact close (st := .C) rfl e hb ((congrArg (rowCAt · w) ho).trans (rfl))

theorem qadd (t : Tok) (qd : BitVec 4) (qa : BitVec 4) (qb : BitVec 4) : Statement (.qadd t qd qa qb) := by
  obtain ⟨w, e, hb, ho, h0, rfl, rfl, rfl, rfl⟩ := shape49 t 0x23 0x0 qd qa qb (by decide) (by decide)
  exact close (st := .C) rfl e hb ((congrArg (rowCAt · w) ho).trans (if_pos h0))

theorem qlds (t : Tok) (qd : BitVec 4) (qa : BitVec 4) (imm : BitVec 14) : Statement (.qlds t qd qa imm) := by
  obtain ⟨w, e, hb, ho, rfl, rfl, rfl, rfl⟩ := shape48 t 0x24 qd qa imm (by decide)
  exact close (st := .C) rfl e hb ((congrArg (rowCAt · w) ho).trans (rfl))

theorem qloop (t : Tok) (qa : BitVec 4) (off : BitVec 18) : Statement (.qloop t qa off) := by
  obtain ⟨w, e, hb, ho, rfl, rfl, rfl⟩ := shape50 t 0x25 qa off (by decide)
  exact close (st := .C) rfl e hb ((congrArg (rowCAt · w) ho).trans (rfl))

theorem nendC (t : Tok) : Statement (.nendC t) := by
  obtain ⟨w, e, hb, ho, h0, rfl⟩ := shape16 t 0x3F 0x0 (by decide) (by decide)
  exact close (st := .C) rfl e hb ((congrArg (rowCAt · w) ho).trans (if_pos h0))

theorem heldPush (core : Nat) (st : Strand) : Statement (.heldPush core st) := event rfl

theorem tokenDeadlock (core : Nat) : Statement (.tokenDeadlock core) := event rfl

theorem trapEntry (core : Nat) (st : Strand) : Statement (.trapEntry core st) := event rfl

theorem handlerStart (core : Nat) : Statement (.handlerStart core) := event rfl

theorem nodeCommit (core : Nat) : Statement (.nodeCommit core) := event rfl

theorem commitAcknowledged (core : Nat) : Statement (.commitAcknowledged core) := event rfl

theorem mPathRetire (core : Nat) (weight : Bool) : Statement (.mPathRetire core weight) := event rfl

theorem planeSwap (core : Nat) : Statement (.planeSwap core) := event rfl

theorem paletteCheckEnd (core : Nat) : Statement (.paletteCheckEnd core) := event rfl

theorem copyAdmission (eng idx : Nat) : Statement (.copyAdmission eng idx) := event rfl

theorem copyStart (eng idx : Nat) : Statement (.copyStart eng idx) := event rfl

theorem copyComplete (eng idx : Nat) : Statement (.copyComplete eng idx) := event rfl

theorem collectiveArrival (port : Nat) (msg : CollMsg) : Statement (.collectiveArrival port msg) := event rfl

theorem counterDelivery (idx : Nat) : Statement (.counterDelivery idx) := event rfl

theorem pendingActionRetry (ctr : Nat) : Statement (.pendingActionRetry ctr) := event rfl

theorem acwaitPoll (core : Nat) : Statement (.acwaitPoll core) := event rfl

theorem counterDisarm (ctr : Nat) : Statement (.counterDisarm ctr) := event rfl

theorem walkPrefetchComplete (stack ctx point : Nat) : Statement (.walkPrefetchComplete stack ctx point) := event rfl

theorem allocateNode (stack : Nat) : Statement (.allocateNode stack) := event rfl

theorem lateFieldResolve (part queue : Nat) : Statement (.lateFieldResolve part queue) := event rfl

theorem launchStart (part : Nat) : Statement (.launchStart part) := event rfl

theorem launchComplete (part launch : Nat) : Statement (.launchComplete part launch) := event rfl

theorem preempt (part : Nat) (value : BitVec 64) : Statement (.preempt part value) := event rfl

theorem release (part : Nat) (value : BitVec 64) : Statement (.release part value) := event rfl

theorem nodeSaveComplete (core : Nat) : Statement (.nodeSaveComplete core) := event rfl

theorem saveTimeout (core : Nat) : Statement (.saveTimeout core) := event rfl

theorem nodeRestore (part core : Nat) : Statement (.nodeRestore part core) := event rfl

theorem go (part : Nat) (value : BitVec 64) : Statement (.go part value) := event rfl

theorem rangeTableActivation (part : Nat) : Statement (.rangeTableActivation part) := event rfl

theorem migcmd (value : BitVec 64) : Statement (.migcmd value) := event rfl

theorem migrationCopy  : Statement (.migrationCopy) := event rfl

theorem migrationRedirect  : Statement (.migrationRedirect) := event rfl

theorem migrationReplay  : Statement (.migrationReplay) := event rfl

theorem solveIterationComplete (stack : Nat) (order : List Nat) : Statement (.solveIterationComplete stack order) := event rfl

theorem solveDeadline (stack : Nat) : Statement (.solveDeadline stack) := event rfl

theorem solveVerifyProduct (stack : Nat) (order : List Nat) : Statement (.solveVerifyProduct stack order) := event rfl

theorem solveFinish (stack : Nat) : Statement (.solveFinish stack) := event rfl

theorem pacqGrant (stack : Nat) : Statement (.pacqGrant stack) := event rfl

theorem allotmentUpdate  : Statement (.allotmentUpdate) := event rfl

theorem capw (value : BitVec 64) : Statement (.capw value) := event rfl

theorem halt  : Statement (.halt) := event rfl

theorem thermalThrottle (stack temp : Nat) : Statement (.thermalThrottle stack temp) := event rfl

theorem thermalHalt (stack temp : Nat) : Statement (.thermalHalt stack temp) := event rfl

theorem thermalPowerOff (stack temp : Nat) : Statement (.thermalPowerOff stack temp) := event rfl

theorem rollback (core : Nat) (st : Strand) : Statement (.rollback core st) := event rfl

theorem controlDivergence (core : Nat) (st : Strand) : Statement (.controlDivergence core st) := event rfl

theorem accumulatorScrub (core tile : Nat) : Statement (.accumulatorScrub core tile) := event rfl

theorem memoryScrub (site : ScrubSite) (uncorrectable : Bool) : Statement (.memoryScrub site uncorrectable) := event rfl

theorem hostMemoryRead (addr len : Nat) : Statement (.hostMemoryRead addr len) := event rfl

theorem hostMemoryWrite (addr : Nat) (bytes : List (Option (BitVec 8))) : Statement (.hostMemoryWrite addr bytes) := event rfl

theorem hostLineRequest (addr : Nat) : Statement (.hostLineRequest addr) := event rfl

theorem backInvalidateSnoop (line : Nat) (bytes : List (Option (BitVec 8))) : Statement (.backInvalidateSnoop line bytes) := event rfl

theorem inboundFabricRequest (off : Nat) (req : FabricReq) : Statement (.inboundFabricRequest off req) := event rfl

theorem fabricCompletionTimeout (eng idx : Nat) : Statement (.fabricCompletionTimeout eng idx) := event rfl

theorem completerAbort (eng idx : Nat) : Statement (.completerAbort eng idx) := event rfl

theorem linkTraining (port : Nat) (partner : LinkPartner) : Statement (.linkTraining port partner) := event rfl

theorem linkDown (port : Nat) (inFlight : List (Nat × Nat)) : Statement (.linkDown port inFlight) := event rfl

theorem laneFailure (port : Nat) (width : BitVec 2) : Statement (.laneFailure port width) := event rfl

theorem pwid (port : Nat) (value : BitVec 64) : Statement (.pwid port value) := event rfl

theorem widthChangeComplete (port : Nat) : Statement (.widthChangeComplete port) := event rfl

theorem inbpWrite (p : Nat) (value : BitVec 64) : Statement (.inbpWrite p value) := event rfl

theorem eqbaseWrite (n : Nat) (value : BitVec 64) : Statement (.eqbaseWrite n value) := event rfl

theorem telemetryEnableWrite (p off : Nat) (value : BitVec 64) : Statement (.telemetryEnableWrite p off value) := event rfl

theorem counterDump (p : Nat) : Statement (.counterDump p) := event rfl

theorem traceSample (core : Nat) (st : Strand) : Statement (.traceSample core st) := event rfl

theorem snapshotTrigger (p : Nat) (source : BitVec 8) : Statement (.snapshotTrigger p source) := event rfl

theorem snapshotWriteOut (p : Nat) : Statement (.snapshotWriteOut p) := event rfl

theorem snaprel (w : SnapRelease) : Statement (.snaprel w) := event rfl

theorem controlRegisterWrite (fn : HostFn) (addr : Nat) (value : BitVec 64) : Statement (.controlRegisterWrite fn addr value) := event rfl

theorem powerOnBringUp : Statement .powerOnBringUp := event rfl

theorem resetBoot  : Statement (.resetBoot) := event rfl

theorem pldmFirmwareUpdate (image : FlashImage) : Statement (.pldmFirmwareUpdate image) := event rfl

theorem pldmMonitoring (cmd : PldmCmd) : Statement (.pldmMonitoring cmd) := event rfl

theorem spdmMeasurements  : Statement (.spdmMeasurements) := event rfl

theorem spareCore (core : Nat) : Statement (.spareCore core) := event rfl

theorem rowSparing (row : Nat) : Statement (.rowSparing row) := event rfl

theorem channelRetirement (chan : Nat) : Statement (.channelRetirement chan) := event rfl

theorem objectLoad (part : Nat) (req : LoadRequest) : Statement (.objectLoad part req) := event rfl

theorem memoryAccessComplete (core : Nat) (st : Strand) : Statement (.memoryAccessComplete core st) := event rfl

end RoundTrip
end Sys2Proof.Laws
end

