-- ==== Sys2Proof/Laws/Retire.lean ====
section
/-! SUPPORT. An instruction that pops, changes registers and retires: what its next state keeps (R65, R128). -/

namespace Sys2Proof.Machine

theorem Core.tokens_push_other (k : Core) (st : Strand) (code : BitVec 2) (pc : Word) (cyc n : Nat)
    (h : code ≠ 0 → n ≠ pushFifo st code) : (k.push st code pc cyc).tokens n = k.tokens n := by
  unfold Core.push
  split
  · rfl
  · rename_i hc
    dsimp only
    split
    · exact Core.tokens_pushInto_other _ (h hc).symm
    · rfl

theorem State.tokens_retire (s : State) (st : Strand) (t : Tok) (pc : Word) (n : Nat)
    (h : t.push ≠ 0 → n ≠ pushFifo st t.push) : (s.retire st t pc).me.tokens n = s.me.tokens n := by
  rw [State.me_retire, Core.tokens_push_other _ _ _ _ _ _ h]
  rfl

theorem State.tokens_pop {s s1 : State} {st : Strand} {t : Tok} (h : s.popTok st t = some s1) (n : Nat)
    (hn : t.pop ≠ 0 → n ≠ popFifo st t.pop) : s1.me.tokens n = s.me.tokens n := by
  unfold State.popTok at h
  split at h
  · cases h; rfl
  · rename_i hc
    split at h
    · cases h; rfl
    · dsimp only at h
      split at h
      case isFalse => cases h
      · cases h
        simp only [State.me_updMe, Core.tokens_updStrand]
        exact Core.tokens_popFrom_other _ (hn hc).symm

/-- A pop, then a change of the core that leaves strands and tokens alone, then retirement. -/
theorem State.Retired.of_pop {s s1 s2 : State} {st : Strand} {t : Tok} (pc : Word) (h : s.popTok st t = some s1)
    (hs : s2.me.strands = s1.me.strands) (ht : s2.me.tk = s1.me.tk) : s.Retired (s2.retire st t pc) st t pc where
  pc := State.me_retire_pc _ _ _ _
  others x hx := by
    rw [State.me_retire_other _ _ _ hx.symm, ← (State.me_pop h).2.1 x hx]
    simp only [Core.strand, hs]
  tokens n h1 h2 := by
    rw [State.tokens_retire _ _ _ _ _ h2, ← State.tokens_pop h n h1]
    simp only [Core.tokens, ht]

theorem State.SameStore.of_core {s u : State} (ho : s.OnlyCore u)
    (hw : u.me.window = s.me.window) (hn : u.me.node = s.me.node) : s.SameStore u where
  mem a := by rw [ho.rest]
  poison := by rw [ho.rest]
  window a := by rw [hw]
  staged := by rw [hn]

/-- A pop changes no scalar register. -/
theorem State.getX_pop {s s1 : State} {st : Strand} {t : Tok} (h : s.popTok st t = some s1) (r : BitVec 5) :
    s1.me.getX r = s.me.getX r := by
  rw [(State.me_pop h).1]; rfl

/-- A scalar instruction that takes no access: xd takes its value, the strand goes on, and nothing else of the machine
differs (R128, R129). -/
theorem issueX_done {i : Instr} {t : Tok} {xd : BitVec 5} {f : Core → Word} {s s1 : State} {v : Word}
    (h : s.Issues .S t s1) (hf : f s1.me = v) :
    ∃ u, Host.Outcome.next (φ := Fault) (ρ := Refusal) (issueX i t xd f s) = .next u ∧
      s.Retired u .S t ((s.me.strand .S).pc + 4) ∧ s.OnlyCore u ∧ s.SameStore u ∧
      s.me.OnlyX u.me ∧ (∀ r, r ≠ xd → u.me.getX r = s.me.getX r) ∧ (xd ≠ 0 → u.me.getX xd = v) := by
  refine ⟨_, rfl, ?_⟩
  have hm := State.me_pop h.popped
  unfold issueX
  rw [issue_done h rfl rfl]
  generalize hs2 : s1.updMe (fun k => k.setX xd (f k)) = s2
  have h2 : s2.me = s1.me.setX xd v := by subst hs2; simp [hf]
  have hpc : s2.me.pc4 .S = (s.me.strand .S).pc + 4 := by simp [Core.pc4, h2, hm.2.2.1]
  have ho : s.OnlyCore (s2.retireNext .S t) := by
    subst hs2
    exact (State.OnlyCore.pop h.popped).trans ((State.OnlyCore.updMe _ _).trans (State.OnlyCore.retireNext _ _ _))
  unfold State.retireNext at *
  rw [hpc] at *
  have he := State.me_retire_eq s2 .S t ((s.me.strand .S).pc + 4)
  have hx : ∀ r, (s2.retire .S t ((s.me.strand .S).pc + 4)).me.getX r = s2.me.getX r := by
    intro r; rw [he]; rfl
  have hg : ∀ r, s1.me.getX r = s.me.getX r := State.getX_pop h.popped
  refine ⟨.of_pop _ h.popped (by rw [h2]; simp) (by rw [h2]; simp), ho, .of_core ho ?_ ?_, ?_, ?_, ?_⟩
  · rw [he, h2, hm.1]; simp
  · rw [he, h2, hm.1]; simp
  · unfold Core.OnlyX
    rw [he, h2, hm.1]; unfold Core.setX; split <;> rfl
  · intro r hr; rw [hx, h2, Core.getX_setX_other _ _ (Ne.symm hr), hg]
  · intro hxd; rw [hx, h2, Core.getX_setX_same _ _ hxd]

/-- An effect that changes registers and retires (R128). -/
theorem State.leaves_of_pop {s s1 : State} {st : Strand} {t : Tok} (h : s.popTok st t = some s1) (g : Core → Core)
    (hg : ∀ (k : Core) tk strands popped, g { k with tk := tk, strands := strands, now := { k.now with popped := popped } } =
      { g k with tk := tk, strands := strands, now := { (g k).now with popped := popped } }) :
    s.Leaves ((s1.updMe g).retireNext st t) st t ((s.me.strand st).pc + 4) (g s.me) := by
  have hm := State.me_pop h
  have e : g s1.me = { g s.me with tk := s1.me.tk, strands := s1.me.strands, now := { (g s.me).now with popped := s1.me.now.popped } } := by
    rw [hm.1]; exact hg _ _ _ _
  have hs : (s1.updMe g).me.strands = s1.me.strands := by rw [State.me_updMe, e]
  have ht : (s1.updMe g).me.tk = s1.me.tk := by rw [State.me_updMe, e]
  have hpc : (s1.updMe g).me.pc4 st = (s.me.strand st).pc + 4 := by
    unfold Core.pc4; rw [← hm.2.2.1]; unfold Core.strand; rw [hs]
  unfold State.retireNext
  rw [hpc]
  refine ⟨.of_pop _ h hs ht, ?_, (State.OnlyCore.pop h).trans ((State.OnlyCore.updMe _ _).trans (State.OnlyCore.retire _ _ _ _))⟩
  rw [State.me_retire_eq, State.me_updMe, e]

end Sys2Proof.Machine
end

