-- ==== Sys2Proof/Laws/Settle.lean ====
section
/-! SUPPORT. What the operations that settle a turn can do: records that are due, nodes that are to end, the poison register,
the marks of a masked write, and a line that a cache asks for. -/

namespace Sys2Proof.Machine

/-- A record that is reported is due, and nothing else changes (R444). -/
theorem State.report_due (s : State) (p : Nat) (e : ErrRec) :
    s.report p e = { s with due := s.due ++ [{ part := p, gtc := s.gtc, err := e }] } := rfl

/-- With no record due none enters its queue. -/
theorem State.enterDue_nil {s : State} (h : s.due = []) : s.enterDue = s := by
  cases s
  simp only at h
  subst h
  rfl

/-- A node that nothing is to end stays (R284). -/
theorem State.endStopped_none {s : State} {c : Nat} (h : (s.coreAt c).node.ending = none) : s.endStopped c = s := by
  simp [State.endStopped, h]

/-- A node whose gang has a strand on its way to a boundary stays for now (R278, R284). -/
theorem State.endStopped_moving {s : State} {c : Nat} (h : (s.gangOf c).all s.atRest = false) : s.endStopped c = s := by
  simp [State.endStopped, h]

/-- A node that no discard asks for runs on as it is (R385). -/
theorem Core.runOn_none {k : Core} (h : k.node.ending = none) : k.runOn = k := by
  simp [Core.runOn, h]

/-- A write of the poison register changes VSTAT's fields, PSNA and the note of the cycle alone (R27, R61, R176). -/
theorem Core.notePoison_rest (k : Core) (st : Strand) (space : BitVec 2) (addr : Nat) :
    k.notePoison st space addr = { k with psna := (k.notePoison st space addr).psna, psns := (k.notePoison st space addr).psns,
                                          psnv := (k.notePoison st space addr).psnv, now := (k.notePoison st space addr).now } := by
  cases st <;> simp only [Core.notePoison, Core.setPoison] <;> split <;> rfl

/-- The M strand's write of the poison register stands against an earlier strand's of the cycle (R176). -/
theorem Core.notePoison_after_M {k : Core} (h : k.now.mPoison = true) (space : BitVec 2) (addr : Nat) :
    k.notePoison .S space addr = k ∧ k.notePoison .V space addr = k := by
  simp [Core.notePoison, h]

/-- A masked write clears the mark of a sector that it covers with every byte, and of no other (R435). -/
theorem mem_clearMasked (marks : List Nat) (a : Nat) (bytes : List (Option Byte)) (x : Nat) :
    x ∈ clearMasked marks a bytes ↔
      x ∈ marks ∧ ¬ (coversSector a bytes.length x = true ∧ ((bytes.drop (16 * x - a)).take 16).all Option.isSome = true) := by
  simp only [clearMasked, List.mem_filter, Bool.not_eq_true', Bool.and_eq_false_imp, Bool.not_eq_true, not_and]

/-- A line that a core's caches hold may come in and is not asked for again (R415, R417). -/
theorem State.askLine_cached {s : State} {c line : Nat} (h : s.cachedBy c line = true) :
    s.admits c line = true ∧ s.askLine c line = s := by
  simp [State.admits, State.askLine, h]

end Sys2Proof.Machine
end

