-- ==== Sys2Proof/Laws/Space.lean ====
section
/-! SUPPORT. What the shared operations over memory's surroundings can do: a recall of what the host holds, a queue that an
access joins, the caches, the port that traffic takes, and the cycles that pass before a turn. -/

namespace Sys2Proof.Machine

/-- A message leaves by its port, waits at it, or is lost with its link: the traffic sent and the ports alone change (R426,
R427). -/
theorem State.send_rest (s : State) (m : OutMsg) :
    s.send m = { s with sent := (s.send m).sent, ports := (s.send m).ports } := by
  unfold State.send
  split
  · rfl
  · dsimp only
    split
    · rfl
    · split <;> rfl

/-- A message leaves at once by a port that is up and keeps its width. -/
theorem State.send_clear (s : State) {m : OutMsg} {n : Nat} (h : m.port? = some n) (hu : (s.ports.get n Port.reset).up = true)
    (hc : (s.ports.get n Port.reset).chg = false) : s.send m = { s with sent := s.sent ++ [m] } := by
  simp [State.send, h, hu, hc]

/-- Nothing leaves by a port whose link is down (R427). -/
theorem State.send_down (s : State) {m : OutMsg} {n : Nat} (h : m.port? = some n) (hu : (s.ports.get n Port.reset).up = false) :
    s.send m = s := by
  simp [State.send, h, hu]

/-- Ordered traffic changes besides the port that its window keeps (R417, R427). -/
theorem State.sendOrdered_rest (s : State) (w : Nat) (m : OutMsg) :
    s.sendOrdered w m =
      { s with sent := (s.sendOrdered w m).sent, ports := (s.sendOrdered w m).ports, onPort := (s.sendOrdered w m).onPort } := by
  unfold State.sendOrdered
  rw [State.send_rest]

/-- What a recall may change: memory and its marks, the ownership of lines, the host directory, the traffic that leaves, and
the counting of the bytes that came back. -/
structure State.Recalled (s t : State) : Prop where
  rest : t = { s with mem := t.mem, poison := t.poison, owners := t.owners, hostDir := t.hostDir, sent := t.sent, ports := t.ports,
                      deliveries := t.deliveries, parts := t.parts }
  wf   : s.mem.wf = true → t.mem.wf = true

theorem State.Recalled.refl (s : State) : s.Recalled s := ⟨rfl, id⟩

theorem State.Recalled.trans {a b c : State} (h : a.Recalled b) (g : b.Recalled c) : a.Recalled c where
  rest := by have := g.rest; rw [h.rest] at this; exact this
  wf := g.wf ∘ h.wf

/-- A delivery waits to be counted, or counts as foreign (R333, R334). -/
theorem State.deliver_rest (s : State) (p line n : Nat) :
    s.deliver p line n = { s with deliveries := (s.deliver p line n).deliveries, parts := (s.deliver p line n).parts } := by
  unfold State.deliver
  split
  · rfl
  · split
    · rfl
    · split
      · rfl
      · unfold State.count; rw [State.countN_parts]

theorem State.Recalled.deliver (s : State) (p line n : Nat) : s.Recalled (s.deliver p line n) where
  rest := by rw [State.deliver_rest]
  wf h := by rw [State.deliver_rest]; exact h

/-- Bytes put into memory under a mask, with new owners and marks. -/
theorem State.Recalled.put (s : State) (pa : Nat) (bytes : List (Option Byte)) (o : Table Nat) (l : List Nat) :
    s.Recalled { s with mem := s.mem.writeMasked pa bytes, owners := o, poison := l } := ⟨rfl, Memory.wf_writeMasked _ _⟩

theorem State.Recalled.send (s : State) (m : OutMsg) : s.Recalled (s.send m) where
  rest := by rw [State.send_rest]
  wf h := by rw [State.send_rest]; exact h

theorem State.mem_deliver (s : State) (p line n : Nat) : (s.deliver p line n).mem = s.mem := by rw [State.deliver_rest]

theorem State.Recalled.hostData (s : State) (p line : Nat) (dirty : List (Nat × Byte)) : s.Recalled (s.hostData p line dirty) := by
  refine foldl_keeps State.Recalled .refl .trans _ (fun a i => ?_) _ s
  dsimp only
  split
  · exact .refl a
  · exact (State.Recalled.put a _ _ _ _).trans (.deliver _ _ _ _)

theorem State.Recalled.hostBack (s : State) (line : Nat) : s.Recalled (s.hostBack line) := by
  unfold State.hostBack
  split
  · exact (show s.Recalled { s with hostDir := s.hostDir.filter (fun x => x.line != line) } from ⟨rfl, id⟩).trans (.hostData _ _ _ _)
  · exact .refl s

/-- A recall of one line (R420). -/
theorem State.Recalled.recall (s : State) (line : Nat) : s.Recalled (s.recall line) := by
  unfold State.recall
  split
  · exact (State.Recalled.send _ _).trans (.hostBack _ _)
  · exact .refl s

theorem State.Recalled.recallBytes (s : State) (pa n : Nat) : s.Recalled (s.recallBytes pa n) := by
  unfold State.recallBytes
  split
  · exact .refl s
  · exact foldl_keeps State.Recalled .refl .trans _ State.Recalled.recall _ s

theorem State.Recalled.recallPlace (s : State) (n : Nat) (q : Place) : s.Recalled (s.recallPlace n q) := by
  cases q <;> first | exact State.Recalled.recallBytes _ _ _ | exact .refl s

/-- Without a line at the host nothing is recalled. -/
@[simp] theorem State.recallBytes_none (s : State) (pa n : Nat) (h : s.hostDir = []) : s.recallBytes pa n = s := by
  simp [State.recallBytes, h]

@[simp] theorem State.recallPlace_none (s : State) (n : Nat) (q : Place) (h : s.hostDir = []) : s.recallPlace n q = s := by
  cases q <;> simp [State.recallPlace, h]

theorem State.recall_other (s : State) (line : Nat) (h : ∀ x ∈ s.hostDir, x.line ≠ line) : s.recall line = s := by
  unfold State.recall
  rw [if_neg (by simpa using h)]

/-- The bytes that come back with a recalled line lie in that line. -/
theorem State.read_hostData (s : State) (p line : Nat) (dirty : List (Nat × Byte)) {a : Nat} (h : a / 128 ≠ line) :
    (s.hostData p line dirty).mem.read a = s.mem.read a := by
  have step : ∀ (l : List Nat), (∀ i ∈ l, i < 8) → ∀ t : State,
      (l.foldl (fun a i =>
        let bytes := (List.range 16).map (fun j => (dirty.find? (fun e => e.1 == 16 * i + j)).map (·.2))
        let n := (bytes.filter Option.isSome).length
        if n = 0 then a
        else State.deliver { a with mem := a.mem.writeMasked (128 * line + 16 * i) bytes, owners := a.owners.erase line,
                                    poison := if n = 16 then setErase a.poison ((128 * line + 16 * i) / 16) else a.poison }
          p line n) t).mem.read a = t.mem.read a := by
    intro l
    induction l with
    | nil => intros; rfl
    | cons i l ih =>
      intro hl t
      rw [List.foldl_cons, ih (fun j hj => hl j (List.mem_cons_of_mem _ hj))]
      have hi := hl i List.mem_cons_self
      dsimp only
      split
      · rfl
      · rw [State.mem_deliver]
        exact Memory.read_writeMasked_other _ _ _ (by simp only [List.length_map, List.length_range]; omega)
  exact step (List.range 8) (fun i hi => by simpa using hi) s

theorem State.read_recall (s : State) (line : Nat) {a : Nat} (h : a / 128 ≠ line) :
    (s.recall line).mem.read a = s.mem.read a := by
  have hs : (s.send (.recall line)).mem = s.mem := by rw [State.send_rest]
  unfold State.recall
  split
  · unfold State.hostBack
    split
    · rw [State.read_hostData _ _ _ _ h]; exact congrArg (·.read a) hs
    · rw [hs]
  · rfl

/-- An access that joins a queue changes that queue alone, and the port that its window keeps (R383, R426, R427). -/
theorem State.join_rest (s : State) (x : Held) (g : Gate) :
    s.join x g = { s with migration := (s.join x g).migration, ports := (s.join x g).ports, onPort := (s.join x g).onPort } := by
  cases g <;> simp only [State.join] <;> (try split) <;> rfl

/-- The device's own access at a page under migration changes the migration's queues alone. -/
theorem State.joinPage_rest (s : State) (x : Held) : s.joinPage x = { s with migration := (s.joinPage x).migration } := rfl

theorem State.joinPage_le (s : State) (x : Held) (h : s.migration.queue.length ≤ 256) :
    (s.joinPage x).migration.queue.length ≤ 256 := by
  simp only [State.joinPage]
  split
  · simp; omega
  · exact h

/-- What a read asks for of its home (R415, R417). -/
theorem State.askHome_rest (s : State) (pa n : Nat) :
    s.askHome pa n = { s with sent := (s.askHome pa n).sent, ports := (s.askHome pa n).ports, onPort := (s.askHome pa n).onPort } := by
  unfold State.askHome
  split
  · rfl
  · split
    · rw [State.send_rest]
    · exact State.sendOrdered_rest _ _ _

/-- What a read asks for at a place: a recall, or a request to its home. -/
structure State.Asked (s t : State) : Prop where
  rest : t = { s with mem := t.mem, poison := t.poison, owners := t.owners, hostDir := t.hostDir, sent := t.sent, ports := t.ports,
                      onPort := t.onPort, deliveries := t.deliveries, parts := t.parts }
  wf   : s.mem.wf = true → t.mem.wf = true

theorem State.Asked.refl (s : State) : s.Asked s := ⟨rfl, id⟩

theorem State.Asked.trans {a b c : State} (h : a.Asked b) (g : b.Asked c) : a.Asked c where
  rest := by have := g.rest; rw [h.rest] at this; exact this
  wf := g.wf ∘ h.wf

theorem State.Recalled.asked {s t : State} (h : s.Recalled t) : s.Asked t := ⟨by rw [h.rest], h.wf⟩

theorem State.Asked.askHome (s : State) (pa n : Nat) : s.Asked (s.askHome pa n) where
  rest := by rw [State.askHome_rest]
  wf h := by rw [State.askHome_rest]; exact h

theorem State.Asked.askPlace (s : State) (c n : Nat) (q : Place) : s.Asked (s.askPlace c n q) := by
  cases q
  case dram pa => exact (State.Recalled.recallBytes s pa n).asked
  case host pa | pool pa => simp only [State.askPlace]; split; exact .refl s; exact .askHome s pa n
  all_goals exact .refl s

theorem State.Asked.askPlaces (s : State) (c : Nat) (l : List Place) : s.Asked (s.askPlaces c l) :=
  foldl_keeps State.Asked .refl .trans _ (fun a q => .askPlace a c 128 q) _ s

/-- A read of device memory of which the host holds no line asks for nothing. -/
@[simp] theorem State.askPlace_dram_none (s : State) (c n pa : Nat) (h : s.hostDir = []) : s.askPlace c n (.dram pa) = s :=
  State.recallBytes_none s pa n h

@[simp] theorem State.askPlace_scratch (s : State) (c n off : Nat) : s.askPlace c n (.scratch off) = s := rfl
@[simp] theorem State.askPlace_window (s : State) (c n d off : Nat) : s.askPlace c n (.window d off) = s := rfl
@[simp] theorem State.askPlace_peer (s : State) (c n pa : Nat) : s.askPlace c n (.peer pa) = s := rfl

/-- A queue at a page never passes 256 accesses. -/
theorem State.join_page_le (s : State) (x : Held) (g : Gate) (h : s.migration.queue.length ≤ 256) :
    (s.join x g).migration.queue.length ≤ 256 := by
  cases g <;> simp only [State.join]
  · exact h
  · split
    · simp; omega
    · exact h
  · split <;> exact h

/-- A line put into a cache leaves no more lines than the cache holds. -/
theorem cachePut_length_le (cap : Nat) (l : List Nat) (x : Nat) : (cachePut cap l x).length ≤ cap := by
  simp only [cachePut, List.length_drop]; omega

/-- A fill asked for changes the fills alone (R146, R147). -/
theorem State.askFill_rest (s : State) (c line : Nat) : s.askFill c line = { s with fills := (s.askFill c line).fills } := by
  unfold State.askFill
  split
  · split <;> rfl
  · rfl

/-- A line put into a cache is there, where the cache holds any. -/
theorem mem_cachePut {cap : Nat} (h : 0 < cap) (l : List Nat) (x : Nat) : x ∈ cachePut cap l x := by
  simp only [cachePut, List.length_append, List.length_singleton]
  rw [List.drop_append_of_le_length (by omega)]
  simp

/-- Caches and the snoop filter alone change where a line of pooled memory is tracked (R421). -/
theorem State.track_rest (s : State) (line : Nat) :
    s.track line = { s with cores := (s.track line).cores, owners := (s.track line).owners, l2 := (s.track line).l2,
                            snoop := (s.track line).snoop } := by
  unfold State.track
  split
  · rfl
  · dsimp only; split <;> rfl

/-- Nothing of device memory is tracked. -/
theorem State.track_device (s : State) {line : Nat} (h : 128 * line < 0x100000000000) : s.track line = s := by
  simp [State.track, h]

/-- A lease changes the caches, their ownerships and the snoop filter alone, and so does an atomic's ownership (R288, R421). -/
theorem State.putL1_rest (s : State) (c line : Nat) :
    s.putL1 c line = { s with cores := (s.putL1 c line).cores, owners := (s.putL1 c line).owners, l2 := (s.putL1 c line).l2,
                              snoop := (s.putL1 c line).snoop } := by
  unfold State.putL1 State.pruneSnoop
  dsimp only
  rw [State.track_rest]
  rfl

theorem State.lease_rest (s : State) (c line : Nat) :
    s.lease c line = { s with cores := (s.lease c line).cores, owners := (s.lease c line).owners, l2 := (s.lease c line).l2,
                              snoop := (s.lease c line).snoop } := by
  unfold State.lease
  split
  · rfl
  · rw [State.putL1_rest]

theorem State.own_rest (s : State) (c line : Nat) :
    s.own c line = { s with cores := (s.own c line).cores, owners := (s.own c line).owners, l2 := (s.own c line).l2,
                            snoop := (s.own c line).snoop } := by
  unfold State.own
  dsimp only
  rw [State.putL1_rest]

/-- After an atomic its core owns the line (R149, R288). -/
theorem State.owners_own (s : State) (c line d : Nat) : (s.own c line).owners.get line d = c := by
  simp [State.own]

/-- A line under a lease is in the core's L1. -/
theorem State.l1_lease (s : State) (c line : Nat) : line ∈ ((s.lease c line).coreAt c).l1 := by
  unfold State.lease
  split
  · rename_i h; simpa using h
  · simp only [State.putL1, State.pruneSnoop, State.updCore, State.coreAt, State.setCore, Table.get_set_same]
    exact mem_cachePut (cap := l1Lines) (by decide) _ _

/-- The port that UIO traffic takes is one of the window's (R417). -/
theorem State.uioPort_mem (s : State) (w n : Nat) (h : s.uioPort w = some n) : n ∈ s.windowPorts w := by
  have pick : ∀ (f : Nat → Nat) (l : List Nat) (b : Option Nat) (m : Nat),
      l.foldl (fun b n => match b with
        | some m => if f n < f m then some n else some m
        | none => some n) b = some m → b = some m ∨ m ∈ l := by
    intro f l
    induction l with
    | nil => intro b m h; exact .inl h
    | cons a l ih =>
      intro b m h
      rcases ih _ _ h with h | h
      · cases b with
        | none => cases h; exact .inr List.mem_cons_self
        | some x =>
          dsimp only at h
          split at h
          · cases h; exact .inr List.mem_cons_self
          · exact .inl h
      · exact .inr (List.mem_cons_of_mem _ h)
  rcases pick _ _ _ _ h with h | h
  · cases h
  · split at h
    · exact h
    · exact List.mem_of_mem_filter h

/-- A turn that names cycles waits for them; one that names none waits for one at most (log 66). -/
theorem State.waitOf_of_ne (s : State) (t : Turn) (h : t.wait ≠ 0) : s.waitOf t = t.wait := by
  simp [State.waitOf, h]

theorem State.waitOf_le (s : State) (t : Turn) : s.waitOf t ≤ max t.wait 1 := by
  unfold State.waitOf; dsimp only; generalize (!_ : Bool) = b; split <;> omega

end Sys2Proof.Machine
end

