-- ==== Sys2Proof/Laws/Trap.lean ====
section
/-! SUPPORT. Taking a trap (R281): what it writes and what it keeps. -/

namespace Sys2Proof.Machine

theorem Core.SameData.refl (k : Core) : k.SameData k := by constructor <;> rfl

theorem Core.SameData.trans {a b c : Core} (h : a.SameData b) (g : b.SameData c) : a.SameData c where
  x := g.x.trans h.x
  v := g.v.trans h.v
  masks := g.masks.trans h.masks
  p := g.p.trans h.p
  q := g.q.trans h.q
  tiles := g.tiles.trans h.tiles
  live := g.live.trans h.live
  shadow := g.shadow.trans h.shadow
  handles := g.handles.trans h.handles
  pals := g.pals.trans h.pals
  window := g.window.trans h.window
  twin := g.twin.trans h.twin
  bands := g.bands.trans h.bands
  lsc := g.lsc.trans h.lsc
  srseed := g.srseed.trans h.srseed
  ovf := g.ovf.trans h.ovf
  psna := g.psna.trans h.psna
  grant := g.grant.trans h.grant
  lslt := g.lslt.trans h.lslt
  tvec := g.tvec.trans h.tvec

/-- A change that touches only strands, tokens, latches, the chain record, the pending request and what the cycle has
seen. -/
def Core.Quiet (k u : Core) : Prop :=
  u = { k with tk := u.tk, strands := u.strands, lat := u.lat, chain := u.chain, pend := u.pend, now := u.now }

theorem Core.Quiet.refl (k : Core) : k.Quiet k := rfl

theorem Core.Quiet.trans {a b c : Core} (h : a.Quiet b) (g : b.Quiet c) : a.Quiet c := by
  unfold Core.Quiet at *
  rw [h] at g
  exact g

theorem Core.Quiet.returnToken (k : Core) (st : Strand) : k.Quiet (k.returnToken st) := by
  unfold Core.returnToken
  dsimp only
  split <;> rfl

theorem Core.Quiet.updStrand (k : Core) (st : Strand) (f : StrandSt → StrandSt) : k.Quiet (k.updStrand st f) := rfl

theorem Core.Quiet.clearLatches (k : Core) : k.Quiet k.clearLatches := rfl

/-- What stays through the freezing of strands. -/
structure State.TrapKeeps (s u : State) : Prop where
  core : u.core = s.core
  mem : u.mem = s.mem
  data : s.me.SameData u.me
  tcause : u.me.tcause = s.me.tcause
  tval : u.me.tval = s.me.tval
  tepc : u.me.tepc = s.me.tepc
  psup : u.me.psup = s.me.psup
  sup : u.me.sup = s.me.sup
  node : u.me.node = s.me.node

theorem State.TrapKeeps.refl (s : State) : s.TrapKeeps s := ⟨rfl, rfl, .refl _, rfl, rfl, rfl, rfl, rfl, rfl⟩

theorem State.TrapKeeps.trans {a b c : State} (h : a.TrapKeeps b) (g : b.TrapKeeps c) : a.TrapKeeps c :=
  ⟨g.core.trans h.core, g.mem.trans h.mem, h.data.trans g.data, g.tcause.trans h.tcause, g.tval.trans h.tval,
    g.tepc.trans h.tepc, g.psup.trans h.psup, g.sup.trans h.sup, g.node.trans h.node⟩

theorem State.TrapKeeps.updMe (s : State) (f : Core → Core) (h : s.me.Quiet (f s.me)) : s.TrapKeeps (s.updMe f) := by
  unfold Core.Quiet at h
  refine ⟨rfl, rfl, ?_, ?_, ?_, ?_, ?_, ?_, ?_⟩ <;> rw [State.me_updMe, h]
  constructor <;> rfl

theorem State.TrapKeeps.returnToken (s : State) (st : Strand) : s.TrapKeeps (s.updMe (fun k => k.returnToken st)) :=
  .updMe _ _ (.returnToken _ _)

theorem State.TrapKeeps.abandonWait (s : State) (st : Strand) : s.TrapKeeps (s.abandonWait st) := by
  unfold State.abandonWait
  dsimp only
  split
  case h_6 =>
    refine State.TrapKeeps.trans (b := s.withdrawPacq s.core) ⟨rfl, rfl, .refl _, rfl, rfl, rfl, rfl, rfl, rfl⟩ ?_
    exact .updMe _ _ (((Core.Quiet.returnToken _ _).trans (.updStrand _ _ _)).trans rfl)
  case h_9 =>
    split
    · exact .updMe _ _ ((Core.Quiet.returnToken _ _).trans (.updStrand _ _ _))
    · exact .refl s
  all_goals first
    | exact State.TrapKeeps.refl s
    | exact State.TrapKeeps.returnToken s st
    | exact State.TrapKeeps.updMe _ _ ((Core.Quiet.returnToken _ _).trans (.updStrand _ _ _))

theorem State.TrapKeeps.freeze (s : State) (st : Strand) : s.TrapKeeps (s.freeze st) := by
  unfold State.freeze
  split
  · exact (State.TrapKeeps.abandonWait s st).trans (.updMe _ _ (.updStrand _ _ _))
  · exact State.TrapKeeps.refl s

theorem State.strand_abandonWait_other (s : State) {st x : Strand} (h : x ≠ st) :
    ((s.abandonWait x).me.strand st) = s.me.strand st := by
  have hr : ∀ k : Core, (k.returnToken x).strand st = k.strand st := by
    intro k
    unfold Core.returnToken
    dsimp only
    split
    · rw [Core.strand_setStrand_other _ _ h]; rfl
    · rfl
  have hw : ∀ (a : State) (g : StrandSt → StrandSt), ((a.updMe (fun k => (k.returnToken x).updStrand x g)).me.strand st) = a.me.strand st := by
    intro a g
    rw [State.me_updMe, Core.strand_updStrand_other _ _ h, hr]
  unfold State.abandonWait
  dsimp only
  split
  case h_1 | h_2 | h_3 | h_4 | h_5 => exact hw s _
  case h_6 =>
    rw [State.me_updMe]
    have e : (s.withdrawPacq s.core).me = s.me := rfl
    rw [e]
    have := hw s (fun t => { t with cond := .ready, woken := false })
    rw [State.me_updMe] at this
    exact this
  case h_7 | h_8 => rw [State.me_updMe, hr]
  case h_9 =>
    split
    · exact hw s _
    · rfl
  all_goals rfl

theorem State.strand_freeze_other (s : State) {st x : Strand} (h : x ≠ st) : (s.freeze x).me.strand st = s.me.strand st := by
  unfold State.freeze
  split
  · rw [State.me_updMe, Core.strand_updStrand_other _ _ h, State.strand_abandonWait_other s h]
  · rfl

theorem State.freezeAll (l : List Strand) (st : Strand) (hl : ∀ x ∈ l, x ≠ st) (s : State) :
    s.TrapKeeps (l.foldl (fun a x => a.freeze x) s) ∧ (l.foldl (fun a x => a.freeze x) s).me.strand st = s.me.strand st := by
  induction l generalizing s with
  | nil => exact ⟨.refl s, rfl⟩
  | cons y t ih =>
    have := ih (fun x hx => hl x (List.mem_cons_of_mem _ hx)) (s.freeze y)
    exact ⟨(State.TrapKeeps.freeze s y).trans this.1, this.2.trans (State.strand_freeze_other s (hl y List.mem_cons_self))⟩

theorem State.TrapKeeps.of_onlyCore {s u : State} (h : s.OnlyCore u) (hm : u.me = s.me) : s.TrapKeeps u :=
  ⟨h.core, by rw [h.rest], by rw [hm]; exact .refl _, by rw [hm], by rw [hm], by rw [hm], by rw [hm], by rw [hm], by rw [hm]⟩

/-- Taking a trap in user mode, with a handler (R281). -/
theorem State.enterTrap_enters {s : State} (st : Strand) (i : TrapInfo) (hu : s.me.sup = false)
    (hh : s.me.node.handler = true) (hc : i.chain = false) (hp : i.post = false) :
    s.EntersTrap (s.enterTrap st i) st i.cause i.tval i.tepc := by
  generalize hs1 : (s.updMe (fun k => k.returnToken st)).count s.me.node.part 0x0014 = s1
  have k1 : s.TrapKeeps s1 := by
    subst hs1
    exact (State.TrapKeeps.returnToken s st).trans (.of_onlyCore (State.OnlyCore.count _ _ _) (State.me_count _ _ _))
  unfold State.enterTrap
  simp only [hs1]
  rw [if_neg (by rw [k1.sup, hu]; simp), if_neg (by rw [k1.node, hh]; simp)]
  generalize hg : (fun k : Core =>
      { k.updStrand st (fun t => { t with frozen := true, pending := none }) with
        tcause := i.word st, tepc := i.tepc, tval := i.tval, psup := k.sup, sup := true,
        node := { k.node with phase := .trapEntry, trapper := st, trap := some i } }) = g
  have m : ∀ k, g k = { k.updStrand st (fun t => { t with frozen := true, pending := none }) with
        tcause := i.word st, tepc := i.tepc, tval := i.tval, psup := k.sup, sup := true,
        node := { k.node with phase := .trapEntry, trapper := st, trap := some i } } := fun k => by rw [← hg]
  generalize hs2 : s1.updMe g = s2
  have f := State.freezeAll ([Strand.S, .V, .M, .C].filter (fun x => x != st)) st (by simp) s2
  generalize hs3 : ([Strand.S, .V, .M, .C].filter (fun x => x != st)).foldl (fun a x => a.freeze x) s2 = s3
  rw [hs3] at f
  have e : s.EntersTrap s3 st i.cause i.tval i.tepc := by
    have h := f.1
    have m2 := (by rw [← hs2, State.me_updMe, m] : s2.me = _)
    have c2 : s2.mem = s1.mem := by rw [← hs2]; rfl
    constructor
    · rw [h.tcause, m2]
      show i.word st = _
      simp [TrapInfo.word, hc, hp, b2n]
    · rw [h.tval, m2]
    · rw [h.tepc, m2]
    · rw [h.psup, m2, ← k1.sup]
    · rw [h.sup, m2]
    · rw [f.2, m2]
      exact congrArg StrandSt.frozen
        (Core.strand_updStrand_same s1.me st (fun t => { t with frozen := true, pending := none }))
    · rw [h.node, m2]
    · refine (k1.data.trans ?_).trans h.data
      rw [m2]
      constructor <;> rfl
    · intro a; rw [h.mem, c2, k1.mem]
    · rw [h.node, m2]; show s1.me.node.staged = _; rw [k1.node]
  split
  · have c : s3.TrapKeeps (s3.updMe Core.clearLatches) := .updMe _ _ (.clearLatches _)
    exact ⟨c.tcause.trans e.tcause, c.tval.trans e.tval, c.tepc.trans e.tepc, c.psup.trans e.psup, c.sup.trans e.sup,
      by rw [State.me_updMe]; exact e.frozen, by rw [c.node]; exact e.entry, e.data.trans c.data,
      fun a => by rw [c.mem]; exact e.mem a, by rw [c.node]; exact e.staged⟩
  · exact e

/-- A strand's trap is entered where the M strand owes none of an earlier cycle (R316). -/
theorem State.takeTrap_settled {s : State} {st : Strand} (h : s.me.owedBefore s.cycle st = none) (i : TrapInfo) :
    s.takeTrap st i = s.enterTrap st i := by
  unfold State.takeTrap
  rw [h]

/-- Another strand's trap finds the M strand's own of an earlier cycle, which is entered (R316). -/
theorem State.takeTrap_owed {s : State} {st : Strand} {j : TrapInfo} (h : s.me.owedBefore s.cycle st = some j) (i : TrapInfo) :
    s.takeTrap st i = (s.updMe (fun k => k.returnToken st)).enterTrap .M j := by
  unfold State.takeTrap
  rw [h]

/-- What the M strand owes depends on the node, on M's pending trap, its word and whether M is frozen (R316). -/
theorem Core.owedBefore_congr {k u : Core} (hn : u.node = k.node) (hp : (u.strand .M).pending = (k.strand .M).pending)
    (hf : (u.strand .M).frozen = (k.strand .M).frozen) (hc : (u.strand .M).pc = (k.strand .M).pc) (c : Nat) (st : Strand) :
    u.owedBefore c st = k.owedBefore c st := by
  unfold Core.owedBefore Core.owedTrap Core.keepsTrap
  rw [hn, hp, hf, hc]

theorem State.takeTrap_enters {s : State} (st : Strand) (i : TrapInfo) (hu : s.UserNode) (hc : i.chain = false)
    (hp : i.post = false) : s.EntersTrap (s.takeTrap st i) st i.cause i.tval i.tepc := by
  rw [State.takeTrap_settled (hu.settled st)]
  exact State.enterTrap_enters st i hu.user hu.handler hc hp

/-- The pop of an instruction leaves mode, node, window and memory. -/
theorem State.pop_keeps {s s1 : State} {st : Strand} {t : Tok} (h : s.popTok st t = some s1) :
    s1.me.sup = s.me.sup ∧ s1.me.node = s.me.node ∧ s1.me.window = s.me.window ∧ s1.mem = s.mem ∧ s1.free = s.free ∧
      s1.cycle = s.cycle ∧ s1.core = s.core ∧ s1.poison = s.poison := by
  have h1 := (State.me_pop h).1
  have h2 := (State.OnlyCore.pop h).rest
  refine ⟨by rw [h1], by rw [h1], by rw [h1], by rw [h2], by rw [h2], by rw [h2], by rw [h2], by rw [h2]⟩

/-- A pop leaves a node in user mode, with what its M strand owes. -/
theorem State.UserNode.pop {s s1 : State} {st : Strand} {t : Tok} (h : s.UserNode) (hp : s.popTok st t = some s1) : s1.UserNode := by
  have n := State.pop_keeps hp
  have e := State.me_pop hp
  refine ⟨by rw [n.2.1]; exact h.running, by rw [n.2.1]; exact h.handler, by rw [n.1]; exact h.user, fun x => ?_,
    by rw [n.2.1]; exact h.stays⟩
  rw [n.2.2.2.2.2.1, ← h.settled x]
  by_cases hm : st = .M
  · subst hm; exact Core.owedBefore_congr n.2.1 e.2.2.2.1 e.2.2.2.2 e.2.2.1 _ _
  · have := e.2.1 .M (Ne.symm hm)
    exact Core.owedBefore_congr n.2.1 (by rw [this]) (by rw [this]) (by rw [this]) _ _

/-- A trap at the S strand's next word, in user mode with a handler. -/
theorem State.trapHere_enters {s : State} (hu : s.UserNode) (c : BitVec 8) (v : Word) :
    s.EntersTrap (s.trapHere .S c v) .S c v (s.me.strand .S).pc := by
  unfold State.trapHere
  simp only [reduceCtorEq, if_false]
  unfold State.raiseTrap
  rw [if_neg (by rw [hu.running, hu.stays]; decide)]
  exact State.takeTrap_enters .S _ hu rfl rfl

/-- What a trap keeps of an earlier state that agrees with the one it was raised in. -/
theorem State.EntersTrap.of_same {s s1 u : State} {st : Strand} {c : BitVec 8} {v p : Word}
    (hm : ∀ a, s1.mem.read a = s.mem.read a) (h1 : s.me.SameData s1.me) (h2 : s1.me.node.staged = s.me.node.staged)
    (h3 : s1.me.sup = s.me.sup) (h : s1.EntersTrap u st c v p) : s.EntersTrap u st c v p :=
  ⟨h.tcause, h.tval, h.tepc, by rw [h.psup, h3], h.sup, h.frozen, h.entry, h1.trans h.data, fun a => (h.mem a).trans (hm a),
    h.staged.trans h2⟩

/-- A trap of an S instruction after its pop (R128 step 3). -/
theorem State.trapHere_pop {s s1 : State} {t : Tok} (hp : s.popTok .S t = some s1) (hu : s.UserNode) (c : BitVec 8)
    (v : Word) : s.EntersTrap (s1.trapHere .S c v) .S c v (s.me.strand .S).pc := by
  have e := State.me_pop hp
  have n := State.pop_keeps hp
  have h1 : s1.UserNode := hu.pop hp
  have := State.trapHere_enters h1 c v
  rw [e.2.2.1] at this
  refine State.EntersTrap.of_same (by simp [n.2.2.2.1]) ?_ (by rw [n.2.1]) n.1 this
  rw [e.1]; constructor <;> rfl

/-- The same with a free value in TVAL (log 6). -/
theorem State.trapHere_free {s s1 : State} {t : Tok} (hp : s.popTok .S t = some s1) (hu : s.UserNode) (c : BitVec 8) :
    s.EntersTrap (s1.useFree.trapHere .S c s1.freeVal) .S c s.freeVal (s.me.strand .S).pc := by
  have e := State.me_pop hp
  have n := State.pop_keeps hp
  have hf : s1.freeVal = s.freeVal := by unfold State.freeVal; rw [n.2.2.2.2.1]
  have m : s1.useFree.me = s1.me := rfl
  have h1 : s1.useFree.UserNode := let g := hu.pop hp; ⟨g.running, g.handler, g.user, g.settled, g.stays⟩
  have := State.trapHere_enters h1 c s1.freeVal
  rw [hf] at this ⊢
  rw [m, e.2.2.1] at this
  refine State.EntersTrap.of_same (s1 := s1.useFree) ?_ ?_ (by rw [m, n.2.1]) (by rw [m, n.1]) this
  · intro a
    have : s1.useFree.mem = s.mem := n.2.2.2.1
    rw [this]
  · rw [m, e.1]; constructor <;> rfl

/-- The same before the pop (R128 step 1). -/
theorem State.trapHere_open {s : State} (hu : s.UserNode) (c : BitVec 8) :
    s.EntersTrap (s.useFree.trapHere .S c s.freeVal) .S c s.freeVal (s.me.strand .S).pc := by
  have h1 : s.useFree.UserNode := ⟨hu.running, hu.handler, hu.user, hu.settled, hu.stays⟩
  exact State.EntersTrap.of_same (s1 := s.useFree) (fun _ => rfl) (.refl _) rfl rfl (State.trapHere_enters h1 c s.freeVal)

end Sys2Proof.Machine
end

