-- ==== Sys2Proof/Tests/Slice0.lean ====
section
/-! SUPPORT. Tests: ill-formed terms for each check of WellFormed, words written out from the spec's encodings, small
single steps with results worked out by hand from the rules, and a witness for the hypotheses of each statement. -/

namespace Sys2Proof.Tests

open Sys2Proof Sys2Proof.Machine

set_option Elab.async false
set_option maxRecDepth 100000

/-! ## Helpers -/

/-- Does an outcome go on, to a state with a property? -/
def goes (o : Host.Outcome State Fault Refusal) (p : State → Bool) : Bool :=
  match o with
  | .next t => p t
  | _ => false

/-- Does a stream's decoder read a word as an instruction? -/
def reads (st : Strand) (w : BitVec 32) (i : Instr) : Bool :=
  match decode st w with
  | .ok j => decide (j = i)
  | .error _ => false

/-- A strand at 0x10000 of a section of 64 words. -/
def strandAt : StrandSt := { StrandSt.idle with pc := 0x10000, secBase := 0x10000, secLen := 0x100 }

/-- A core that runs a node of partition 0 with a trap handler, in user mode. -/
def core0 : Core :=
  { Core.reset with strands := tab 4 (fun _ => strandAt), node := { Node.vacant with phase := .running, handler := true } }

/-- A valid range entry of 64 KiB on channel 0: base, permission and mode bits, offset in the channel. -/
def entryAt (base bits off : Nat) : RangeEntry :=
  { w0 := BitVec.ofNat 64 base, w1 := BitVec.ofNat 64 (2 ^ 63 + 16 * 2 ^ 50 + bits), w2 := BitVec.ofNat 64 off, w3 := 0 }

/-- Code at 0x10000, STAGED data at 0x20000, DIRECT data at 0x30000, data without R or W at 0x40000. -/
def table0 : Table RangeEntry :=
  [(0, codeEntry 0), (1, entryAt 0x20000 0xC0 0x10000), (2, entryAt 0x30000 0xD0 0x20000), (3, entryAt 0x40000 0x20 0x30000)]

/-- Partition 0 with that table in force. -/
def part0 : Part := { Part.reset with active := table0 }

/-- The machine whose core 0 is k and whose partition 0 is v. -/
def onPart (v : Part) (k : Core) : State := { State.reset with cores := [(0, k)], parts := [(0, v)] }

/-- The machine whose core 0 is k. -/
def on (k : Core) : State := onPart part0 k

/-- A core with scalar registers set. -/
def withX (k : Core) (l : List (BitVec 5 × Word)) : Core := l.foldl (fun k e => k.setX e.1 e.2) k

/-- No token field. -/
def t0 : Tok := ⟨0, 0⟩

/-! ## Decoding: a word of every row, written out from the match bits and fields of the opcode table -/

theorem test_decode_add_mul :
    reads .S 0x90468680 (.add ⟨2, 1⟩ 3 8 13) ∧
    reads .S 0x90468681 (.sub ⟨2, 1⟩ 3 8 13) ∧
    reads .S 0x90468682 (.and ⟨2, 1⟩ 3 8 13) ∧
    reads .S 0x90468683 (.or ⟨2, 1⟩ 3 8 13) ∧
    reads .S 0x90468684 (.xor ⟨2, 1⟩ 3 8 13) ∧
    reads .S 0x90468685 (.sll ⟨2, 1⟩ 3 8 13) ∧
    reads .S 0x90468686 (.srl ⟨2, 1⟩ 3 8 13) ∧
    reads .S 0x90468687 (.sra ⟨2, 1⟩ 3 8 13) ∧
    reads .S 0x90468688 (.slt ⟨2, 1⟩ 3 8 13) ∧
    reads .S 0x90468689 (.sltU ⟨2, 1⟩ 3 8 13) ∧
    reads .S 0x9046868A (.min ⟨2, 1⟩ 3 8 13) ∧
    reads .S 0x9046868B (.minU ⟨2, 1⟩ 3 8 13) ∧
    reads .S 0x9046868C (.max ⟨2, 1⟩ 3 8 13) ∧
    reads .S 0x9046868D (.maxU ⟨2, 1⟩ 3 8 13) ∧
    reads .S 0x90868680 (.mul ⟨2, 1⟩ 3 8 13) := by
  decide

theorem test_decode_mulh_sllImmediate :
    reads .S 0x90868681 (.mulh ⟨2, 1⟩ 3 8 13) ∧
    reads .S 0x90868682 (.mulhU ⟨2, 1⟩ 3 8 13) ∧
    reads .S 0x90868683 (.div ⟨2, 1⟩ 3 8 13) ∧
    reads .S 0x90868684 (.divU ⟨2, 1⟩ 3 8 13) ∧
    reads .S 0x90868685 (.rem ⟨2, 1⟩ 3 8 13) ∧
    reads .S 0x90868686 (.remU ⟨2, 1⟩ 3 8 13) ∧
    reads .S 0x90C68000 (.clz ⟨2, 1⟩ 3 8) ∧
    reads .S 0x90C68001 (.ctz ⟨2, 1⟩ 3 8) ∧
    reads .S 0x90C68002 (.popc ⟨2, 1⟩ 3 8) ∧
    reads .S 0x90C686D2 (.fsh ⟨2, 1⟩ 3 8 13 18) ∧
    reads .S 0x9106800D (.addImmediate ⟨2, 1⟩ 3 8 13) ∧
    reads .S 0x9146800D (.andImmediate ⟨2, 1⟩ 3 8 13) ∧
    reads .S 0x9186800D (.orImmediate ⟨2, 1⟩ 3 8 13) ∧
    reads .S 0x91C6800D (.xorImmediate ⟨2, 1⟩ 3 8 13) ∧
    reads .S 0x9206800D (.sllImmediate ⟨2, 1⟩ 3 8 13) := by
  decide

theorem test_decode_srlImmediate_ldWU :
    reads .S 0x9246800D (.srlImmediate ⟨2, 1⟩ 3 8 13) ∧
    reads .S 0x9286800D (.sraImmediate ⟨2, 1⟩ 3 8 13) ∧
    reads .S 0x92C6800D (.sltImmediate ⟨2, 1⟩ 3 8 13) ∧
    reads .S 0x93069A17 (.bfx ⟨2, 1⟩ 3 9 40 23) ∧
    reads .S 0x93469A17 (.bfxU ⟨2, 1⟩ 3 9 40 23) ∧
    reads .S 0x93869A17 (.bfi ⟨2, 1⟩ 3 9 40 23) ∧
    reads .S 0x93C60008 (.lui ⟨2, 1⟩ 3 8) ∧
    reads .S 0x94060008 (.orsh ⟨2, 1⟩ 3 8) ∧
    reads .S 0x9446800D (.ldB ⟨2, 1⟩ 3 8 13) ∧
    reads .S 0x9486800D (.ldH ⟨2, 1⟩ 3 8 13) ∧
    reads .S 0x94C6800D (.ldW ⟨2, 1⟩ 3 8 13) ∧
    reads .S 0x9506800D (.ldD ⟨2, 1⟩ 3 8 13) ∧
    reads .S 0x9546800D (.ldBU ⟨2, 1⟩ 3 8 13) ∧
    reads .S 0x9586800D (.ldHU ⟨2, 1⟩ 3 8 13) ∧
    reads .S 0x95C6800D (.ldWU ⟨2, 1⟩ 3 8 13) := by
  decide

theorem test_decode_stB_amoCas :
    reads .S 0x9606800D (.stB ⟨2, 1⟩ 3 8 13) ∧
    reads .S 0x9646800D (.stH ⟨2, 1⟩ 3 8 13) ∧
    reads .S 0x9686800D (.stW ⟨2, 1⟩ 3 8 13) ∧
    reads .S 0x96C6800D (.stD ⟨2, 1⟩ 3 8 13) ∧
    reads .S 0x9706800D (.ldlu ⟨2, 1⟩ 3 8 13) ∧
    reads .S 0x97403008 (.pref ⟨2, 1⟩ 3 8) ∧
    reads .S 0x9786800D (.resq ⟨2, 1⟩ 3 8 13) ∧
    reads .S 0x97C6868A (.amoSwap ⟨2, 1⟩ 3 8 13 2 1) ∧
    reads .S 0x97C6869A (.amoAdd ⟨2, 1⟩ 3 8 13 2 1) ∧
    reads .S 0x97C686AA (.amoAnd ⟨2, 1⟩ 3 8 13 2 1) ∧
    reads .S 0x97C686BA (.amoOr ⟨2, 1⟩ 3 8 13 2 1) ∧
    reads .S 0x97C686CA (.amoXor ⟨2, 1⟩ 3 8 13 2 1) ∧
    reads .S 0x97C686DA (.amoMin ⟨2, 1⟩ 3 8 13 2 1) ∧
    reads .S 0x97C686EA (.amoMax ⟨2, 1⟩ 3 8 13 2 1) ∧
    reads .S 0x97C686FA (.amoCas ⟨2, 1⟩ 3 8 13 2 1) := by
  decide

theorem test_decode_beq_fmax :
    reads .S 0x9806800D (.beq ⟨2, 1⟩ 3 8 13) ∧
    reads .S 0x9846800D (.bne ⟨2, 1⟩ 3 8 13) ∧
    reads .S 0x9886800D (.blt ⟨2, 1⟩ 3 8 13) ∧
    reads .S 0x98C6800D (.bge ⟨2, 1⟩ 3 8 13) ∧
    reads .S 0x9906800D (.bltU ⟨2, 1⟩ 3 8 13) ∧
    reads .S 0x9946800D (.bgeU ⟨2, 1⟩ 3 8 13) ∧
    reads .S 0x99860008 (.jal ⟨2, 1⟩ 3 8) ∧
    reads .S 0x99C6800D (.jalr ⟨2, 1⟩ 3 8 13) ∧
    reads .S 0x9A068680 (.fadd ⟨2, 1⟩ 3 8 13 0) ∧
    reads .S 0x9A068681 (.fsub ⟨2, 1⟩ 3 8 13 0) ∧
    reads .S 0x9A068682 (.fmul ⟨2, 1⟩ 3 8 13 0) ∧
    reads .S 0x9A068683 (.fdiv ⟨2, 1⟩ 3 8 13 0) ∧
    reads .S 0x9A068044 (.fsqrt ⟨2, 1⟩ 3 8 1) ∧
    reads .S 0x9A068685 (.fmin ⟨2, 1⟩ 3 8 13 0) ∧
    reads .S 0x9A068686 (.fmax ⟨2, 1⟩ 3 8 13 0) := by
  decide

theorem test_decode_fma_wnext :
    reads .S 0x9A068687 (.fma ⟨2, 1⟩ 3 8 13 0) ∧
    reads .S 0x9A068688 (.fcmpEq ⟨2, 1⟩ 3 8 13 0) ∧
    reads .S 0x9A068689 (.fcmpLt ⟨2, 1⟩ 3 8 13 0) ∧
    reads .S 0x9A06868A (.fcmpLe ⟨2, 1⟩ 3 8 13 0) ∧
    reads .S 0x9A068050 (.fcvtFromI64 ⟨2, 1⟩ 3 8 1 0) ∧
    reads .S 0x9A068051 (.fcvtFromU64 ⟨2, 1⟩ 3 8 1 0) ∧
    reads .S 0x9A068052 (.fcvtToI64 ⟨2, 1⟩ 3 8 1 0) ∧
    reads .S 0x9A068053 (.fcvtToU64 ⟨2, 1⟩ 3 8 1 0) ∧
    reads .S 0x9A068034 (.fcvtSD ⟨2, 1⟩ 3 8 1) ∧
    reads .S 0x9A068054 (.fcvtDS ⟨2, 1⟩ 3 8) ∧
    reads .S 0x9C068680 (.acwait ⟨2, 1⟩ 3 8 13) ∧
    reads .S 0x9C068001 (.acread ⟨2, 1⟩ 3 8) ∧
    reads .S 0x9C003402 (.bar ⟨2, 1⟩ 3 8) ∧
    reads .S 0x9C068003 (.wopen ⟨2, 1⟩ 3 8) ∧
    reads .S 0x9C068004 (.wnext ⟨2, 1⟩ 3 8) := by
  decide

theorem test_decode_wdone_trap :
    reads .S 0x9C003405 (.wdone ⟨2, 1⟩ 3 8) ∧
    reads .S 0x9C003406 (.ipub ⟨2, 1⟩ 3 8) ∧
    reads .S 0x9C068007 (.solve ⟨2, 1⟩ 3 8) ∧
    reads .S 0x9C003008 (.pacq ⟨2, 1⟩ 3) ∧
    reads .S 0x9C000009 (.prel ⟨2, 1⟩) ∧
    reads .S 0x9C06000A (.gtc ⟨2, 1⟩ 3) ∧
    reads .S 0x9C00000B (.snap ⟨2, 1⟩) ∧
    reads .S 0x9C00000C (.hfence ⟨2, 1⟩) ∧
    reads .S 0x9C00000D (.eret ⟨2, 1⟩) ∧
    reads .S 0x9C00000E (.nendS ⟨2, 1⟩) ∧
    reads .S 0x9C46005F (.crd ⟨2, 1⟩ 3 95) ∧
    reads .S 0x9C80305F (.cwr ⟨2, 1⟩ 3 95) ∧
    reads .S 0x9CC00003 (.trap ⟨2, 1⟩ 3) := by
  decide

theorem test_decode_vadd_vadds :
    reads .V 0x9023435C (.vadd ⟨2, 1⟩ 3 8 13 0 7 0) ∧
    reads .V 0x9043435C (.vsub ⟨2, 1⟩ 3 8 13 0 7 0) ∧
    reads .V 0x9063435C (.vmul ⟨2, 1⟩ 3 8 13 0 7 0) ∧
    reads .V 0x90834348 (.vfma ⟨2, 1⟩ 3 8 13 2 0) ∧
    reads .V 0x90A3435C (.vmin ⟨2, 1⟩ 3 8 13 0 7 0) ∧
    reads .V 0x90C3435C (.vmax ⟨2, 1⟩ 3 8 13 0 7 0) ∧
    reads .V 0x90E34008 (.vabs ⟨2, 1⟩ 3 8 0 2 0) ∧
    reads .V 0x91034008 (.vneg ⟨2, 1⟩ 3 8 0 2 0) ∧
    reads .V 0x9123435C (.vdiv ⟨2, 1⟩ 3 8 13 0 7 0) ∧
    reads .V 0x91434008 (.vrcp ⟨2, 1⟩ 3 8 0 2 0) ∧
    reads .V 0x91634008 (.vrsq ⟨2, 1⟩ 3 8 0 2 0) ∧
    reads .V 0x91834008 (.vsqrt ⟨2, 1⟩ 3 8 0 2 0) ∧
    reads .V 0x91A34008 (.vexp2 ⟨2, 1⟩ 3 8 0 2 0) ∧
    reads .V 0x91C34008 (.vlog2 ⟨2, 1⟩ 3 8 0 2 0) ∧
    reads .V 0x91E3435C (.vadds ⟨2, 1⟩ 3 8 13 0 7 0) := by
  decide

theorem test_decode_vsubs_vclz :
    reads .V 0x9203435C (.vsubs ⟨2, 1⟩ 3 8 13 0 7 0) ∧
    reads .V 0x9223435C (.vand ⟨2, 1⟩ 3 8 13 0 7 0) ∧
    reads .V 0x9243435C (.vor ⟨2, 1⟩ 3 8 13 0 7 0) ∧
    reads .V 0x9263435C (.vxor ⟨2, 1⟩ 3 8 13 0 7 0) ∧
    reads .V 0x9283435C (.vsll ⟨2, 1⟩ 3 8 13 0 7 0) ∧
    reads .V 0x92A3435C (.vsrl ⟨2, 1⟩ 3 8 13 0 7 0) ∧
    reads .V 0x92C3435C (.vsra ⟨2, 1⟩ 3 8 13 0 7 0) ∧
    reads .V 0x92E3435C (.vsllI ⟨2, 1⟩ 3 8 13 0 7 0) ∧
    reads .V 0x9303435C (.vsrlI ⟨2, 1⟩ 3 8 13 0 7 0) ∧
    reads .V 0x9323435C (.vsraI ⟨2, 1⟩ 3 8 13 0 7 0) ∧
    reads .V 0x9343435C (.vbfx ⟨2, 1⟩ 3 8 13 0 7 0) ∧
    reads .V 0x9363435C (.vbfxU ⟨2, 1⟩ 3 8 13 0 7 0) ∧
    reads .V 0x93834348 (.vfsh ⟨2, 1⟩ 3 8 13 2 0) ∧
    reads .V 0x93A34008 (.vpopc ⟨2, 1⟩ 3 8 0 2 0) ∧
    reads .V 0x93C34008 (.vclz ⟨2, 1⟩ 3 8 0 2 0) := by
  decide

theorem test_decode_vcmpEq_vidx :
    reads .V 0x94054348 (.vcmpEq ⟨2, 1⟩ 5 8 13 2 0) ∧
    reads .V 0x94254348 (.vcmpNe ⟨2, 1⟩ 5 8 13 2 0) ∧
    reads .V 0x94454348 (.vcmpLt ⟨2, 1⟩ 5 8 13 2 0) ∧
    reads .V 0x94654348 (.vcmpLe ⟨2, 1⟩ 5 8 13 2 0) ∧
    reads .V 0x94860140 (.kand ⟨2, 1⟩ 6 0 5) ∧
    reads .V 0x94A60140 (.kor ⟨2, 1⟩ 6 0 5) ∧
    reads .V 0x94C60140 (.kxor ⟨2, 1⟩ 6 0 5) ∧
    reads .V 0x94E60000 (.knot ⟨2, 1⟩ 6 0) ∧
    reads .V 0x9503435C (.vsel ⟨2, 1⟩ 3 8 13 0 7 0) ∧
    reads .V 0x95234008 (.vmov ⟨2, 1⟩ 3 8 0 2 0) ∧
    reads .V 0x9543435C (.vbcast ⟨2, 1⟩ 3 8 13 0 7 0) ∧
    reads .V 0x9563435C (.vperm ⟨2, 1⟩ 3 8 13 0 7 0) ∧
    reads .V 0x9583435C (.vrot ⟨2, 1⟩ 3 8 13 0 7 0) ∧
    reads .V 0x95A30208 (.vli ⟨2, 1⟩ 3 8 0 2) ∧
    reads .V 0x95C30014 (.vidx ⟨2, 1⟩ 3 0 5) := by
  decide

theorem test_decode_vredAdd_vldf :
    reads .V 0x96034008 (.vredAdd ⟨2, 1⟩ 3 8 0 2 0) ∧
    reads .V 0x96234008 (.vredMin ⟨2, 1⟩ 3 8 0 2 0) ∧
    reads .V 0x96434008 (.vredMax ⟨2, 1⟩ 3 8 0 2 0) ∧
    reads .V 0x96634008 (.vscanAdd ⟨2, 1⟩ 3 8 0 2 0) ∧
    reads .V 0x98286A10 (.vcvt ⟨2, 1⟩ 1 8 13 8 0 4 0) ∧
    reads .V 0x98A86A10 (.vcvtRz ⟨2, 1⟩ 1 8 13 8 0 4 0) ∧
    reads .V 0x99286A10 (.vcvtSr ⟨2, 1⟩ 1 8 13 8 0 4 0) ∧
    reads .V 0x9A03405C (.vsplit3 ⟨2, 1⟩ 3 8 1 0 7 0) ∧
    reads .V 0x9A83421C (.vld ⟨2, 1⟩ 3 8 8 0 7 0) ∧
    reads .V 0x9AA01A14 (.vst ⟨2, 1⟩ 3 8 5 0) ∧
    reads .V 0x9AC3421C (.vldm ⟨2, 1⟩ 3 8 8 0 7 0) ∧
    reads .V 0x9AE01A14 (.vstm ⟨2, 1⟩ 3 8 5 0) ∧
    reads .V 0x9B03421C (.vgath ⟨2, 1⟩ 3 8 8 0 7 0) ∧
    reads .V 0x9B201A14 (.vscat ⟨2, 1⟩ 3 8 5 0) ∧
    reads .V 0x9B43465C (.vldf ⟨2, 1⟩ 3 8 25 0 7 0) := by
  decide

theorem test_decode_vstf_nendV :
    reads .V 0x9B654348 (.vstf ⟨2, 1⟩ 5 8 13 2 0) ∧
    reads .V 0x9B801800 (.vpal ⟨2, 1⟩ 3 0 0) ∧
    reads .V 0x9BA3435C (.vcgen ⟨2, 1⟩ 3 8 13 0 7 0) ∧
    reads .V 0x9C001800 (.vovf ⟨2, 1⟩ 3 0 0) ∧
    reads .V 0x9C200000 (.vlsc ⟨2, 1⟩) ∧
    reads .V 0x9C434348 (.vadam ⟨2, 1⟩ 3 8 13 2 0) ∧
    reads .V 0x9C63435C (.vqenc ⟨2, 1⟩ 3 8 13 0 7 0) ∧
    reads .V 0x9C83435C (.vqencPal1 ⟨2, 1⟩ 3 8 13 0 7 0) ∧
    reads .V 0x9FA01808 (.vloop ⟨2, 1⟩ 3 8) ∧
    reads .V 0x9FE00000 (.nendV ⟨2, 1⟩) := by
  decide

theorem test_decode_mwldSlot_madrSr :
    reads .M 0x90581800 (.mwldSlot ⟨2, 1⟩ 3 3 0) ∧
    reads .M 0x90619800 (.mwldScratchpad ⟨2, 1⟩ 3 3 0) ∧
    reads .M 0x90800000 (.mswp ⟨2, 1⟩) ∧
    reads .M 0x90CC0000 (.mband ⟨2, 1⟩ 3) ∧
    reads .M 0x91380000 (.mslot ⟨2, 1⟩ 3 8) ∧
    reads .M 0x915C6C00 (.mmf ⟨2, 1⟩ 3 8 13 4) ∧
    reads .M 0x919C6C00 (.mmb ⟨2, 1⟩ 3 8 13 4) ∧
    reads .M 0x91DC6C00 (.mmw ⟨2, 1⟩ 3 8 13 4) ∧
    reads .M 0x921C6900 (.mconst ⟨2, 1⟩ 3 8 13 1) ∧
    reads .M 0x921C6980 (.mconstB ⟨2, 1⟩ 3 8 13 1) ∧
    reads .M 0x92580000 (.mzero ⟨2, 1⟩ 3) ∧
    reads .M 0x929C6800 (.macc ⟨2, 1⟩ 3 8 13) ∧
    reads .M 0x92DC6980 (.madr ⟨2, 1⟩ 3 8 13 3) ∧
    reads .M 0x92DC69A0 (.madrRz ⟨2, 1⟩ 3 8 13 3) ∧
    reads .M 0x92DC69C0 (.madrSr ⟨2, 1⟩ 3 8 13 3) := by
  decide

theorem test_decode_mchk_nendM :
    reads .M 0x93180000 (.mchk ⟨2, 1⟩ 3) ∧
    reads .M 0x93780000 (.mbind ⟨2, 1⟩ 3 8) ∧
    reads .M 0x9399A400 (.mimm ⟨2, 1⟩ 3 0 13 2) ∧
    reads .M 0x9399A480 (.mimmHi ⟨2, 1⟩ 3 0 13 2) ∧
    reads .M 0x9399A500 (.mimmMid ⟨2, 1⟩ 3 0 13 2) ∧
    reads .M 0x9399A580 (.mimmLo ⟨2, 1⟩ 3 0 13 2) ∧
    reads .M 0x93F8D2C0 (.mimv ⟨2, 1⟩ 3 8 13 2 3) ∧
    reads .M 0x980C0008 (.mli ⟨2, 1⟩ 3 8) ∧
    reads .M 0x984C0008 (.mlih ⟨2, 1⟩ 3 8) ∧
    reads .M 0x988E000D (.maddi ⟨2, 1⟩ 3 8 13) ∧
    reads .M 0x98CE3400 (.madd ⟨2, 1⟩ 3 8 13) ∧
    reads .M 0x990E000D (.mmuli ⟨2, 1⟩ 3 8 13) ∧
    reads .M 0x994E000D (.mlds ⟨2, 1⟩ 3 8 13) ∧
    reads .M 0x998C0008 (.mloop ⟨2, 1⟩ 3 8) ∧
    reads .M 0x9FC00000 (.nendM ⟨2, 1⟩) := by
  decide

theorem test_decode_ccopy1d_cpermit :
    reads .C 0x90563C00 (.ccopy1d ⟨2, 1⟩ 5 8 1 7) ∧
    reads .C 0x90963C00 (.ccopy2d ⟨2, 1⟩ 5 8 1 7) ∧
    reads .C 0x90D63C00 (.ccopy3d ⟨2, 1⟩ 5 8 1 7) ∧
    reads .C 0x91163C00 (.cgath ⟨2, 1⟩ 5 8 1 7) ∧
    reads .C 0x91563C00 (.cscat ⟨2, 1⟩ 5 8 1 7) ∧
    reads .C 0x91963C00 (.cfill ⟨2, 1⟩ 5 8 1 7) ∧
    reads .C 0x91D63C00 (.cradd ⟨2, 1⟩ 5 8 1 7) ∧
    reads .C 0x92163C00 (.cfput ⟨2, 1⟩ 5 8 1 7) ∧
    reads .C 0x92563C00 (.cfget ⟨2, 1⟩ 5 8 1 7) ∧
    reads .C 0x92963C00 (.crs ⟨2, 1⟩ 5 8 1 7) ∧
    reads .C 0x92D63C00 (.cag ⟨2, 1⟩ 5 8 1 7) ∧
    reads .C 0x93141C00 (.carm ⟨2, 1⟩ 5 7) ∧
    reads .C 0x934C1C00 (.csend ⟨2, 1⟩ 3 7) ∧
    reads .C 0x93800000 (.cfence ⟨2, 1⟩) ∧
    reads .C 0x93C0C008 (.cpermit ⟨2, 1⟩ 3 8) := by
  decide

theorem test_decode_qli_nendC :
    reads .C 0x980C0008 (.qli ⟨2, 1⟩ 3 8) ∧
    reads .C 0x984C0008 (.qlih ⟨2, 1⟩ 3 8) ∧
    reads .C 0x988E000D (.qaddi ⟨2, 1⟩ 3 8 13) ∧
    reads .C 0x98CE3400 (.qadd ⟨2, 1⟩ 3 8 13) ∧
    reads .C 0x990E000D (.qlds ⟨2, 1⟩ 3 8 13) ∧
    reads .C 0x994C0008 (.qloop ⟨2, 1⟩ 3 8) ∧
    reads .C 0x9FC00000 (.nendC ⟨2, 1⟩) := by
  decide


/-! ## Witnesses: the machine and its words -/

/-- The machine with one turn listed, for strand S of core 0, and a word at its PC. -/
def turnOf (w : Nat) : State :=
  { on core0 with mem := Memory.writeBytes [] 0 (leBytes 4 w), agenda := [{ wait := 0, late := false, act := .strand 0 .S }] }

/-- The state in which that turn's strand comes to issue, and the one in which its instruction does. -/
def coming (w : Nat) : State :=
  { State.pass { turnOf w with agenda := [] } ((turnOf w).waitOf { wait := 0, late := false, act := .strand 0 .S }) with
    late := false, slot := .after 0 .S, core := 0 }
def issuing (w : Nat) : State := (coming w).beginIssue .S

theorem witness_StrandTurnRunsDecodedWord_word :
    (turnOf 0x00461100).railsOff = false ∧ (coming 0x00461100).mayIssue .S = true ∧
    ((coming 0x00461100).me.strand .S).pending = none ∧
    (issuing 0x00461100).fetch .S ((issuing 0x00461100).me.strand .S).pc.toNat = .word 0x00461100 ∧
    reads .S 0x00461100 (.add t0 3 1 2) = true ∧ (turnOf 0x00461100).hostDir = [] ∧ (turnOf 0).slot = .fresh ∧
    (coming 0).slot = .after 0 .S := by decide

theorem witness_StrandTurnRunsDecodedWord_illegal :
    (coming 0).mayIssue .S = true ∧ (issuing 0).fetch .S ((issuing 0).me.strand .S).pc.toNat = .word 0 ∧
    decode .S 0 = .error .unassigned := ⟨by decide, by decide, rfl⟩

/-- Nothing is to end, and no record is due. -/
theorem witness_StrandTurnRunsDecodedWord_settled : (on core0).due = [] ∧ ∀ c, ((on core0).coreAt c).node.ending = none := by
  refine ⟨rfl, fun c => ?_⟩
  rcases Nat.eq_zero_or_pos c with h | h
  · subst h; rfl
  · have hc : (on core0).coreAt c = Core.reset := by simp [on, onPart, State.coreAt, Table.get, Nat.ne_of_lt h]
    rw [hc]; rfl

/-- The strand in a section that no range entry maps. -/
def unmapped : State := on (core0.updStrand .S (fun x => { x with pc := 0x50000, secBase := 0x50000 }))

theorem witness_StrandTurnRunsDecodedWord_fault :
    unmapped.mayIssue .S = true ∧ (match unmapped.fetch .S (unmapped.me.strand .S).pc.toNat with | .fault _ => true | _ => false) = true := by
  decide

theorem witness_EventTurnRunsEvent :
    Instr.stream? (.go 0 0) = none ∧ newtEvent .resetBoot = true ∧ Instr.stream? (.gtc t0 1) ≠ none ∧ State.reset.agenda = [] := by
  decide

theorem witness_EventTurnRunsEvent_fault :
    (match step { State.reset with railsOff := true } with | .fault _ => true | _ => false) = true := by decide

theorem witness_DecodeOfEncode : Instr.stream? (.jalr ⟨3, 1⟩ 31 0 0xFFF) = some .S ∧
    Instr.wellFormed (.jalr ⟨3, 1⟩ 31 0 0xFFF) = true := by decide

theorem witness_OnlyEncodingsDecode : reads .C 0x0990FFFF (.qloop t0 4 0x0FFFF) = false ∧ reads .S 0x00461100 (.add t0 3 1 2) = true := by
  decide

theorem witness_MemoryReadsWhatWasWritten : Memory.wf [(3, 1), (5, 2)] = true ∧ Memory.wf [(5, 2), (3, 1)] = false ∧
    Memory.wf [(3, 0)] = false := by decide

/-- Core 0 with tokens in the FIFOs that S pops, and in the FIFOs that it pushes. -/
def tokensOn (pops pushes : Nat) : State :=
  on { core0 with tk := tab 12 (fun n => if n < 3 then pushes else pops) }

theorem witness_TokensPopAndPush :
    (∃ s1, (tokensOn 1 15).Issues .S ⟨1, 1⟩ s1) ∧ Instr.wellFormed (.add ⟨1, 1⟩ 3 1 2) = true ∧
    aluRule (.add ⟨1, 1⟩ 3 1 2) = some (⟨1, 1⟩, 3, fun k => k.getX 1 + k.getX 2) ∧
    ((tokensOn 1 15).popTok .S ⟨1, 1⟩).isSome = true ∧ ((tokensOn 1 15).me.strand .S).popped = none ∧
    (tokensOn 1 15).me.fetchBrk .S = none ∧
    (tokensOn 1 15).me.canPush (pushFifo .S 1) = true :=
  ⟨⟨_, fun _ h => absurd h (by decide), by decide, rfl⟩, by decide, rfl, by decide⟩

theorem witness_TokensPopAndPush_full :
    (∃ s1, (tokensOn 1 16).Issues .S ⟨1, 1⟩ s1) ∧
    ((tokensOn 1 16).popTok .S ⟨1, 1⟩).isSome = true ∧
    (tokensOn 1 16).me.canPush (pushFifo .S 1) = false :=
  ⟨⟨_, fun _ h => absurd h (by decide), by decide, rfl⟩, by decide⟩

theorem witness_TokensPopAndPush_empty :
    (tokensOn 0 0).me.sup = false ∧ (tokensOn 0 0).me.fetchBrk .S = none ∧ ((tokensOn 0 0).me.strand .S).popped = none ∧
    (tokensOn 0 0).me.canPop (popFifo .S 1) = false ∧ core0.now = Now.none ∧ (core0.pushInto 0).canPop 0 = false ∧
    (core0.pushInto 0).tokens 0 ≠ 0 := by decide


/-! ## Witnesses: scalar instructions -/

/-- A plain node issues an instruction without token fields. -/
theorem witness_issues {st : Strand} (k : Core) (hk : k.brkc = 0) : (on k).Issues st t0 (on k) where
  mode := fun _ _ => ⟨rfl, rfl⟩
  unbroken := by
    have h : (on k).me = k := rfl
    rw [h]
    unfold Core.fetchBrk
    rw [hk]
    dsimp only
    split
    · rfl
    · simp [bitOf, -bne_iff_ne]
  popped := rfl

/-- Strand st issues an instruction without token fields, in a node in user mode under a handler. -/
def ready (st : Strand) (s : State) : Prop := s.Issues st t0 s ∧ s.UserNode

theorem settled_of {s : State} (h : s.me.owedTrap = none) (st : Strand) : s.me.owedBefore s.cycle st = none := by
  simp [Core.owedBefore, h]

theorem ready_of {st : Strand} {s : State} (hb : s.me.brkc = 0) (hp : s.me.node.phase = .running) (hh : s.me.node.handler = true)
    (hu : s.me.sup = false) (hm : s.me.owedTrap = none := by rfl) (he : s.me.node.ending = none := by rfl) : ready st s := by
  refine ⟨⟨fun _ _ => ⟨rfl, rfl⟩, ?_, rfl⟩, hp, hh, hu, settled_of hm, he⟩
  unfold Core.fetchBrk
  rw [hb]
  dsimp only
  split
  · rfl
  · simp [bitOf, -bne_iff_ne]

/-- So does strand V with instruction i, outside a chain and with 150 pJ to spend. -/
def readyV (i : Instr) (s : State) : Prop :=
  (s.IssuesV i t0 s ∧ s.UserNode) ∧ s.vInside = none ∧ s.powerCheck 150 = .pass

theorem readyV_of {i : Instr} {s : State} (hb : s.me.brkc = 0) (hp : s.me.node.phase = .running) (hh : s.me.node.handler = true)
    (hu : s.me.sup = false) (hc : s.me.chainBroken i t0 = false ∧ s.vInside = none ∧ s.powerCheck 150 = .pass)
    (hm : s.me.owedTrap = none := by rfl) (he : s.me.node.ending = none := by rfl) : readyV i s :=
  ⟨⟨⟨(ready_of hb hp hh hu hm he).1, hc.1⟩, (ready_of (st := .V) hb hp hh hu hm he).2⟩, hc.2⟩

theorem witness_ScalarResultsComplete : (on (withX core0 [(1, 7), (2, 5)])).Issues .S t0 (on (withX core0 [(1, 7), (2, 5)])) ∧
    aluRule (.bfi t0 3 1 0 63) = some (t0, 3, fun k => fieldPut (k.getX 3) (k.getX 1) 0 64) ∧
    Instr.wellFormed (.bfi t0 3 1 0 63) = true ∧ (fpRule (.fsqrt t0 0 1 1)).isSome = true :=
  ⟨witness_issues _ rfl, rfl, by decide⟩

theorem witness_BranchesGoToTarget :
    (branchRule (.bltU t0 1 2 0x7FF)).isSome = true ∧
    (on core0).Issues .S t0 (on core0) ∧ (on core0).me.getX 1 = (on core0).me.getX 2 ∧
    ¬ ((on (withX core0 [(1, -1)])).me.getX 1).toNat < ((on (withX core0 [(1, -1)])).me.getX 2).toNat :=
  ⟨rfl, ⟨witness_issues _ rfl, by decide, by decide⟩⟩


theorem witness_JumpsLinkAndGo :
    ready .S (on (withX core0 [(1, 0x20003)])) ∧
    (on (withX core0 [(1, 0x20004)])).Issues .S t0 (on (withX core0 [(1, 0x20004)])) ∧
    (((on (withX core0 [(1, 0x20004)])).me.getX 1 + 4 * (0 : BitVec 12).signExtend 64).toNat % 4 = 0) ∧
    (((on (withX core0 [(1, 0x20003)])).me.getX 1 + 4 * (0 : BitVec 12).signExtend 64).toNat % 4 ≠ 0) :=
  ⟨ready_of rfl rfl rfl rfl, ⟨witness_issues _ rfl, by decide, by decide⟩⟩


theorem witness_UserNode : (on core0).UserNode := ⟨rfl, rfl, rfl, settled_of rfl, rfl⟩

/-- Core 0 with an address in x1 and a value in x2. -/
def at1 (a v : Word) : Core := withX core0 [(1, a), (2, v)]

theorem witness_LoadsExtendMemory_alias :
    ready .S (on (at1 0xFFFFFFFFFFFFFFF8 0)) ∧
    (loadRule (.ldD t0 3 1 0)).isSome = true ∧
    (on (at1 0xFFFFFFFFFFFFFFF8 0)).locate needR 0xFFFFFFFFFFFFFFF8 = .ok { place := .scratch 0x7FFF8, direct := false } ∧
    (on (at1 0xFFFFFFFFFFFFFFF8 0)).accessWaits (.scratch 0x7FFF8) = false ∧
    (on (at1 0xFFFFFFFFFFFFFFF8 0)).hostGone (.scratch 0x7FFF8) = false ∧
    (∀ j, j < 8 → (on (at1 0xFFFFFFFFFFFFFFF8 0)).placePoison 0 (.scratch 0x7FFF8) j = false) ∧
    (on (at1 0xFFFFFFFFFFFFFFF8 0)).me.dataBrk 0xFFFFFFFFFFFFFFF8 8 = none :=
  ⟨ready_of rfl rfl rfl rfl, rfl, by
  refine ⟨rfl, ?_⟩; decide⟩


theorem witness_LoadsExtendMemory_dram :
    ready .S (on (at1 0x20000 0)) ∧
    (loadRule (.ldD t0 3 1 0)).isSome = true ∧
    (on (at1 0x20000 0)).locate needR 0x20000 = .ok { place := .dram 0x10000, direct := false } ∧
    (on (at1 0x20000 0)).accessWaits (.dram 0x10000) = false ∧ (on (at1 0x20000 0)).hostGone (.dram 0x10000) = false ∧
    (∀ j, j < 8 → (on (at1 0x20000 0)).placePoison 0 (.dram 0x10000) j = false) :=
  ⟨ready_of rfl rfl rfl rfl, rfl, by
  refine ⟨rfl, ?_⟩; decide⟩

/-- The host holds the line of 0x20000, and has written 7 into its first byte. -/
def hostHolds : State := { on (at1 0x20000 0) with hostDir := [{ line := 0x200, part := 0, dirty := [(0, 7)] }] }

/-- Where the host holds no line, nothing is recalled. -/
theorem witness_LoadsExtendMemory_recall : (on (at1 0x20000 0)).askPlace 0 8 (.dram 0x10000) = on (at1 0x20000 0) ∧
    (on (at1 0xFFFFFFFFFFFFFFF8 0)).askPlace 0 8 (.scratch 0x7FFF8) = on (at1 0xFFFFFFFFFFFFFFF8 0) := ⟨rfl, rfl⟩

theorem witness_LoadsExtendMemory_host :
    ready .S hostHolds ∧ hostHolds.locate needR 0x20000 = .ok { place := .dram 0x10000, direct := false } ∧
    hostHolds.accessWaits (.dram 0x10000) = false ∧ hostHolds.hostGone (.dram 0x10000) = false ∧
    (∀ j, j < 8 → (hostHolds.askPlace 0 8 (.dram 0x10000)).placePoison 0 (.dram 0x10000) j = false) ∧
    (hostHolds.askPlace 0 8 (.dram 0x10000)).placeByte 0 (.dram 0x10000) 0 = 7 :=
  ⟨ready_of rfl rfl rfl rfl, rfl, by decide⟩


/-- Partition 0 with core 0's window at 0x60000, host memory at 0x70000, pooled memory at 0x80000, and core 0's weight buffer at
0xA0000. -/
def wide : Part :=
  { part0 with active := part0.active ++
      [(4, entryAt 0x60000 0x1E0 0), (5, { entryAt 0x70000 0xC1 0 with w2 := 0x10000000000 }),
       (6, { entryAt 0x80000 0xC2 0 with w2 := 0x100000000000 }), (7, entryAt 0xA0000 0x1E0 0x80000)] }

/-- The machine with ports 0 and 1 up, and the first fabric window routed by port 1 to target 5. -/
def wideOn (k : Core) : State :=
  { onPart wide k with
    ports := [(0, { Port.reset with up := true }), (1, { Port.reset with up := true })], route := [(0, 0x8000005000000002)] }

theorem witness_LoadsExtendMemory_away :
    ready .S (wideOn (at1 0x70000 0)) ∧
    ready .S (wideOn (at1 0x80008 0)) ∧
    (wideOn (at1 0x70000 0)).locate needR 0x70000 = .ok { place := .host 0x10000000000, direct := false } ∧
    (wideOn (at1 0x80008 0)).locate needR 0x80008 = .ok { place := .pool 0x100000000008, direct := false } ∧
    (∀ q ∈ [Place.host 0x10000000000, Place.pool 0x100000000008],
      (wideOn (at1 0x70000 0)).accessWaits q = false ∧ (wideOn (at1 0x70000 0)).hostGone q = false ∧
      ∀ j, j < 8 → ((wideOn (at1 0x70000 0)).askPlace 0 8 q).placePoison 0 q j = false) ∧
    (wideOn (at1 0x70000 0)).cachedBy 0 (0x10000000000 / 128) = false ∧
    (wideOn (at1 0x80008 0)).cachedBy 0 (0x100000000008 / 128) = false ∧
    (wideOn (at1 0x80008 0)).portOf (fabricWindow 0x100000000008) = some 1 ∧
    (wideOn (at1 0x80008 0)).pbridOf (fabricWindow 0x100000000008) = 5 ∧
    ((wideOn (at1 0x80008 0)).ports.get 1 Port.reset).up = true :=
  ⟨ready_of rfl rfl rfl rfl, ready_of rfl rfl rfl rfl, by decide⟩

theorem witness_AccessFaultsTrap :
    ready .S (on (at1 0x20001 0)) ∧
    ready .S (on (at1 0x50000 0)) ∧
    ready .S (on (at1 0x40000 0)) ∧
    ready .S (on (at1 0x10000 0)) ∧
    ((loadRule (.ldHU t0 3 1 0)).isSome = true ∧ (storeRule (.stB t0 2 1 0)).isSome = true) ∧
    ((on (at1 0x20001 0)).me.getX 1 + (0 : BitVec 12).signExtend 64).toNat % 2 ≠ 0 ∧
    (on (at1 0x50000 0)).locate needR 0x50000 = .error 0x06 ∧ (on (at1 0x40000 0)).locate needR 0x40000 = .error 0x07 ∧
    (on (at1 0x10000 0)).locate needW 0x10000 = .error 0x07 ∧
    (∀ e ∈ ((on (at1 0x50000 0)).part 0).active, e.2.maps 0x50000 = false) ∧
    ((on (at1 0x40000 0)).part 0).active.find? (fun x => x.2.maps 0x40000) = some (3, entryAt 0x40000 0x20 0x30000) ∧
    (entryAt 0x40000 0x20 0x30000).r = false ∧ (entryAt 0x40000 0x20 0x30000).w = false :=
  ⟨ready_of rfl rfl rfl rfl, ready_of rfl rfl rfl rfl, ready_of rfl rfl rfl rfl, ready_of rfl rfl rfl rfl, ⟨rfl, rfl⟩,
    by decide, rfl, rfl, rfl, by decide⟩

/-- Peer memory at 0x90000. -/
def peered : Part := { wide with active := wide.active ++ [(8, { entryAt 0x90000 0xC3 0 with w2 := 0x200000000000 })] }

theorem witness_AccessFaultsTrap_atomics :
    (∀ a ∈ [(0x20004 : Word), 0x50000, 0x40000, 0x60008, 0xA8000, 0x90000], ready .S (onPart peered (at1 a 0))) ∧
    (amoRule (.amoAdd t0 3 1 2 0 1)).isSome = true ∧ 0x20004 % 8 ≠ 0 ∧
    (∀ e ∈ ((onPart peered (at1 0x50000 0)).part 0).active, e.2.maps 0x50000 = false) ∧
    (∀ a ∈ [0x40000, 0x60008, 0xA8000, 0x90000], a % 8 = 0 ∧ (peered.active.find? (fun x => x.2.maps a)).isSome = true) ∧
    (peered.active.find? (fun x => x.2.maps 0xA8000)).map (fun e => e.2.win) = some true ∧
    (peered.active.find? (fun x => x.2.maps 0x60008)).map (fun e => e.2.win) = some true ∧
    (match (onPart peered (at1 0x90000 0)).placeOf 0 { entryAt 0x90000 0xC3 0 with w2 := 0x200000000000 } 0x90000 with
      | .peer _ => true | _ => false) = true ∧
    (onPart peered (at1 0x80000 0)).locate needRW 0x80000 = .error 0x06 ∧ (entryAt 0x80000 0xC2 0).win = false :=
  ⟨fun a h => by fin_cases h <;> exact ready_of rfl rfl rfl rfl, by decide⟩

theorem setInsert_end (l : List Nat) (k : Nat) (h : ∀ a ∈ l, a < k) : setInsert l k = l ++ [k] := by
  induction l with
  | nil => rfl
  | cons a t ih =>
    have ha := h a (by simp)
    simp [setInsert, Nat.ne_of_lt ha, Nat.not_lt.mpr (Nat.le_of_lt ha), ih (fun x hx => h x (by simp [hx]))]

/-- A node whose staged bytes lie in n sectors, from address 0 on. -/
def crowded (n : Nat) : Node := { core0.node with staged := (List.range n).map (fun i => (16 * i, 0)) }

theorem crowded_sectors (n : Nat) : (crowded n).stagedSectors = List.range n := by
  unfold Node.stagedSectors crowded
  induction n with
  | zero => rfl
  | succ n ih =>
    rw [List.range_succ, List.map_append, List.foldl_append]
    simp only [List.map_cons, List.map_nil, List.foldl_cons, List.foldl_nil]
    rw [ih, setInsert_end _ _ (fun a ha => by simp at ha; omega)]
    simp

/-- 131,072 staged sectors and one more pass the 2 MiB of a node. -/
theorem witness_AccessFaultsTrap_overflow :
    ready .S (on { at1 0x2FFF8 5 with node := crowded 131072 }) ∧
    (on { at1 0x2FFF8 5 with node := crowded 131072 }).locate needW 0x2FFF8 = .ok { place := .dram 0x1FFF8, direct := false } ∧
    (crowded 131072).stageOverflows (2 ^ 24) 8 = true ∧ (crowded 131072).stageOverflows 0x1FFF8 8 = false := by
  refine ⟨ready_of rfl rfl rfl rfl, rfl, ?_, ?_⟩ <;> unfold Node.stageOverflows <;> rw [crowded_sectors] <;>
    simp [sectorsOf]


theorem witness_StoresWriteTheirBytes :
    ready .S (on (at1 0x30008 5)) ∧
    ready .S (on (at1 0x20008 5)) ∧
    ready .S (on (at1 0xFFFFFFFFFFF80000 5)) ∧
    (storeRule (.stD t0 2 1 0)).isSome = true ∧
    (on (at1 0x30008 5)).locate needW 0x30008 = .ok { place := .dram 0x20008, direct := true } ∧
    (on (at1 0x20008 5)).locate needW 0x20008 = .ok { place := .dram 0x10008, direct := false } ∧
    (on (at1 0xFFFFFFFFFFF80000 5)).locate needW 0xFFFFFFFFFFF80000 = .ok { place := .scratch 0, direct := false } ∧
    (on (at1 0x20008 5)).overflows { place := .dram 0x10008, direct := false } 8 = false ∧
    (on (at1 0x20008 5)).accessWaits (.dram 0x10008) = false ∧ (on (at1 0x20008 5)).hostGone (.dram 0x10008) = false :=
  ⟨ready_of rfl rfl rfl rfl, ready_of rfl rfl rfl rfl, ready_of rfl rfl rfl rfl, rfl, ⟨rfl, rfl, rfl, by decide⟩⟩


theorem witness_StoresWriteTheirBytes_window :
    ready .S (wideOn (at1 0x60008 5)) ∧
    (wideOn (at1 0x60008 5)).locate needW 0x60008 = .ok { place := .window 0 8, direct := true } ∧
    (wideOn (at1 0x60008 5)).accessWaits (.window 0 8) = false ∧ (wideOn (at1 0x60008 5)).hostGone (.window 0 8) = false ∧
    (wideOn (at1 0x60008 5)).overflows { place := .window 0 8, direct := true } 8 = false ∧
    (wideOn (at1 0x60008 5)).me.dataBrk 0x60008 8 = none :=
  ⟨ready_of rfl rfl rfl rfl, by decide⟩

theorem witness_AtomicsReadModifyWrite :
    ready .S (on (at1 0x20008 5)) ∧
    ready .S (on (at1 0x30008 5)) ∧
    (amoRule (.amoCas t0 3 1 2 0 1)).isSome = true ∧
    (on (at1 0x20008 5)).locate needRW 0x20008 = .ok { place := .dram 0x10008, direct := false } ∧
    (on (at1 0x30008 5)).locate needRW 0x30008 = .ok { place := .dram 0x20008, direct := true } ∧
    0x10008 / 16 ∉ ((on (at1 0x20008 5)).askPlace 0 8 (.dram 0x10008)).poison ∧ (on (at1 0x20008 5)).me.dataBrk 0x20008 8 = none ∧
    (on (at1 0x20008 5)).accessWaits (.dram 0x10008) = false :=
  ⟨ready_of rfl rfl rfl rfl, ready_of rfl rfl rfl rfl, rfl, ⟨rfl, rfl, by decide⟩⟩


theorem witness_AtomicsReadModifyWrite_away :
    (∀ a ∈ [(0xFFFFFFFFFFFFFFF8 : Word), 0x70008, 0x80008], ready .S (wideOn (at1 a 5))) ∧
    (wideOn (at1 0 5)).locate needRW 0xFFFFFFFFFFFFFFF8 = .ok { place := .scratch 0x7FFF8, direct := false } ∧
    (wideOn (at1 0x70008 5)).locate needRW 0x70008 = .ok { place := .host 0x10000000008, direct := false } ∧
    (wideOn (at1 0x80008 5)).locate needRW 0x80008 = .ok { place := .pool 0x100000000008, direct := false } ∧
    (∀ q ∈ [Place.host 0x10000000008, .pool 0x100000000008], (wideOn (at1 0x70008 5)).accessWaits q = false ∧
      (wideOn (at1 0x70008 5)).hostGone q = false) ∧ (wideOn (at1 0x70008 5)).me.dataBrk 0x70008 8 = none ∧
    (wideOn (at1 0x70008 5)).poison = [] ∧ core0.winPoison = [] :=
  ⟨fun a h => by fin_cases h <;> exact ready_of rfl rfl rfl rfl, by decide⟩

/-- A hint whose line can be asked for, and one whose port changes its width with its queue full or not. -/
theorem witness_CacheHintsComplete_pref :
    (on (at1 0x20000 0)).gate 0 (homePlace (128 * 0x200)) = .clear ∧ (on (at1 0x20000 0)).admits 0 0x200 = true ∧
    (on (at1 0x20000 0)).accepts .clear = true ∧ (on (at1 0x70000 0)).admits 0 (0x10000000000 / 128) = false ∧
    ({ on (at1 0x20000 0) with migration := { (on core0).migration with st := .blocked, src := 1, dst := 9 } } : State).gate 0
      (homePlace (128 * 0x200)) = .page ∧
    ({ on core0 with migration := { (on core0).migration with st := .blocked, queue := List.replicate 256 (.hostLine 0) } } : State).accepts
      .page = false := by decide

theorem witness_CacheHintsComplete :
    ready .S (on (at1 0x50000 0)) ∧
    ready .S (on (at1 0x20000 0)) ∧
    ready .S (on (at1 0xFFFFFFFFFFF80000 0)) ∧
    (on (at1 0x50000 0)).sampleLine 0x50000 = none ∧ (on (at1 0x50000 0)).locate needR 0x50000 = .error 0x06 ∧
    (on (at1 0x20000 0)).sampleLine 0x20000 = some 0x200 ∧ sliceOf 0 0x200 ≠ none ∧
    ((on (at1 0x40000 0)).entryOf 0 0x40000).map RangeEntry.r = some false ∧
    aliasBase ≤ ((on (at1 0xFFFFFFFFFFF80000 0)).me.getX 1 + (0 : BitVec 12).signExtend 64).toNat :=
  ⟨ready_of rfl rfl rfl rfl, ready_of rfl rfl rfl rfl, ready_of rfl rfl rfl rfl, by
  refine ⟨rfl, rfl, rfl, ?_⟩; decide⟩


/-- Counter 5, armed by partition 0 at phase 3, with a region of device memory at 0x30000. -/
def counting : Counter :=
  { Counter.reset with
    armed := true, phase := 3, total := 32, count := 16, vbase := 0x30000, vlen := 1024,
    lines := [0x400, 0x401, 0x402, 0x403, 0x404, 0x405, 0x406, 0x407] }

/-- The machine with counter 5. -/
def onCounter (k : Core) : State := { on k with counters := [(5, counting)] }

theorem witness_CountersAndBarrierComplete :
    ready .S (onCounter (withX core0 [(1, 5), (2, 3)])) ∧
    ready .S (onCounter (withX core0 [(1, 5), (2, 4)])) ∧
    (onCounter (withX core0 [(1, 5), (2, 3)])).counterCheckArmed 0 5 = none ∧
    reached ((onCounter (withX core0 [(1, 5), (2, 3)])).counter 5).phase 3 = true ∧
    reached ((onCounter (withX core0 [(1, 5), (2, 4)])).counter 5).phase 4 = false :=
  ⟨ready_of rfl rfl rfl rfl, ready_of rfl rfl rfl rfl, by decide⟩


theorem witness_CountersAndBarrierComplete_bar :
    ready .S (onCounter (at1 0x30010 (3 * 2 ^ 32 + 5))) ∧
    ready .S (onCounter (at1 0x30010 (4 * 2 ^ 32 + 5))) ∧
    (onCounter (at1 0x30010 (3 * 2 ^ 32 + 5))).barCheck 0x30010 (3 * 2 ^ 32 + 5) = .pass ∧
    (onCounter (at1 0x30010 (4 * 2 ^ 32 + 5))).barCheck 0x30010 (4 * 2 ^ 32 + 5) = .pass ∧
    (onCounter (at1 0x30010 (4 * 2 ^ 32 + 5))).mem.readNat 0x20010 4 ≠ 4 ∧
    (onCounter (at1 0x30010 (4 * 2 ^ 32 + 5))).accessWaits (.dram 0x20010) = false :=
  ⟨ready_of rfl rfl rfl rfl, ready_of rfl rfl rfl rfl, by decide⟩


/-! ## Witnesses: control registers, traps, walks and solves -/

theorem witness_ClockFenceSnapEnd : ready .S (on core0) := ready_of rfl rfl rfl rfl

theorem witness_ClassRequests :
    ready .S (on (withX core0 [(1, 0)])) ∧
    ready .S (on (withX core0 [(1, 1)])) ∧
    ready .S (on (withX core0 [(1, 7)])) ∧
    ready .S (on (withX core0 [(1, 8)])) ∧
    ((on (withX core0 [(1, 0)])).me.getX 1).toNat ≤ (on (withX core0 [(1, 0)])).me.grant.toNat ∧
    (on (withX core0 [(1, 1)])).me.grant.toNat < ((on (withX core0 [(1, 1)])).me.getX 1).toNat ∧
    ((on (withX core0 [(1, 7)])).me.getX 1).toNat ≤ 7 ∧ 7 < ((on (withX core0 [(1, 8)])).me.getX 1).toNat :=
  ⟨ready_of rfl rfl rfl rfl, ready_of rfl rfl rfl rfl, ready_of rfl rfl rfl rfl, ready_of rfl rfl rfl rfl, by decide⟩


theorem witness_ControlRegisterReads :
    ready .S (on core0) ∧
    WellFormed.crListed 0x064 = true ∧ crReadable true 0x064 = true ∧ crReadable false 0x050 = true ∧
    WellFormed.crListed 0x065 = false ∧ WellFormed.crListed 0x04F = false ∧ crReadable false 0x011 = false ∧
    crReadable false 0x010 = true ∧ (on core0).config.variant = .tb640 ∧
    ({ on core0 with config := { Config.Record.default with variant := .tb512 } } : State).config.variant = .tb512 ∧
    ({ on core0 with config := { Config.Record.default with variant := .tb384 } } : State).config.variant = .tb384 :=
  ⟨ready_of rfl rfl rfl rfl, by decide⟩


theorem witness_ControlRegisterWrites :
    ready .S (on core0) ∧
    WellFormed.crListed 0x05F = true ∧ crWritable false 0x05F = true ∧
    (on core0).me.slotRefused 15 0x8000000000080000 = false ∧ (on core0).me.slotRefused 0 0x8000000000000000 = true ∧
    WellFormed.crListed 0x000 = true ∧ crWritable false 0x000 = false ∧ crWritable false 0x010 = false ∧
    ({ core0 with lslt := tab 16 (fun n => if n = 3 then 0x8000000000080000 else 0) } : Core).slotRefused 4 0x8000000000080000 = true ∧
    ({ core0 with lslt := tab 16 (fun n => if n = 3 then 0x8000000000080000 else 0) } : Core).slotRefused 4 0x8000000000080010 = false :=
  ⟨ready_of rfl rfl rfl rfl, by decide⟩


/-- A node whose handler runs, after a trap with a cause on a strand. -/
def handling (cause : BitVec 8) (st : Strand) : State :=
  on { core0 with
    sup := true, tvec := 0x10000,
    node := { core0.node with phase := .handler, trapper := st, trap := some { cause := cause, tval := 0, tepc := 0x10010 } } }

theorem witness_EretReturns :
    ready .S (on core0) ∧
    (handling 0x13 .V).me.sup = true ∧
    (handling 0x13 .V).me.node.trap = some { cause := 0x13, tval := 0, tepc := 0x10010 } ∧ programError 0x13 = false ∧
    programError 0x06 = true ∧ (handling 0x13 .V).Issues .S t0 (handling 0x13 .V) :=
  ⟨ready_of rfl rfl rfl rfl, ⟨rfl, rfl, by decide, by decide, witness_issues _ rfl⟩⟩


theorem witness_TrapInstructionTraps :
    ready .S (on core0) ∧
    ((aluRule (.add ⟨1, 0⟩ 3 1 2)).isSome = true ∧ (fpRule (.fsqrt ⟨0, 1⟩ 0 1 1)).isSome = true) ∧
    (handling 0x13 .S).me.sup = true ∧ (handling 0x13 .S).me.node.phase = .handler ∧
    (⟨1, 0⟩ : Tok).pop ≠ 0 ∧ (on { core0 with node := { core0.node with handler := false } }).me.node.handler = false :=
  ⟨ready_of rfl rfl rfl rfl, ⟨rfl, rfl⟩, by decide⟩


/-- A walk of 8 points, one direct tile of 128 bytes for each at 0x20400, its bitmap at 0x30000. -/
def walkBytes : List Byte :=
  leBytes 4 8 ++ [1, 1, 0, 0] ++ leBytes 8 0 ++ leBytes 8 0x30000 ++ leBytes 8 0 ++ leBytes 8 0x20400 ++ leBytes 8 128 ++ leBytes 4 128
    ++ List.replicate 76 0

/-- The machine with that descriptor at 0x20000, and point 2 visited. -/
def walking (k : Core) (w : Table Walk) : State :=
  { on k with mem := Memory.writeBytes (Memory.write [] 0x20000 4) 0x10000 walkBytes, walks := w }

/-- An open walk of partition 0 and launch 0. -/
def walk0 : Walk := { Walk.reset with state := .opened, desc := walkBytes }

/-- The checks of `wopen` at 0x20000 pass, the descriptor as it is read. -/
def opens (s : State) : Prop :=
  (s.recallVirt 0 0x20000 128).wopenAddr 0x20000 = .pass ∧ ((s.recallVirt 0 0x20000 128).askVirt 0 0x20000 128).wopenRead 0x20000 = .pass

theorem witness_WalkOpens :
    ready .S (walking (at1 0x20000 0) []) ∧
    ready .S (walking (at1 0x20000 0) [(0, walk0), (1, walk0), (2, walk0), (3, walk0)]) ∧
    (walking (at1 0x20000 0) []).late = false ∧ (walking (at1 0x20000 0) []).unitHeld (.wopen t0 3 1) = false ∧
    opens (walking (at1 0x20000 0) []) ∧ (walking (at1 0x20000 0) []).freeContext 0 = some 0 ∧
    opens (walking (at1 0x20000 0) [(0, walk0), (1, walk0), (2, walk0), (3, walk0)]) ∧
    (walking (at1 0x20000 0) [(0, walk0), (1, walk0), (2, walk0), (3, walk0)]).freeContext 0 = none :=
  ⟨ready_of rfl rfl rfl rfl, ready_of rfl rfl rfl rfl, by unfold opens; decide⟩


theorem witness_WalkOpens_recall : (walking (at1 0x20000 0) []).recallVirt 0 0x20000 128 = walking (at1 0x20000 0) [] := rfl

theorem witness_WalkPointsAndItems :
    ready .S (walking (at1 0 0) []) ∧
    ready .S (walking (at1 0 0) [(0, walk0)]) ∧
    ready .S (walking (at1 0 0) [(0, { walk0 with state := .closed })]) ∧
    ready .S (walking (at1 0 0) [(0, { walk0 with forced := [3] })]) ∧
    (walking (at1 0 0) [(0, walk0)]).late = false ∧ (walking (at1 0 0) [(0, walk0)]).unitHeld (.wnext t0 3 1) = false ∧
    (walking (at1 0 0) [(0, walk0)]).wnextCheck 0 = .pass ∧ ((walking (at1 0 0) [(0, walk0)]).walk (walkKey 0)).state ≠ .closed ∧
    (walking (at1 0 0) [(0, { walk0 with state := .closed })]).wnextCheck 0 = .pass ∧
    ((walking (at1 0 0) [(0, { walk0 with state := .closed })]).walk (walkKey 0)).state = .closed ∧
    ((walking (at1 0 0) []).walk (walkKey 0)).state = .free ∧
    ((walking (at1 0 0) [(0, { walk0 with forced := [3] })]).walk (walkKey 0)).forced = [3] ∧
    ((walking (at1 0 0) [(0, { walk0 with forced := [3] })]).walk (walkKey 0)).deferrals = [] :=
  ⟨ready_of rfl rfl rfl rfl, ready_of rfl rfl rfl rfl, ready_of rfl rfl rfl rfl, ready_of rfl rfl rfl rfl, by decide⟩


/-- Core 0 whose node holds point 4 of walk 0, and point 5 marked. -/
def holding : Core := { at1 0 4 with node := { core0.node with points := [⟨0, 4, false⟩, ⟨0, 5, true⟩] } }

theorem witness_WalkPointsAndItems_done :
    ready .S (on holding) ∧
    (∃ e ∈ (on holding).me.node.points, e.handle = ((on holding).me.getX 1).toNat ∧ e.point = ((on holding).me.getX 2).toNat ∧
      e.done = false) ∧
    (∀ e ∈ (on holding).me.node.points, e.handle = 0 → e.point = 5 → e.done = true) :=
  ⟨ready_of rfl rfl rfl rfl, by decide⟩


/-- A stage whose input is queue 0 and whose one output is queue 1, two items a node. -/
def stage0 : Stage :=
  { input := 0, outs := [(1, 2)], long := false, kind := .core, k := 1, min := 0, max := 4, weight := 1, aging := 0,
    secs := [(0x10000, 0x100), (0x10000, 0x100), (0x10000, 0x100), (0x10000, 0x100)] }

/-- A launch that runs that stage. -/
def launch0 : Launch :=
  { state := .running, prio := 0, declared := 0, solve := false, coll := false, cores := 1, fports := 0, stages := [stage0], queues := [0, 1], ctrs := [],
    init := [], done := 0, committed := 0, quiet := none }

/-- A queue of launch 0 with slots in given conditions. -/
def queueOf (sts : List SlotSt) : Queue :=
  { launch := 0, size := 64, ring := 0, nextOrder := 1,
    slots := sts.map (fun x => { st := x, bytes := List.replicate 64 0, late := [], since := 0, order := 0, tries := 0 }) }

/-- Partition 0 with launch 0, its input queue in given conditions, and its output queue with two free slots. -/
def launched (sts : List SlotSt) : Part :=
  { part0 with launches := [(0, launch0)], queues := [(0, queueOf sts), (1, queueOf [.free, .free])] }

theorem witness_WalkPointsAndItems_items :
    ready .S (onPart (launched [.taken]) (at1 0x7FFC0 0)) ∧
    ready .S (onPart (launched [.taken]) { at1 0 0 with node := { core0.node with items := [⟨0, []⟩, ⟨0, []⟩] } }) ∧
    (onPart (launched [.taken]) (at1 0x7FFC0 0)).outs[0]? = some (1, 2) ∧ (onPart (launched [.taken]) (at1 0x7FFC0 0)).outSize 0 = 64 ∧
    0x7FFC0 + (onPart (launched [.taken]) (at1 0x7FFC0 0)).outSize 0 ≤ 0x80000 ∧ 0x80000 < 0x7FFD0 + 64 ∧
    (onPart (launched [.taken]) (at1 0x7FFC0 0)).outs[1]? = none ∧
    (onPart (launched [.taken]) { at1 0 0 with node := { core0.node with items := [⟨0, []⟩, ⟨0, []⟩] } }).me.node.items.length = 2 :=
  ⟨ready_of rfl rfl rfl rfl, ready_of rfl rfl rfl rfl, by
  decide⟩


/-- A block-sparse matrix of one block, and a solve record of 64 unknowns for stack 0. -/
def matrixBytes : List Byte :=
  leBytes 4 1 ++ leBytes 4 1 ++ leBytes 8 0x20100 ++ leBytes 8 0x20200 ++ leBytes 8 0x24000 ++ List.replicate 32 0
def solveBytes : List Byte :=
  [1, 0, 0, 0, 2, 0] ++ leBytes 2 1 ++ leBytes 4 64 ++ leBytes 4 1 ++ leBytes 8 0 ++ leBytes 8 0 ++ leBytes 8 0x20000 ++ leBytes 4 0
    ++ leBytes 2 5 ++ leBytes 2 0 ++ leBytes 8 0x20800 ++ leBytes 8 0x32000 ++ leBytes 8 0x33000 ++ leBytes 8 0x2000 ++ List.replicate 48 0

/-- The machine with that record at 0x31000 and counter 5 over its status line. -/
def solving (v : Table Solver) : State :=
  { on (at1 0x31000 0) with
    mem := Memory.writeBytes (Memory.writeBytes [] 0x10000 matrixBytes) 0x21000 solveBytes, solvers := v,
    counters := [(5, { counting with vbase := 0x31080, vlen := 128 })] }

/-- The checks of `solve` at 0x31000 pass, the record as it is read. -/
def solves (s : State) : Prop :=
  (s.solveRecall 0 0x31000).solveAddr 0x31000 = .pass ∧
    (((s.solveRecall 0 0x31000).solveReads 0 0x31000).foldl (fun b e => b.askVirt 0 e.1 e.2) (s.solveRecall 0 0x31000)).solveRead 0x31000 = .pass

theorem witness_SolveAcceptsOrRefuses :
    ready .S (solving []) ∧
    ready .S (solving [(0, { Solver.reset with phase := .iterate })]) ∧
    (solving []).late = false ∧
    (solving []).unitHeld (.solve t0 3 1) = false ∧
    Config.solverCount (solving []).config.variant ≠ 0 ∧ solves (solving []) ∧
    svStackList ((solving []).virtBytes 0 0x31000 128) = [0] ∧ ((solving []).solver 0).phase = .idle ∧
    ((solving [(0, { Solver.reset with phase := .iterate })]).solver 0).phase ≠ .idle ∧
    solves (solving [(0, { Solver.reset with phase := .iterate })]) :=
  ⟨ready_of rfl rfl rfl rfl, ready_of rfl rfl rfl rfl, by unfold solves; decide⟩

theorem witness_SolveAcceptsOrRefuses_recall : (solving []).solveRecall 0 0x31000 = solving [] := rfl


/-! ## Witnesses: vector instructions -/

/-- A vector register under a tag. -/
def vreg (tag : BitVec 4) (f : Nat → Lane) : VReg := { lanes := tab 64 f, tag := tag }

/-- A core with vector registers set. -/
def withV (l : List (BitVec 5 × VReg)) : Core := l.foldl (fun k e => k.setV e.1 e.2) core0

/-- v1 holds 1.0 in each lane, v2 holds 2.0, under F32. -/
def floats : Core := withV [(1, vreg 7 (fun _ => 0x3F800000)), (2, vreg 7 (fun _ => 0x40000000)), (3, vreg 1 (fun i => BitVec.ofNat 32 i))]

theorem witness_VectorResultsComplete :
    (∃ r, vRow (.vadd t0 4 1 2 0 0 0) = some r ∧ srcChecks (r.srcs floats) = .pass ∧ (on floats).powerCheck (r.cost floats) = .pass) ∧
    (on floats).Issues .V t0 (on floats) ∧ (on floats).me.chainBroken (.vadd t0 4 1 2 0 0 0) t0 = false :=
  ⟨⟨_, rfl, by decide, by decide⟩, witness_issues _ rfl, by decide⟩

theorem witness_VectorSourcesChecked :
    readyV (.vadd t0 4 0 2 0 0 1) (on floats) ∧
    readyV (.vadd t0 4 1 2 0 0 0) (on (withV [(1, vreg 15 (fun _ => 0))])) ∧
    readyV (.vadd t0 4 1 3 0 0 0) (on floats) ∧
    (on core0).vInside = none ∧
    (∃ r e, vRow (.vadd t0 4 0 2 0 0 1) = some r ∧ (r.srcs floats).find? (fun e => e.1.cleared) = some e) ∧
    (∃ r, vRow (.vadd t0 4 1 2 0 0 0) = some r ∧
      ((r.srcs (withV [(1, vreg 15 (fun _ => 0))])).find? (fun e => e.1.val.tag == 0xF)).isSome = true ∧
      (∀ x ∈ r.srcs (withV [(1, vreg 15 (fun _ => 0))]), x.1.cleared = false)) ∧
    (∃ r, vRow (.vadd t0 4 1 3 0 0 0) = some r ∧ ((r.srcs floats).find? (fun e => !e.2.contains e.1.val.tag.toNat)).isSome = true ∧
      (∀ x ∈ r.srcs floats, x.1.cleared = false ∧ x.1.val.tag ≠ 0xF)) :=
  ⟨readyV_of rfl rfl rfl rfl (by decide), readyV_of rfl rfl rfl rfl (by decide), readyV_of rfl rfl rfl rfl (by decide), ⟨by decide, ⟨_, _, rfl, rfl⟩, ⟨_, rfl, by decide, by decide⟩, ⟨_, rfl, by decide, by decide⟩⟩⟩


theorem witness_MaskInstructionsComplete :
    readyV (.vcmpLt t0 3 1 2 0 0) (on floats) ∧
    readyV (.knot t0 7 1) (on floats) ∧
    (∃ t kd srcs cost f, kRow (.vcmpLt t0 3 1 2 0 0) = some (t, kd, srcs, cost, f) ∧ srcChecks (srcs floats) = .pass ∧
      (on floats).powerCheck (cost floats) = .pass) ∧ (kRow (.knot t0 7 1)).isSome = true ∧
    decode .V (encode (.knot t0 7 1)) = .ok (.knot t0 7 1) :=
  ⟨readyV_of rfl rfl rfl rfl (by decide), readyV_of rfl rfl rfl rfl (by decide), ⟨⟨_, _, _, _, _, rfl, by decide, by decide⟩, rfl, rfl⟩⟩


theorem witness_ConversionsComplete :
    readyV (.vcvt t0 1 4 1 8 0 0 0) (on floats) ∧
    readyV (.vcvt t0 0 4 5 7 0 0 0) (on floats) ∧
    readyV (.vcvt t0 0 4 1 4 0 0 0) (on (withV [(1, vreg 12 (fun _ => 2))])) ∧
    (∃ r, cvtRow (.vcvt t0 1 4 1 8 0 0 0) = some r ∧ r.dst.toNat < 14 ∧ srcChecks [(r.src floats, tagsAny)] = .pass ∧
      cvtPair 7 r.dst.toNat = true ∧ r.part < max (tagCount 7) (tagCount r.dst.toNat) / min (tagCount 7) (tagCount r.dst.toNat) ∧
      (on floats).powerCheck (max (chargeOf 7) (chargeOf r.dst.toNat)) = .pass ∧
      cvtReserved (floats.getK 0) (r.src floats).val r.dst.toNat r.part = false) ∧
    (∃ r, cvtRow (.vcvt t0 0 4 5 7 0 0 0) = some r ∧ (r.src floats).val.tag.toNat = 0 ∧ r.part = 0) ∧
    (∃ r, cvtRow (.vcvt t0 0 4 1 4 0 0 0) = some r ∧ r.dst = 4 ∧
      cvtReserved (floats.getK 0) (vreg 12 (fun _ => 2)) 4 0 = true ∧ cvtPair 12 4 = true) ∧ cvtPair 6 12 = false :=
  ⟨readyV_of rfl rfl rfl rfl (by decide), readyV_of rfl rfl rfl rfl (by decide), readyV_of rfl rfl rfl rfl (by decide), ⟨⟨_, rfl, by decide⟩, ⟨_, rfl, by decide⟩, ⟨_, rfl, by decide⟩, by decide⟩⟩


/-- v1 holds an offset in lane 0 and offsets of words in the others. -/
def offsets (o : Nat) : Core := withV [(1, vreg 1 (fun i => BitVec.ofNat 32 (o + 4 * i))), (2, vreg 7 (fun _ => 0x40000000))]

theorem witness_ScratchpadAccessesComplete :
    readyV (.vld t0 4 1 7 0 0 0) (on (offsets 0x7FF00)) ∧
    readyV (.vld t0 4 1 7 0 0 0) (on (offsets 0x7FF10)) ∧
    readyV (.vgath t0 4 1 12 0 0 0) (on (offsets 0)) ∧
    readyV (.vscat t0 1 2 0 0) (on (offsets 0)) ∧
    (∃ r, spLoad (.vld t0 4 1 7 0 0 0) = some r ∧ srcChecks [(r.src (offsets 0x7FF00), tagsWord)] = .pass ∧
      (∀ n, n < 64 → r.at_ (r.src (offsets 0x7FF00)).val n + 4 ≤ 0x80000) ∧
      r.at_ (r.src (offsets 0x7FF00)).val 0 % r.align = 0 ∧ 0x80000 < r.at_ (r.src (offsets 0x7FF10)).val 60 + 4 ∧
      (∀ x, x < 60 → r.at_ (r.src (offsets 0x7FF10)).val x + 4 ≤ 0x80000)) ∧
    (∃ r, spLoad (.vgath t0 4 1 12 0 0 0) = some r ∧ t2Reserved 2 = true ∧
      ∀ n, n < 64 → r.at_ (r.src (offsets 0)).val n % r.align = 0) ∧
    (∃ r, spStore (.vscat t0 1 2 0 0) = some r ∧ srcChecks [(r.addr (offsets 0), tagsWord), (r.data (offsets 0), tagsAny)] = .pass ∧
      r.at_ (r.addr (offsets 0x7FF00)).val 63 + 4 = 0x80000) ∧ (on (offsets 0)).powerCheck 30 = .pass :=
  ⟨readyV_of rfl rfl rfl rfl (by decide), readyV_of rfl rfl rfl rfl (by decide), readyV_of rfl rfl rfl rfl (by decide), readyV_of rfl rfl rfl rfl (by decide), ⟨⟨_, rfl, by decide⟩, ⟨_, rfl, by decide⟩, ⟨_, rfl, by decide⟩, by decide⟩⟩


/-- A poisoned sector is met before and after the M strand has set PSNA in the cycle. -/
theorem witness_ScratchpadAccessesComplete_poison :
    readyV (.vld t0 4 1 7 0 0 0) (on { offsets 0x7FF00 with winPoison := [0x7FF1] }) ∧
    readyV (.vld t0 4 1 7 0 0 0) (on { offsets 0x7FF00 with winPoison := [0x7FF1], now := { Now.none with mPoison := true } }) ∧
    (∃ n j, n < 64 ∧ j < 4 ∧ ((0x7FF00 + 4 * n) + j) / 16 ∈ { offsets 0x7FF00 with winPoison := [0x7FF1] }.winPoison) ∧
    core0.now.mPoison = false :=
  ⟨readyV_of rfl rfl rfl rfl (by decide), readyV_of rfl rfl rfl rfl (by decide), ⟨4, 0, by decide⟩, rfl⟩

/-- v1 holds a virtual address in lanes 0 and 1. -/
def virt (a : Nat) : Core :=
  withV [(1, vreg 1 (fun i => if i = 0 then BitVec.ofNat 32 a else if i = 1 then BitVec.ofNat 32 (a / 2 ^ 32) else 0)), (2, vreg 7 (fun _ => 5))]

theorem witness_VectorDeviceAccessesComplete :
    readyV (.vldm t0 4 1 7 0 0 0) (on (virt 0x20000)) ∧
    readyV (.vstm t0 1 2 0 0) (on (virt 0x3FF00)) ∧
    srcChecks [((on (virt 0x20000)).me.va1 1 0, tagsWord)] = .pass ∧ (on (virt 0x20000)).powerCheck 90 = .pass ∧
    (∀ n, n < 64 → (match (on (virt 0x20000)).locate needR (laneVirt 0x20000 n) with
      | .ok { place := .dram pa, direct := _ } => pa == 0x10000 + 4 * n && !(on (virt 0x20000)).accessWaits (.dram pa)
      | _ => false) = true) ∧
    (∀ n, n < 64 → (match (on (virt 0x3FF00)).locate needW (laneVirt 0x3FF00 n) with
      | .ok { place := .dram pa, direct := d } => pa == 0x2FF00 + 4 * n && d && !(on (virt 0x3FF00)).accessWaits (.dram pa)
      | _ => false) = true) ∧
    (on (virt 0x3FF00)).vmemCheck needW 0x3FF00 (BitVec.allOnes 64) = .pass :=
  ⟨readyV_of rfl rfl rfl rfl (by decide), readyV_of rfl rfl rfl rfl (by decide), by decide⟩


theorem witness_VectorDeviceAccessesComplete_recall :
    (on (virt 0x20000)).askPlaces 0 ((List.range 64).map (fun n => .dram (0x10000 + 4 * n))) = on (virt 0x20000) := by decide

/-- Palette 0 and 1: n as FP32 for n from 0, strictly ascending, valid. -/
def palettes (k : Core) : Core :=
  { k with pals := tab 2 (fun _ => { entries := tab 256 (fun n => BitVec.ofNat 32 (Fmt.f32.round .rne (FVal.ofInt n))), valid := true, checking := false }) }

/-- v1 names elements at 0x1000 and scales at 0x4000. -/
def stored : Core := withV [(1, vreg 1 (fun i => if i = 0 then 0x1000 else if i = 1 then 0x4000 else 0)), (2, vreg 7 (fun _ => 0x40000000))]

theorem witness_StorageFormatsConvert :
    readyV (.vldf t0 4 1 0x14 0 0 0) (on stored) ∧
    readyV (.vldf t0 4 1 9 0 0 0) (on (palettes stored)) ∧
    srcChecks [(stored.va1 1 0, tagsWord)] = .pass ∧ Instr.wellFormed (.vldf t0 4 1 0x14 0 0 0) = true ∧
    spRange (mxSpans 4 true (stored.getK 0) 0x1000 0x4000) = .pass ∧
    (∀ b ∈ mxBlocks (mxElems true (stored.getK 0)), ∀ p ∈ mxPadding 4 b, stored.window.read (0x1000 + p) = 0) ∧
    Instr.wellFormed (.vldf t0 4 1 9 0 0 0) = true ∧ spRange (q8Spans false (stored.getK 0) 0x1000 0x4000) = .pass ∧
    badMax 0x3F800000 = false ∧ ((palettes stored).getPal 1).valid = true :=
  ⟨readyV_of rfl rfl rfl rfl (by decide), readyV_of rfl rfl rfl rfl (by decide), by decide⟩


theorem witness_StorageFormatsConvert_store :
    readyV (.vstf t0 5 1 2 0 0) (on stored) ∧
    Instr.wellFormed (.vstf t0 5 1 2 0 0) = true ∧ srcChecks [(stored.va 1 0, tagsWord), (stored.vb 2 0, [7, 8])] = .pass ∧
    spRange (mxSpans 5 false (-1) 0x1000 0x4000) = .pass ∧ 0x1000 + mxStride 5 * (tagCount 7 / 32) ≤ 0x4000 :=
  ⟨readyV_of rfl rfl rfl rfl (by decide), by decide⟩


theorem witness_PalettesLoad :
    readyV (.vpal t0 1 0 0) (on (offsets 0x7FC00)) ∧
    srcChecks [((offsets 0x7FC00).va1 1 0, tagsWord)] = .pass ∧ (on (offsets 0x7FC00)).powerCheck 120 = .pass ∧
    (((offsets 0x7FC00).va1 1 0).val.lane 0).toNat + 1024 ≤ 0x80000 ∧ (((offsets 0x7FC00).va1 1 0).val.lane 0).toNat % 128 = 0 :=
  ⟨readyV_of rfl rfl rfl rfl (by decide), by decide⟩


theorem witness_PalettesLoad_check :
    (({ palettes core0 with pals := vmap (palettes core0).pals (fun x => { x with valid := false, checking := true }) } : Core).getPal 1).checking = true := by
  decide

theorem witness_OptimizerHelpersComplete_vqenc :
    readyV (.vqenc t0 4 1 2 0 0 0) (on (palettes floats)) ∧
    readyV (.vqencPal1 t0 4 1 2 0 0 0) (on floats) ∧
    srcChecks [((palettes floats).va 1 0, [7]), ((palettes floats).vb 2 0, [7])] = .pass ∧ (on (palettes floats)).powerCheck 150 = .pass ∧
    ((palettes floats).getPal 0).checking = false ∧ badMax 0x40000000 = false ∧ badMax 0xBF800000 = true ∧ (floats.getPal 0).valid = false :=
  ⟨readyV_of rfl rfl rfl rfl (by decide), readyV_of rfl rfl rfl rfl (by decide), by
  decide⟩


/-- The register group of `vadam` at v4, its gradient in v1 and its codes in v2. -/
def adam : Core :=
  palettes (withV [(1, vreg 7 (fun _ => 0x3F800000)), (2, vreg 13 (fun _ => 0)), (4, vreg 7 (fun _ => 0)), (5, vreg 7 (fun _ => 0)),
    (7, vreg 7 (fun _ => 0x3F800000)), (8, vreg 7 (fun _ => 0))])

theorem witness_OptimizerHelpersComplete_vadam :
    readyV (.vadam t0 4 1 2 0 0) (on adam) ∧
    readyV (.vadam t0 5 1 2 0 0) (on adam) ∧
    srcChecks [(adam.va 1 0, [7]), (adam.vb 2 0, [13]), (⟨adam.getV 4, 0, false⟩, [7]), (⟨adam.getV (groupReg 4 3), 3, false⟩, [7])] = .pass ∧
    srcChecks [(adam.va 1 0, [7]), (adam.vb 2 0, [13]), (⟨adam.getV 5, 0, false⟩, [7]), (⟨adam.getV (groupReg 5 3), 3, false⟩, [7])] = .pass ∧
    badMax ((adam.getV (groupReg 4 3)).lane 9).toNat = false ∧ (adam.getPal 0).valid = true ∧ (adam.getPal 1).valid = true :=
  ⟨readyV_of rfl rfl rfl rfl (by decide), readyV_of rfl rfl rfl rfl (by decide), by decide⟩


theorem witness_OptimizerHelpersComplete_lossScale :
    readyV (.vovf t0 1 0 0) (on floats) ∧
    readyV (.vlsc t0) (on floats) ∧
    srcChecks [(floats.va1 1 0, [6, 7, 8, 9, 10, 11])] = .pass ∧ (lscStep 0x00000000000F0000 false).isSome = true ∧
    (lscStep 0x00000000000F0000 true).isSome = true ∧ (lscStep 0x70000000000F0000 true).isNone = true ∧ (on floats).powerCheck 20 = .pass :=
  ⟨readyV_of rfl rfl rfl rfl (by decide), readyV_of rfl rfl rfl rfl (by decide), by
  decide⟩


theorem witness_LoopsAndStreamEnd :
    readyV (.nendV t0) (on core0) ∧
    readyV (.nendV t0) (on { core0 with loops := [⟨0x10004, 0x10008, 2⟩] }) ∧
    readyV (.nendV t0) (on { core0 with loops := [⟨0x10004, 0x10008, 2⟩, ⟨0x10000, 0x1000C, 1⟩] }) ∧
    ¬ ((on core0).me.strand .V).secBase + ((on core0).me.strand .V).secLen < ((on core0).me.strand .V).pc.toNat + 4 * (62 + 2) ∧
    ((on core0).me.strand .V).secBase + ((on core0).me.strand .V).secLen < ((on core0).me.strand .V).pc.toNat + 4 * (63 + 2) ∧
    (on { core0 with loops := [⟨0x10004, 0x10008, 2⟩] }).me.loops.length < 2 ∧
    2 ≤ (on { core0 with loops := [⟨0x10004, 0x10008, 2⟩, ⟨0x10000, 0x1000C, 1⟩] }).me.loops.length :=
  ⟨readyV_of rfl rfl rfl rfl (by decide), readyV_of rfl rfl rfl rfl (by decide), readyV_of rfl rfl rfl rfl (by decide), by decide⟩


/-! ## Witnesses: matrix instructions -/

/-- A core of class 7 whose live plane holds I8 values, with p1 = 0x1000 and p2 = 64 rows at a stride of 64 bytes. -/
def mcore : Core :=
  { core0 with
    grant := 7, limit := 2300000, live := { Plane.empty with tag := 4 }, p := tab 16 (fun n => if n = 1 then 0x1000 else if n = 2 then 0x0040003F else 0) }

/-- An issued M instruction with those registers captured. -/
def mentry (p : Path) (i : Instr) : MEntry :=
  { path := p, instr := i, pc := 0x10000, push := 0, r0 := 0x1000, r1 := 0x0040003F, r2 := 0, r3 := 0, bands := 1, seed := 0, post := none }

theorem witness_MatrixInstructionsQueue :
    (∃ r, mRow (.mmf t0 2 1 2 4) = some r ∧ mcore.mWait (.mmf t0 2 1 2 4) r.path = .pass ∧ r.chk (on mcore) = .pass) ∧
    (on mcore).Issues .M t0 (on mcore) ∧
    { mcore with mq := List.replicate 8 (mentry .array (.mzero t0 1)) }.mWait (.mmf t0 2 1 2 4) .array ≠ .pass :=
  ⟨⟨_, rfl, by decide, by decide⟩, witness_issues _ rfl, by decide⟩

theorem witness_MatrixChecksTrap :
    ready .M (on { mcore with live := { Plane.empty with tag := 7 } }) ∧
    ready .M (on { mcore with bands := 15, grant := 3 }) ∧
    (∃ r v, mRow (.mmf t0 2 1 2 4) = some r ∧ r.chk (on { mcore with live := { Plane.empty with tag := 7 } }) = .trap 0x04 v) ∧
    (∃ r, mRow (.mmf t0 2 1 2 4) = some r ∧ r.chk (on { mcore with bands := 15, grant := 3 }) = .trapOpen 0x0B) :=
  ⟨ready_of rfl rfl rfl rfl, ready_of rfl rfl rfl rfl, ⟨⟨_, _, rfl, rfl⟩, ⟨_, rfl, by decide⟩⟩⟩


/-- Core 0 with a word in every place of a tile under a tag. -/
def tileOf (tag : BitVec 4) : Core := { mcore with tiles := vset mcore.tiles 2 { Tile.zero with rows := tab 64 (fun _ => tab 64 (fun _ => 1)), tag := tag } }

theorem witness_MatrixChecksTrap_products :
    ready .M (on (tileOf 15)) ∧
    ready .M (on (tileOf 7)) ∧
    ready .M (on (tileOf 1)) ∧
    ((on (tileOf 15)).me.getTile 2).tag = 0xF ∧ ((on (tileOf 7)).me.getTile 2).tag ≠ 0xF ∧ ((on (tileOf 7)).me.live).tag.toNat ∈ mmPlanes 4 ∧
    ((on (tileOf 7)).me.getTile 2).tag ≠ mmKind 4 ∧ ((on (tileOf 7)).me.getTile 2).word 63 63 ≠ 0 ∧
    (on (tileOf 1)).me.bands &&& ~~~(bandsAdmitted (on (tileOf 1)).me.grant.toNat) = 0 ∧
    (15 : BitVec 4) &&& ~~~(bandsAdmitted 5) ≠ 0 ∧ ((on (tileOf 1)).me.getTile 2).tag = mmKind 4 :=
  ⟨ready_of rfl rfl rfl rfl, ready_of rfl rfl rfl rfl, ready_of rfl rfl rfl rfl, by decide⟩


/-- A canvas of four rows and columns in one dimension, at 0x1000 of the scratchpad; its stroke at 0x20800. -/
def canvasBytes : List Byte :=
  leBytes 8 0x20000 ++ leBytes 8 0x20000 ++ leBytes 8 0x20800 ++ leBytes 4 4 ++ leBytes 4 4 ++ [1, 1, 0, 0] ++ List.replicate 92 0

/-- The machine in which `mbind` finds that record. -/
def binding : State :=
  { on { mcore with window := Memory.writeBytes [] 0x1000 canvasBytes } with
    mem := Memory.writeBytes [] 0x10800 (leBytes 4 (2 ^ 27 + 0x18 * 2 ^ 17 + 0x20 * 2 ^ 11)) }

theorem witness_MatrixParametersComplete :
    ready .M (on mcore) ∧
    ready .M (on { mcore with mq := [mentry .array (.mzero t0 1)] }) ∧
    ready .M (binding) ∧
    (mParam (.mloop t0 1 0x3FFFF)).isSome = true ∧ mcore.mWait (.mloop t0 1 0x3FFFF) .order = .pass ∧ mcore.mq = [] ∧
    { mcore with mq := [mentry .array (.mzero t0 1)] }.mWait (.mli t0 3 1) .order = .pass ∧
    (mcore.getP 1 + 4 * (0 : BitVec 14).signExtend 32).toNat % 4 = 0 ∧ binding.mbindCheck 1 = .pass ∧
    binding.wordsWait 0 (binding.mbindReads (.mbind t0 3 1) t0 1) = false ∧
    binding.wordsLost 0 (binding.mbindReads (.mbind t0 3 1) t0 1) = none ∧ binding.mbindReads (.mbind t0 3 1) t0 1 = [0x20800] ∧
    mAlone (.mbind t0 3 1) = true ∧ binding.me.mWait (.mbind t0 3 1) .array = .pass :=
  ⟨ready_of rfl rfl rfl rfl, ready_of rfl rfl rfl rfl, ready_of rfl rfl rfl rfl, by decide⟩


theorem witness_MatrixParametersComplete_misaligned :
    ready .M (on { mcore with p := tab 16 (fun _ => 2) }) ∧
    ({ mcore with p := tab 16 (fun _ => 2) }.getP 1 + 4 * (0 : BitVec 14).signExtend 32).toNat % 4 ≠ 0 :=
  ⟨ready_of rfl rfl rfl rfl, by decide⟩


/-- The machine whose core 0 has issued one M instruction. -/
def issuedM (e : MEntry) : State := on { mcore with mq := [e] }

theorem witness_ProductsTakeEffect :
    (issuedM (mentry .array (.mmb t0 2 1 2 4))).MTurn 0 .array (mentry .array (.mmb t0 2 1 2 4)) ∧
    (∃ form t f, mmRow (.mmb t0 2 1 2 4) = some (form, t, f) ∧ f < 5) ∧ mcore.winPoison = [] :=
  ⟨⟨by decide, 0, by decide, rfl⟩, ⟨_, _, _, rfl, by decide⟩, rfl⟩

theorem witness_ProductsTakeEffect_constants :
    (∀ i ∈ [Instr.mconst t0 2 1 2 1, .mconstB t0 2 1 2 3], (issuedM (mentry .array i)).MTurn 0 .array (mentry .array i) ∧
      (constRow i).isSome = true) ∧ mcore.winPoison = [] ∧ mcore.live.tag = 4 ∧
    constAt mcore (mentry .array (.mconst t0 2 1 2 1)) 1 0 0 = true ∧ constAt mcore (mentry .array (.mconst t0 2 1 2 1)) 1 0 1 = false := by
  refine ⟨fun i hi => ?_, rfl, rfl, by decide⟩
  fin_cases hi <;> exact ⟨⟨by decide, 0, by decide, rfl⟩, rfl⟩

/-- Core 0 with that canvas bound to handle 3, a BF16 plane, and an M instruction issued at the canvas's corner. -/
def implicitly (i : Instr) : State :=
  on { mcore with
    live := { Plane.empty with tag := 8 }, handles := vset mcore.handles 3 ⟨true, canvasBytes, [2 ^ 27 + 0x18 * 2 ^ 17 + 0x20 * 2 ^ 11], []⟩,
    mq := [{ mentry .array i with r0 := 0, r1 := 0 }] }

theorem witness_ProductsTakeEffect_implicit :
    (∀ i ∈ [Instr.mimm t0 2 3 1 2, .mimmHi t0 2 3 1 2, .mimmMid t0 2 3 1 2, .mimmLo t0 2 3 1 2, .mimv t0 3 1 2 3 1],
      let e := { mentry .array i with r0 := 0, r1 := 0 }
      let s := implicitly i
      s.MTurn 0 .array e ∧ s.wordsWait 0 ((s.coreAt 0).mWords e) = false ∧ s.wordsLost 0 ((s.coreAt 0).mWords e) = none ∧
      State.firstWordPoison ((s.recallWords 0 ((s.coreAt 0).mWords e)).traceArray e 0) 0 ((s.coreAt 0).mWords e) = none) ∧
    (mimmRow (.mimmLo t0 2 3 1 2)).isSome = true ∧ (tagFmt 8).isSome = true ∧
    ({ bound := true, record := canvasBytes, main := [], alt := [] } : Handle).inside 0 0 0 0 = true := by
  refine ⟨fun i hi => ?_, by decide⟩
  fin_cases hi <;> exact ⟨⟨by decide, 0, by decide, rfl⟩, by decide⟩

theorem witness_TilesTakeEffect : (issuedM (mentry .array (.mzero t0 2))).MTurn 0 .array (mentry .array (.mzero t0 2)) ∧
    (∃ t code mode, drainOf (.madrSr t0 2 1 2 1) = some (t, code, mode)) ∧ (mcore.getTile 2).rowOk 63 = true ∧
    ((tileOf 7).getTile 2).rowOk 0 = false ∧ mcore.node.phase = .running ∧ mcore.node.gang = [] ∧
    (issuedM (mentry .array (.mchk t0 2))).CanGo 0 none ∧
    ((issuedM (mentry .array (.mchk t0 2))).part 0).tel.evmask.getLsbD 1 = false :=
  ⟨⟨by decide, 0, by decide, rfl⟩, ⟨_, _, _, rfl⟩, by decide, by decide, by decide, by decide,
    ⟨by decide, fun x _ => Or.inr (by cases x <;> decide)⟩, by decide⟩

theorem witness_PlanesTakeEffect :
    (issuedM (mentry .weight (.mswp t0))).MTurn 0 .weight (mentry .weight (.mswp t0)) ∧
    (mentry .weight (.mslot t0 3 1)).r0.toNat % 2 ^ 19 + 8192 ≤ 0x80000 ∧ 0x7E000 + 8192 ≤ 0x80000 :=
  ⟨⟨by decide, 0, by decide, rfl⟩, by decide, by decide⟩

/-- Each slot and code loads from an empty window; a poisoned sector or a reserved T2 code tags the plane POISON. -/
theorem witness_PlanesTakeEffect_codes :
    (issuedM (mentry .weight (.mwldSlot t0 3 5 0))).MTurn 0 .weight (mentry .weight (.mwldSlot t0 3 5 0)) ∧
    mwldRow (mentry .weight (.mwldSlot t0 3 5 0)) = some (0x86000, 5, some 3) ∧
    mwldRow (mentry .weight (.mwldScratchpad t0 1 10 2)) = some (0x1000, 10, none) ∧
    (∀ j, planeBad 5 j (mcore.window.read (0x86000 + j)) = false) ∧ (∀ j, planeBad 10 j (mcore.window.read (0x1000 + j)) = false) ∧
    planeBad 5 0 2 = true ∧ planeBad 8 24 1 = true ∧ planeBad 8 23 1 = false ∧ planeBad 12 0x1000 0 = true ∧ planeBad 12 0xFFF 0 = false ∧
    (0x86000 + 1023) / 16 ∈ { mcore with winPoison := [0x863F] }.winPoison ∧ 1023 < planeBytes 5 := by
  have hw : mcore.window = [] := rfl
  refine ⟨⟨by decide, 0, by decide, rfl⟩, rfl, rfl, fun j => ?_, fun j => ?_, by decide⟩ <;> rw [hw] <;> simp [Memory.read, planeBad]
  decide


/-! ## Witnesses: copy instructions -/

/-- Core 0 whose block at q0 names a copy of 16 bytes from one address to another. -/
def qcore (src dst : Nat) : Core :=
  { core0 with
    q := tab 16 (fun n => if n = 0 then BitVec.ofNat 32 src else if n = 2 then BitVec.ofNat 32 dst else if n = 4 then 15 else 0),
    lslt := tab 16 (fun n => if n = 3 then 0x8007FFF800080000 else 0) }

theorem witness_CopyParametersComplete :
    ready .C (on (qcore 0x20000 0x30000)) ∧
    ready .C (on (qcore 0x7FFFC 0)) ∧
    ready .C (on (qcore 0x7FFFD 0)) ∧
    (cParam (.qloop t0 1 0x3FFFF)).isSome = true ∧ (qcore 0x20000 0x30000).cFenced = false ∧ (qcore 0 0).cout = [] ∧
    (qcore 0 0).canPush (pushFifo .C 1) = true ∧ (qcore 0 0).pushedNow .C = false ∧
    ((qcore 0x7FFFC 0).getQ 0 + 4 * (0 : BitVec 14).signExtend 32).toNat + 4 ≤ 0x80000 ∧
    ((qcore 0x7FFFD 0).getQ 0 + 4 * (0 : BitVec 14).signExtend 32).toNat % 4 ≠ 0 ∧
    (vget (qcore 0 0).lslt 3 0).getLsbD 63 = true ∧ (vget (qcore 0 0).lslt 4 0).getLsbD 63 = false ∧
    ((vget (qcore 0 0).lslt 3 0).extractLsb' 35 16).toNat = 65535 :=
  ⟨ready_of rfl rfl rfl rfl, ready_of rfl rfl rfl rfl, ready_of rfl rfl rfl rfl, by decide⟩


/-- A C instruction of the strand that has issued and is not complete. -/
def unretired (fence last : Bool) : COut := { id := 0, pc := 0x10000, done := false, push := 0, fence := fence, last := last }

theorem witness_CopyParametersComplete_fence :
    ready .C (on { core0 with cout := [unretired false false] }) ∧
    ready .C (on { core0 with cout := [unretired true false] }) ∧
    (∃ e ∈ { core0 with cout := [unretired false false] }.cout, e.done = false ∧ e.fence = false) ∧
    (∀ e ∈ { core0 with cout := [unretired false false] }.cout, e.last = false) ∧
    { core0 with cout := [unretired false false] }.cFenced = false ∧ { core0 with cout := [unretired true false] }.cFenced = true :=
  ⟨ready_of rfl rfl rfl rfl, ready_of rfl rfl rfl rfl, by
  decide⟩


theorem witness_CopyCommandsHandOff :
    ready .C (on (qcore 0x50000 0x30000)) ∧
    (on (qcore 0x20000 0x30000)).Issues .C t0 (on (qcore 0x20000 0x30000)) ∧ cCmd (.ccopy1d t0 0 0 0 7) = some (t0, 1, 0, 0, 0, 7) ∧
    (on (qcore 0x20000 0x30000)).cmdCheck ((qcore 0x20000 0x30000).blockCmd 1 0 0 0) true = .pass ∧
    (on (qcore 0x20000 0x30000)).queueLen 0 < 64 ∧
    (on (qcore 0x50000 0x30000)).cmdCheck ((qcore 0x50000 0x30000).blockCmd 1 0 0 0) true = .trap 0x06 0x50000 ∧
    (on (qcore 0x50000 0x30000)).entryOf 0 0x50000 = none ∧ Config.collectiveCount .tb384 = 0 ∧ Config.collectiveCount .tb640 ≠ 0 :=
  ⟨ready_of rfl rfl rfl rfl, ⟨witness_issues _ rfl, rfl, by decide⟩⟩


/-- A queued command of core 0 to a target. -/
def cmdOf (form : Nat) (slot : Option Nat) (dst : Word) (st : CmdSt) : Cmd :=
  { core := 0, id := 0, part := 0, form := form, slot := slot, aux := 0, wait := 0, sig := 0, cnt := 5, src := 0x20000, dst := dst, len := 15,
    a1 := 0, a2 := 0, a3 := 0, a4 := 0, item := [], idx := [], reserve := 0, state := st, land := 0, grabbed := [], landed := [], newly := [],
    arrived := none, accepted := false, began := 0 }

/-- The machine with commands in engine 0. -/
def engine (l : List Cmd) (k : Core) : State := { on k with engines := [(0, { Engine.reset with queue := l })] }

theorem witness_CopyCommandsHandOff_full :
    ready .C (engine (List.replicate 64 (cmdOf 1 none 0x30000 .queued)) (qcore 0x20000 0x30000)) ∧
    64 ≤ (engine (List.replicate 64 (cmdOf 1 none 0x30000 .queued)) (qcore 0x20000 0x30000)).queueLen 0 :=
  ⟨ready_of rfl rfl rfl rfl, by decide⟩


/-- A command of 128 bytes at 0x1000 of the scratchpad: a copy of 16 bytes. -/
def commandBytes : List Byte :=
  [1, 0, 0, 0, 0, 0, 0, 0] ++ leBytes 8 0x20000 ++ leBytes 8 0x30000 ++ leBytes 8 15 ++ List.replicate 96 0

theorem witness_CopyCommandsHandOff_csend :
    ready .C (on { qcore 0x1000 0 with window := Memory.writeBytes [] 0x1000 commandBytes }) ∧
    (on { qcore 0x1000 0 with window := Memory.writeBytes [] 0x1000 commandBytes }).csendCheck 0 5 = .pass :=
  ⟨ready_of rfl rfl rfl rfl, by decide⟩


theorem witness_CopyCommandsHandOff_carm :
    ((qcore 0x20000 0).blockCmd 12 0 0 0).form = 12 ∧ ((qcore 0x20000 0).blockCmd 12 0 0 0).action ≤ 4 ∧
    ((qcore 0x20000 0).blockCmd 12 0 0 0).dst = 0 := by decide


/-! ## Witnesses: events -/

/-- Core 0 with a condition in each strand, since cycle 0. -/
def conds (f : Strand → Cond) : Core :=
  { core0 with strands := tab 4 (fun n => { strandAt with cond := f (if n = 0 then .S else if n = 1 then .V else if n = 2 then .M else .C) }) }

theorem witness_StrandEventsHappen_held :
    ((on (conds (fun _ => .pushHold 0 0x10000 true))).coreAt 0).strand .S = { strandAt with cond := .pushHold 0 0x10000 true } ∧
    ((on (conds (fun _ => .pushHold 0 0x10000 true))).coreAt 0).issued .S = { strandAt with cond := .pushHold 0 0x10000 true } ∧
    ((on (conds (fun _ => .pushHold 0 0x10000 true))).coreAt 0).canPush 0 = true ∧ ((tokensOn 0 16).coreAt 0).canPush 0 = false ∧
    ({ core0 with node := { core0.node with phase := .handler, sSaved := { strandAt with cond := .pushHold 0 0x10000 false } } } : Core).issued .S =
      { strandAt with cond := .pushHold 0 0x10000 false } ∧
    ((on { core0 with cout := [{ unretired false false with done := true, push := 2 }] }).coreAt 0).canPush (pushFifo .C 2) = true ∧
    ((on { core0 with cout := [{ unretired false false with done := true, push := 2 }] }).coreAt 0).pushedNow .C = false := by decide

/-- The machine at cycle 1,024 in which S waits on FIFO 5, V on a held push, and M and C have ended. -/
def deadlocked : State :=
  { on { conds (fun st => match st with | .S => .popStall 5 | .V => .pushHold 3 0x10000 false | _ => .ended) with
      tk := tab 12 (fun n => if n = 3 then 16 else 0) } with cycle := 1024 }

theorem witness_StrandEventsHappen_deadlock : deadlocked.Quiet 0 ∧ ({ deadlocked with core := 0 } : State).UserNode ∧
    (∀ x, ((deadlocked.coreAt 0).strand x).Stands (match x with | .S => 5 | .V => 19 | _ => 31)
        (match x with | .S => 0x10000 | .V => 0x10000 | _ => 0xFFFC) ∧ ((deadlocked.coreAt 0).strand x).since + 1024 ≤ deadlocked.cycle ∧
      (deadlocked.coreAt 0).Stuck x) :=
  ⟨⟨fun _ h => absurd h (by simp [deadlocked, on, onPart, State.reset]), rfl,
      fun _ h => absurd h (by simp [deadlocked, on, onPart, State.reset]), rfl⟩, ⟨rfl, rfl, rfl, settled_of rfl, rfl⟩, fun x => by
    cases x <;> refine ⟨⟨rfl, rfl⟩, by decide, ⟨fun n h => ?_, fun n pc l h => ?_⟩⟩ <;> cases h <;> decide⟩

theorem witness_StrandEventsHappen_notStuck : ¬ ((onPart part0 { conds (fun _ => .popStall 5) with tk := (tokensOn 5 1).me.tk }).coreAt 0).Stuck .S :=
  fun h => absurd (h.1 5 rfl) (by decide)

/-- A node at a boundary of S with a trap to take. -/
def pendingTrap : State :=
  on (core0.updStrand .S (fun x => { x with pending := some { cause := 0x12, tval := 0, tepc := 0x10000 } }))

theorem witness_StrandEventsHappen_trap : (pendingTrap.me.strand .S).frozen = false ∧ pendingTrap.atBoundary .S = true ∧
    ((on { core0 with node := { core0.node with phase := .trapEntry } }).me.node.phase = .trapEntry) ∧
    (on { core0 with node := { core0.node with phase := .trapEntry } }).atBoundary .V = true ∧
    (∀ n, n < 4 → (vget (vmap core0.strands (fun x => { x with frozen := true })) n StrandSt.idle).frozen = true) := by decide

/-- A post-completion record of the M strand, made in cycle 3. -/
def owed : TrapInfo := { cause := 0x05, tval := 0x00F, tepc := 0x10000, post := true, made := 3, kept := true }

/-- A node whose M strand owes that record, and whose S strand has a trap to take in cycle 4. -/
def owing (saveAt : Option Nat) : State :=
  let pending (n : Nat) : Option TrapInfo :=
    if n = 0 then some { cause := 0x12, tval := 0, tepc := 0x10000 } else if n = 2 then some owed else none
  { on { core0 with
      node := { core0.node with saveAt := saveAt }, strands := tab 4 (fun n => { strandAt with pending := pending n }) } with
    cycle := 4 }

theorem witness_StrandEventsHappen_owed :
    (owing none).me.node.phase = .running ∧ (owing none).me.node.handler = true ∧ (owing none).me.sup = false ∧
    (owing none).atBoundary .S = true ∧ (owing none).me.keepsTrap .S = false ∧
    (owing none).me.owedBefore 4 .S = some owed ∧ owed.chain = false ∧
    (owing none).me.owedBefore 3 .S = none ∧ (owing (some 0)).me.owedBefore 4 .S = none ∧ (owing (some 0)).me.keepsTrap .M = true ∧
    pendingTrap.me.owedBefore pendingTrap.cycle .S = none ∧ pendingTrap.me.keepsTrap .S = false := by decide

theorem witness_StrandEventsHappen_memory :
    ((on (conds (fun _ => .memory (.ldD t0 3 1 0)))).me.strand .S).cond = .memory (.ldD t0 3 1 0) ∧
    (on (conds (fun _ => .memory (.ldD t0 3 1 0)))).inQueue 0 .S = false ∧
    (on { withX (conds (fun _ => .memory (.ldD t0 3 1 0))) [(1, 0x20000)] with brkc := 0 }).memGate (.ldD t0 3 1 0) = .clear ∧
    (∀ j, j < 8 → ((on core0).askPlace 0 8 (.dram 0x10000)).placePoison 0 (.dram 0x10000) j = false) ∧
    ({ on (withX (conds (fun _ => .memory (.ldD t0 3 1 0))) [(1, 0x20000)]) with
        migration := { (on core0).migration with st := .blocked, src := 1, dst := 9 } } : State).memGate (.ldD t0 3 1 0) = .page ∧
    ({ on core0 with migration := { (on core0).migration with queue := [.strand 0 .S] } } : State).inQueue 0 .S = true := by decide

/-- A node of launch 0 whose four strands have ended, at slot 0 of its input queue. -/
def endedNode : State := onPart (launched [.taken]) (conds (fun _ => .ended))

theorem witness_NodesCommitOrRollBack_commit : endedNode.Ends 0 ∧ (endedNode.coreAt 0).node.points = [] ∧
    (endedNode.part 0).tel.evmask.getLsbD 2 = false ∧ endedNode.launch? 0 0 = some launch0 ∧ endedNode.stageOf 0 0 0 = some stage0 ∧
    (endedNode.queue? 0 0).isSome = true ∧ endedNode.commitHeld 0 (endedNode.coreAt 0).node = false ∧
    endedNode.commitLost (endedNode.coreAt 0).node = none :=
  ⟨⟨rfl, rfl, fun st => by cases st <;> exact ⟨rfl, rfl⟩, rfl, ⟨fun _ h => absurd h (by simp [endedNode, onPart, State.reset]), rfl,
      fun _ h => absurd h (by simp [endedNode, onPart, State.reset]), rfl⟩⟩, by decide⟩

/-- Staged bytes of a node: in page 2 of device memory, which a migration blocks, or in host memory behind a port that is down. -/
theorem witness_NodesCommitOrRollBack_held :
    ({ endedNode with migration := { endedNode.migration with st := .blocked, src := 2, dst := 9 } } : State).commitHeld 0
      { core0.node with staged := [(0x20000, 1)] } = true ∧
    endedNode.commitLost { core0.node with staged := [(0x10000000000, 1)] } = some 0x10000000000 := by decide

/-- A running node of launch 0 at its n-th attempt. -/
def attempt (n : Nat) (pin : Bool) : State := onPart (launched [.taken]) { core0 with node := { core0.node with attempt := n, pinned := pin } }

theorem witness_NodesCommitOrRollBack_back : ((attempt 1 false).coreAt 0).UnderWay ∧ ((attempt 1 false).coreAt 0).node.attempt + 1 < 3 ∧
    3 ≤ ((attempt 2 false).coreAt 0).node.attempt + 1 ∧ ((attempt 0 true).coreAt 0).node.pinned = true ∧
    ((attempt 0 true).coreAt 0).node.gang = [] ∧ ((tileOf 7).getTile (BitVec.ofNat 3 2)).rowOk 0 = false ∧
    ¬ ((on { tileOf 7 with node := Node.vacant }).coreAt 0).UnderWay ∧
    ((on { core0 with node := { core0.node with phase := .committing } }).coreAt 0).node.phase = .committing :=
  ⟨⟨by decide, by decide⟩, by decide, by decide, by decide, by decide, by decide, fun h => h.1 rfl, by decide⟩

/-- A running node of launch 0 whose V strand waits for memory, to end in some way. -/
def lingering (e : Option Ending) (wait : Bool) : State :=
  onPart (launched [.taken]) { conds (fun st => if st = .V ∧ wait then .memory (.vldm t0 4 1 7 0 0 0) else .ready) with
    node := { core0.node with ending := e, pm := true } }

theorem witness_NodesCommitOrRollBack_stays :
    (attempt 1 false).CanGo 0 (some .S) ∧ (attempt 0 true).CanGo 0 none ∧ (lingering none true).CanGo 0 (some .V) ∧
    ¬ (lingering none true).CanGo 0 (some .S) ∧ (((lingering none true).coreAt 0).strand .M).pending = none ∧
    ((lingering (some (.rollback 0x20 0 0 0 3)) true).gangOf 0).all (lingering (some (.rollback 0x20 0 0 0 3)) true).atRest = false ∧
    (lingering (some (.rollback 0x20 0 0 0 3)) false).atRest 0 = true ∧ (lingering (some .discard) false).atRest 0 = true ∧
    ((lingering (some .discard) false).coreAt 0).node.gang = [] :=
  ⟨⟨by decide, fun x _ => Or.inr (by cases x <;> decide)⟩, ⟨by decide, fun x _ => Or.inr (by cases x <;> decide)⟩,
    ⟨by decide, fun x h => by cases x <;> first | exact absurd rfl h | exact Or.inr (by decide)⟩,
    fun h => absurd (h.rest .V (by decide)) (by decide), by decide⟩

/-- Sites that hold their sectors, and sites that do not. -/
def sites : State :=
  { onPart { part0 with saved := [{ slot := 2, node := { core0.node with staged := [(0x30, 1)] }, core := 0, ended := [] }] }
      { core0 with node := { core0.node with staged := [(0x20, 1)] } } with
    l2 := [(3, [5])], owners := [(6, 0)] }

theorem witness_NodesCommitOrRollBack_scrub :
    (∀ x ∈ [ScrubSite.dram 0x40, .window 0 0x10, .staged 0 0x2F, .saved 0 2 0x30, .slice 3 0x280, .owned 0 0x300], sites.atSite x = true) ∧
    (∀ x ∈ [ScrubSite.staged 0 0x30, .saved 0 1 0x30, .saved 0 2 0x40, .slice 3 0x300, .owned 1 0x300], sites.atSite x = false) ∧
    sites.atSite (.cleanSlice 3 0x280) = true ∧ scrubbed (.cleanSlice 3 0x280) = true ∧ scrubbed (.code 0) = false ∧
    sites.atSite (.code 0) = true ∧ sites.atSite (.reg 0 .S) = true ∧ sites.atSite (.cleanL1 0 0x300) = false := by decide

theorem witness_CopiesTakeEffect_admission :
    (engine [cmdOf 1 (some 3) 0 .queued] (qcore 0 0)).cmdAt 0 0 = some (cmdOf 1 (some 3) 0 .queued) ∧
    (vget (qcore 0 0).lslt 3 0).getLsbD 63 = true ∧ (vget (qcore 0 0).lslt 3 0).extractLsb' 35 16 ≠ 0 ∧
    0 ≤ ((cmdOf 1 (some 3) 0 .queued).fields.dstExtent []).1 ∧
    ((cmdOf 1 (some 3) 0 .queued).fields.dstExtent []).2 < 16 * ((vget (qcore 0 0).lslt 3 0).extractLsb' 19 16).toNat := by decide

theorem witness_CopiesTakeEffect_start :
    (engine [cmdOf 1 none 0x30000 .queued] core0).cmdAt 0 0 = some (cmdOf 1 none 0x30000 .queued) ∧
    (engine [cmdOf 1 none 0x30000 .queued] core0).belowFloor = false ∧
    (∃ e ∈ (engine [{ cmdOf 1 none 0 .executing with sig := 1 }, { cmdOf 1 none 0 .queued with wait := 1, id := 1 }] core0).engines,
      ∃ m ∈ e.2.queue, m.core = 0 ∧ m.id < 1 ∧ m.sig &&& 1 ≠ 0) := by decide

/-- Engine 0 with a queued command of each of two partitions, after some starts of partition 0. -/
def rounds (n : Nat) : State :=
  { on core0 with engines := [(0, { Engine.reset with
      queue := [cmdOf 1 none 0x30000 .queued, { cmdOf 1 none 0x30000 .queued with core := 40, part := 1 }], round := [(0, n)] })] }

theorem witness_CopiesTakeEffect_rounds :
    ¬ (rounds 0).copyWeight 0 ≤ ((rounds 0).engines.get 0 Engine.reset).round.get 0 0 ∧
    (rounds 1).copyWeight 0 ≤ ((rounds 1).engines.get 0 Engine.reset).round.get 0 0 ∧
    (∃ q ∈ (rounds 1).readyParts ((rounds 1).engines.get 0 Engine.reset), ¬ (rounds 1).copyWeight q ≤ ((rounds 1).engines.get 0 Engine.reset).round.get q 0) ∧
    (∀ q ∈ ({ rounds 1 with engines := [(0, { Engine.reset with queue := [cmdOf 1 none 0x30000 .queued], round := [(0, 1)] })] } : State).readyParts
        { Engine.reset with queue := [cmdOf 1 none 0x30000 .queued], round := [(0, 1)] }, (rounds 1).copyWeight q ≤ 1) := by decide

theorem witness_CopiesTakeEffect_land :
    (engine [cmdOf 6 (some 3) 0 .executing] (qcore 0 0)).cmdAt 0 0 = some (cmdOf 6 (some 3) 0 .executing) ∧
    (match (engine [cmdOf 1 (some 3) 0 .executing] (qcore 0 0)).engineLoc (cmdOf 1 (some 3) 0 .executing) false (16 * (0x20000 / 16)) with
      | .ok (_, .dram pa) => pa == 0x10000 | _ => false) = true ∧
    (match (engine [cmdOf 6 none 0x30000 .executing] core0).engineLoc (cmdOf 6 none 0x30000 .executing) true (16 * (0x30000 / 16)) with
      | .ok (e, .dram pa) => pa == 0x20000 && e.direct && e.home == 0 | _ => false) = true ∧
    (match (engine [cmdOf 6 none 0x20000 .executing] core0).engineLoc (cmdOf 6 none 0x20000 .executing) true (16 * (0x20000 / 16)) with
      | .ok (e, .dram _) => !e.direct | _ => false) = true := by decide

/-- What engine 0 has read of a run of n source sectors. -/
def grabs (x n : Nat) : Table (List (Byte × Bool)) :=
  (List.range n).map (fun i => (x + i, (List.range 16).map (fun j => (BitVec.ofNat 8 (16 * i + j), false))))

/-- A copy of two rows of eight bytes each, and a gather of two words, whose sources have been read. -/
def rows2 (dst : Word) : Cmd :=
  { cmdOf 2 none dst .executing with len := 7, cnt := 1, a1 := 8, a2 := 16, grabbed := grabs 0x2000 1 }
def gather2 : Cmd := { cmdOf 4 (some 3) 0 .executing with aux := 2, a2 := 4, idx := [3, 1], grabbed := grabs 0x2000 1 }
/-- An accumulate of four words. -/
def sums : Cmd := { cmdOf 7 none 0x20000 .executing with aux := 3, grabbed := grabs 0x2000 1 }

theorem witness_CopiesTakeEffect_read :
    (engine [{ rows2 0x30000 with grabbed := [] }] core0).SourceAt (rows2 0x30000) 0x2000 (.dram 0x10000) ∧
    (∃ e ∈ (rows2 0x30000).spans, ∃ i, i < e.2.2 ∧ 0 ≤ e.1 ∧ (e.1.toNat + i) / 16 = 0x2000) := by
  refine ⟨.inr ⟨by decide, entryAt 0x20000 0xC0 0x10000, by decide⟩, ⟨_, List.mem_cons_self .., 0, by decide⟩⟩

/-- What a command writes lies in one of its moves. -/
theorem span_of_lastSpan {m : Cmd} {a : Nat} {e : Int × Int × Nat} (h : m.lastSpan a = some e) :
    e ∈ m.spans ∧ e.2.1 ≤ (a : Int) ∧ (a : Int) < e.2.1 + e.2.2 := by
  have := List.mem_of_getLast? h
  simpa [and_assoc] using this

/-- The hypotheses on a command's moves, where they are few: none starts below 0, and each source sector has been read. -/
def movesRead (m : Cmd) : Prop :=
  (∀ e ∈ m.spans, 0 ≤ e.2.1) ∧
    ∀ a e, m.lastSpan a = some e → (m.grabbed.find ((e.1 + ((a : Int) - e.2.1).toNat).toNat / 16)).isSome = true

theorem movesRead_of {m : Cmd} (h0 : ∀ e ∈ m.spans, 0 ≤ e.2.1)
    (h : ∀ e ∈ m.spans, ∀ i, i < e.2.2 → (m.grabbed.find ((e.1 + (i : Nat)).toNat / 16)).isSome = true) : movesRead m := by
  refine ⟨h0, fun a e he => ?_⟩
  obtain ⟨hm, hl, hu⟩ := span_of_lastSpan he
  exact h e hm _ (by omega)

theorem witness_CopiesTakeEffect_moves :
    movesRead (rows2 0x30000) ∧ movesRead gather2 ∧ movesRead sums ∧ (sums.len + 1) % sumBytes sums.aux = 0 ∧
    (∃ e, (rows2 0x30000).lastSpan 0x30010 = some e) ∧ (rows2 0x30000).lastSpan 0x30008 = none :=
  ⟨movesRead_of (by decide) (by decide), movesRead_of (by decide) (by decide), movesRead_of (by decide) (by decide), by decide,
    ⟨_, rfl⟩, by decide⟩

/-- Where a command's sectors land: a DIRECT range, a STAGED one, and a core's window. -/
theorem touches_of {m : Cmd} {x lo hi : Nat} (h : ∀ e ∈ m.spans, (16 * lo : Int) ≤ e.2.1 ∧ e.2.1 + e.2.2 ≤ 16 * hi) (ht : m.Touches x) :
    lo ≤ x ∧ x < hi := by
  obtain ⟨a, ha, rfl⟩ := ht
  obtain ⟨e, he⟩ := Option.isSome_iff_exists.mp ha
  obtain ⟨hm, hl, hu⟩ := span_of_lastSpan he
  have := h e hm
  omega

theorem witness_CopiesTakeEffect_places :
    (∀ x i, (rows2 0x30000).Touches x → i < 16 → ∃ e q,
      (engine [rows2 0x30000] core0).engineLoc (rows2 0x30000) true (16 * x + i) = .ok (e, q) ∧
        q.pa? = some (16 * (x - 0x1000) + i) ∧ e.direct = true ∧ ∃ a, q = .dram a) ∧
    (∀ x i, sums.Touches x → i < 16 → ∃ e q, (engine [sums] core0).engineLoc sums true (16 * x + i) = .ok (e, q) ∧
      q.pa? = some (16 * (x - 0x1000) + i) ∧ e.direct = false ∧ e.home = 0) ∧
    (∀ x, (rows2 0xA0000).Touches x → ∃ e,
      ({ onPart wide core0 with engines := [(0, { Engine.reset with queue := [rows2 0xA0000] })] } : State).engineLoc (rows2 0xA0000) true
        (16 * x) = .ok (e, .window 0 (16 * (x - 0x2000)))) ∧
    ∀ x y, (rows2 0x30000).Touches x → (rows2 0x30000).Touches y → x - 0x1000 = y - 0x1000 → x = y := by
  refine ⟨fun x i hx hi => ?_, fun x i hx hi => ?_, fun x hx => ?_, fun x y hx hy h => ?_⟩
  · obtain ⟨h1, h2⟩ := touches_of (lo := 0x3000) (hi := 0x3002) (by decide) hx
    refine ⟨entryAt 0x30000 0xD0 0x20000, .dram (16 * (x - 0x1000) + i), ?_, rfl, rfl, _, rfl⟩
    interval_cases x <;> interval_cases i <;> rfl
  · obtain ⟨h1, h2⟩ := touches_of (lo := 0x2000) (hi := 0x2001) (by decide) hx
    refine ⟨entryAt 0x20000 0xC0 0x10000, .dram (16 * (x - 0x1000) + i), ?_, rfl, rfl, rfl⟩
    interval_cases x; interval_cases i <;> rfl
  · obtain ⟨h1, h2⟩ := touches_of (lo := 0xA000) (hi := 0xA002) (by decide) hx
    refine ⟨entryAt 0xA0000 0x1E0 0x80000, ?_⟩
    interval_cases x <;> rfl
  · have := touches_of (lo := 0x3000) (hi := 0x3002) (by decide) hx
    have := touches_of (lo := 0x3000) (hi := 0x3002) (by decide) hy
    omega

theorem witness_CopiesTakeEffect_arm :
    (match (engine [cmdOf 12 none 32 .executing] core0).entryOf 0 0x20000 with
      | some e => (engine [cmdOf 12 none 32 .executing] core0).regionFree 5
          ((engine [cmdOf 12 none 32 .executing] core0).regionLines 0 e 0x20000 (128 * 16))
      | none => false) = true ∧
    (onCounter core0).regionFree 6 [0x400] = false := by decide

/-- A step of a reduce-scatter, out and in at port 1, with tag 7. -/
def ringStep : Cmd := { cmdOf 10 none 0x30000 .executing with a1 := 0x11, a2 := 7 }

/-- The machine with port 1 up and a step of core 0 posted there. -/
def posted : State :=
  { engine [ringStep] core0 with ports := [(1, { Port.reset with up := true })] }

/-- A chunk with a tag. -/
def chunk (tag : Lane) : CollMsg := { tag := tag, allGather := false, aux := 0, bytes := List.replicate 16 0, marks := [] }

theorem witness_CopiesTakeEffect_arrival :
    (posted.ports.get 1 Port.reset).up = true ∧ 1 ≤ Config.collectiveCount posted.config.variant ∧ (posted.engines.map (·.1)).Nodup ∧
    ringStep.fields.portIn = 1 ∧
    ringStep.pairs (chunk 7) = true ∧
    ringStep.pairs { chunk 7 with bytes := [] } = false ∧
    (chunk 7).bytes.length ≤ 2 ^ 21 := by decide

/-- A DIRECT pool range at 0x60000. -/
def pooled : Part :=
  { part0 with active := part0.active ++ [(4, { w0 := 0x60000, w1 := BitVec.ofNat 64 (2 ^ 63 + 16 * 2 ^ 50 + 0xD2), w2 := 0x100000000000, w3 := 0 })] }

theorem witness_CopiesTakeEffect_lost :
    (({ onPart pooled core0 with engines := [(0, { Engine.reset with queue := [cmdOf 1 none 0x60000 .executing] })], cycle := 42500 } : State).outstanding
      (cmdOf 1 none 0x60000 .executing) [2, 3]) = some 0x60000 ∧
    (cmdOf 1 none 0x60000 .executing).began + 50000 ≤ ({ on core0 with cycle := 42500 } : State).gtc ∧
    ({ on core0 with cycle := 42499 } : State).gtc < (cmdOf 1 none 0x60000 .executing).began + 50000 ∧
    posted.outstanding ringStep [1, 2, 3] = none ∧ posted.cmdAt 0 0 = some ringStep ∧ ringStep.arrived = none := by decide

/-- Counter 5 with a delivery of n bytes on its way. -/
def delivering (k : Counter) (n : Nat) : State :=
  { onPart (launched [.free]) (conds (fun _ => .counter 5 4 0)) with counters := [(5, k)], deliveries := [{ ctr := 5, n := n }] }

theorem witness_CountersFire_delivery :
    ((delivering counting 15).counter 5).armed = true ∧ counting.count + 15 < counting.total ∧ counting.total ≤ counting.count + 16 ∧
    counting.count + 47 < 2 * counting.total ∧ counting.action ≤ 1 ∧ reached ((counting.phase + 1) % 2 ^ 32) 4 = true ∧
    (match (delivering counting 16).queue? 0 0 with | some q => q.slots.any (fun x => x.st == .free) | none => false) = true ∧
    (match (onPart (launched [.taken]) core0).queue? 0 0 with | some q => q.slots.all (fun x => x.st != .free) | none => false) = true := by
  decide

/-- An item that waits for a slot of queue 0. -/
def waitingItem : Waiting := { phase := 4, action := 2, arg := 0, item := List.replicate 64 0, late := [], base := 0x30000 }

theorem witness_CountersFire_retry :
    ((delivering { counting with waiting := [waitingItem], action := 2, arg := 0 } 1).counter 5).waiting = [waitingItem] ∧
    ((delivering { counting with waiting := [waitingItem], action := 2, arg := 0 } 1).queue? 0 0).isSome = true ∧
    (({ delivering counting 1 with cycle := 1024 } : State).coreAt 0).strand .S = { strandAt with cond := .counter 5 4 0 } ∧
    reached (({ delivering { counting with phase := 4 } 1 with cycle := 1024 } : State).counter 5).phase 4 = true ∧
    reached ((delivering counting 1).counter 5).phase 4 = false := by decide

/-- A prefetch of point 3 in flight for core 0. -/
def prefetching : State :=
  { walking core0 [(0, { walk0 with points := [(3, .deferred 1 0 true)] })] with
    prefetches := [{ key := 0, point := 3, core := some 0, lines := [(0, 0x208)], stale := false }], fills := [(0, [0x208])] }

theorem witness_CountersFire_prefetch : (prefetching.prefetches.find? (fun f => f.key == 0 && f.point == 3)).isSome = true ∧
    (prefetching.walk 0).points.find 3 = some (.deferred 1 0 true) ∧ (∀ f ∈ prefetching.prefetches, f.key = 0 → f.point ≠ 4) ∧
    prefetching.admits 0 0x208 = true ∧
    ({ prefetching with migration := { prefetching.migration with st := .blocked, src := 1, dst := 9 } } : State).admits 0 0x208 = false := by decide

/-- The machine with nothing running and an item ready for launch 0. -/
def startable : State := { onPart (launched [.ready]) { core0 with node := Node.vacant } with focus := 0 }

theorem witness_LaunchesRun_allocate : startable.candidates 0 0 ≠ [] ∧ (∃ c ∈ startable.coresOf 0, c / 40 = 0) ∧
    (∀ x ∈ startable.candidates 0 0, x.stage.kind = .core ∧ x.stage.k = 1) ∧ (startable.part 0).gangHolds = [] ∧
    (startable.candidates 0 0).length = 1 ∧
    (match startable.queue? 0 0 with | some q => q.ready.head?.isSome | none => false) = true := by decide

/-- A late descriptor: offset 8, counter 5, phase 3, source 0x20000. -/
def lateBytes : List Byte := [8, 0] ++ leBytes 2 5 ++ leBytes 4 3 ++ leBytes 8 0x20000

/-- An item that waits for that field, in partition v. -/
def lateItem (v : Part) : State :=
  { onPart { v with queues := [(0, { queueOf [.ready] with slots := (queueOf [.ready]).slots.map (fun x => { x with late := [lateBytes] }) })] } core0 with
    counters := [(5, counting)] }

theorem witness_LaunchesRun_late :
    (match (lateItem (launched [.ready])).queue? 0 0 with
      | some q => (q.ready.find? (fun e => e.2.late != [])).isSome | none => false) = true ∧
    reached ((lateItem (launched [.ready])).counter (leAt lateBytes 2 2)).phase (leAt lateBytes 4 4) = true ∧
    (match (lateItem (launched [.ready])).lateWord 0 (leAt lateBytes 8 8) with | .ok _ => true | .error _ => false) = true ∧
    (match (lateItem (launched [.ready])).lateWord 0 0x50000 with | .ok _ => false | .error c => c == 0x06) = true ∧
    (lateItem (launched [.ready])).virtHeld (40 * (lateItem (launched [.ready])).queueHome 0) 0 0x20000 8 = false ∧
    ((lateItem (launched [.ready])).launch? 0 0).map (·.state) = some .running ∧
    ((lateItem (launched [.ready])).entryOf 0 0x40000).map RangeEntry.r = some false := by decide

theorem witness_LaunchesRun_late_recall : (lateItem (launched [.ready])).recallVirt 0 0x20000 8 = lateItem (launched [.ready]) := rfl

/-- A start of launch 0 waits. -/
def starting (st : LaunchSt) : State :=
  onPart { launched [.free] with
    launches := [(0, { launch0 with state := st })], launchQ := [{ bytes := leBytes 2 0 ++ [1, 9] ++ List.replicate 60 0, src := .mailbox 0 }] } core0

theorem witness_LaunchesRun_start : ((starting .loaded).part 0).launchQ ≠ [] ∧
    ((starting .loaded).launch? 0 (leAt (leBytes 2 0 ++ [1, 9] ++ List.replicate 60 0) 0 2)).map (·.state) = some .loaded := by decide

/-- Launch 0 runs, quiet since time 0, with nothing left to do; it asks for a completion sector at 0x30000. -/
def quietLaunch (cyc : Nat) : State :=
  { onPart { launched [.free] with launches := [(0, { launch0 with quiet := some 0, done := 0x30000 })] } { core0 with node := Node.vacant } with cycle := cyc }

theorem witness_LaunchesRun_complete : (quietLaunch 3400).quiescent 0 0 = true ∧ 0 + 4000 ≤ (quietLaunch 3400).gtc ∧
    (quietLaunch 3399).gtc < 0 + 4000 ∧ (quietLaunch 3400).doneOk 0 0x30000 = true ∧ (quietLaunch 3400).migration.redirects = [] ∧ (quietLaunch 3400).movingPages = [] := by
  decide

theorem witness_NodesArePreempted_preempt :
    (attempt 0 false).boot.failed = false ∧
    (1 : Word).extractLsb' 0 2 = 1 ∧ (2 : Word).extractLsb' 0 2 = 2 ∧ (0 : Word).extractLsb' 0 2 = 0 ∧ (3 : Word).extractLsb' 0 2 = 3 ∧
    (attempt 0 false).pmScope 0 (1 + 639 * 2 ^ 30) = none ∧ (((attempt 0 false).coreAt 0).strand .M).pending = none ∧
    (on { core0 with node := { core0.node with pm := true, saveAt := some 0 } }).pmBusy 0 = true ∧ (attempt 0 false).pmBusy 0 = false ∧ (attempt 0 false).owns 0 0 = true ∧ (attempt 0 false).present 0 = true ∧
    ((attempt 0 false).coreAt 0).node.part = 0 ∧ ((9 : Word).getLsbD 3) = true ∧ ((5 : Word).getLsbD 2) = true ∧
    ((attempt 0 false).pmScope 0 2).isSome = true := by decide

/-- Partition 0 with a DIRECT save area at 0x100000 of 512 KiB for one slot. -/
def saving (v : Part) : Part :=
  { v with saveBase := 0x100000, saveCnt := 1,
           active := v.active ++ [(4, { w0 := 0x100000, w1 := BitVec.ofNat 64 (2 ^ 63 + 20 * 2 ^ 50 + 0xD0), w2 := 0x100000, w3 := 0 })] }

/-- A node asked to save itself at time 0, its strands ended. -/
def savingNode (cyc : Nat) : State :=
  { onPart (saving (launched [.taken])) { conds (fun _ => .ended) with node := { core0.node with saveAt := some 0 } } with cycle := cyc }

/-- With no migration, no line at the host and no port in a change, nothing is held back. -/
theorem virtHeld_quiet (s : State) (c p a n : Nat) (hm : s.migration.st = .idle) (hh : s.hostDir = []) (hp : s.ports = []) :
    s.virtHeld c p a n = false := by
  have hg : ∀ pl, s.gate c pl = .clear := by
    intro pl
    cases pl <;> simp [State.gate, State.blocked, State.hostHeld, hm, hh, hp, Table.get, Port.reset]
    split <;> rfl
  unfold State.virtHeld
  rw [List.any_eq_false]
  intro l _
  split <;> simp [hg]

theorem witness_NodesArePreempted_save : State.drained { savingNode 0 with core := 0 } = true ∧ ((savingNode 0).savePlace 0).isSome = true ∧
    (savingNode 0).virtHeld 0 0 ((savingNode 0).saveAddr 0 0) 0xB0000 = false ∧ ((savingNode 0).coreAt 0).UnderWay ∧
    (((savingNode 0).coreAt 0).strand .M).pending = none ∧
    (savingNode 0).gtc ≤ 40000 ∧ 40000 ≤ (savingNode 34000).gtc ∧ (savingNode 33999).gtc < 40000 ∧
    State.drained { savingNode 0 with cores := [(0, { conds (fun _ => .memory (.ldD t0 3 1 0)) with node := { core0.node with saveAt := some 0 } })] } = false :=
  ⟨by decide, by decide, virtHeld_quiet _ _ _ _ _ rfl rfl rfl, ⟨by decide, by decide⟩, by decide⟩

/-- An image is good as the check of R387 reads it, and a saved node that waits for a core. -/
def savedNode : State :=
  onPart { saving (launched [.taken]) with saved := [{ slot := 0, node := core0.node, core := 0, ended := [] }] } { core0 with node := Node.vacant }

theorem witness_NodesArePreempted_restore : savedNode.blockedStage 0 0 0 = false ∧ (savedNode.saveArea 0).isSome = true ∧
    savedNode.freeFor 0 0 0 0 = true ∧ savedNode.classesFit 0 [0] = true ∧ savedNode.hostDir = [] ∧
    (imagePoisoned (List.replicate 0x60 0 ++ [0xE])).getLast? ≠ none := by decide

/-- The image of an empty memory is zeros. -/
theorem zeroImage (s : State) (hm : s.mem = []) (p slot : Nat) (e : RangeEntry) :
    s.readImage p slot e = List.replicate (16 * 0xB000) 0 := by
  have hb : ∀ a, s.mem.readBytes a 16 = List.replicate 16 0 := fun a => by
    simp [Memory.readBytes, hm, Memory.read, List.map_const']
  have hf : ∀ n, (List.range n).flatMap (fun _ => List.replicate 16 (0 : Byte)) = List.replicate (16 * n) 0 := fun n => by
    induction n with
    | zero => rfl
    | succ n ih => rw [List.range_succ, List.flatMap_append, ih, Nat.mul_succ, List.replicate_add]; rfl
  unfold State.readImage
  simp only [hb, hf]

theorem zeros_leAt (n a b : Nat) : leAt (List.replicate n 0) a b = 0 := by
  have h : ∀ k, leNat (List.replicate k 0#8) = 0 := fun k => by
    induction k with
    | zero => rfl
    | succ k ih => simp [List.replicate_succ, leNat, ih]
  simp [leAt, h]

theorem zeros_zeroAt (n a b : Nat) : zeroAt (List.replicate n 0) a b = true := by simp [zeroAt]

theorem witness_NodesArePreempted_image : ∃ e,
    (savedNode.part 0).saved = [{ slot := 0, node := core0.node, core := 0, ended := [] }] ∧ savedNode.saveArea 0 = some e ∧
    savedNode.stageOf 0 0 0 = some stage0 ∧ savedNode.classesFit 0 [savedNode.savedClass 0 0 e] = true ∧
    savedNode.restoreHeld 0 0 e 0 = false ∧ imageOk (savedNode.readImage 0 0 e) = true ∧ savedNode.imageMarks 0 0 e = [] ∧
    leAt (savedNode.readImage 0 0 e) 0x77 1 = 0 := by
  have hz := zeroImage savedNode rfl 0 0
  refine ⟨_, rfl, rfl, rfl, by decide, ?_, ?_, ?_, ?_⟩
  · have hr : savedNode.recallVirt 0 (savedNode.saveAddr 0 0) 0xB0000 = savedNode := rfl
    have hq : ∀ c p a n, savedNode.virtHeld c p a n = false := fun c p a n => virtHeld_quiet savedNode c p a n rfl rfl rfl
    have hb : ∀ i, bitOf 0 i = false := fun i => by simp [bitOf]
    simp only [State.restoreHeld, hr, hz, zeros_leAt, hq, hb]
    rfl
  · simp only [hz, imageOk, zeros_leAt, zeros_zeroAt]; rfl
  · exact List.filter_eq_nil_iff.mpr fun i _ => Bool.false_ne_true
  · rw [hz, zeros_leAt]

theorem witness_NodesArePreempted_go : (1 : Word).getLsbD 0 = true ∧ ((on core0).part 0).going = false ∧
    (onPart { part0 with going := true } { core0 with node := Node.vacant }).busyCores 0 = [] ∧
    (on core0).busyCores 0 ≠ [] ∧ (on core0).tableFault 0 part0.active = none ∧
    (on core0).tableFault 0 [(0, { codeEntry 0 with w0 := 1 })] ≠ none := by decide

/-- Page 3 moves to page 9: codes of MIGCMD. -/
theorem witness_PagesMoveAndPartsAreRepaired_command :
    (on core0).pageOk 3 = true ∧ (on core0).pageOk 9 = true ∧ 3 ∉ (on core0).takenPages ∧ (on core0).pageMapped 9 = false ∧
    (BitVec.ofNat 64 (3 * 2 ^ 40 + 9 * 2 ^ 16) : Word).toNat / 2 ^ 40 = 3 ∧ (on core0).pageOk 0x500000 = false ∧ (on core0).pageMapped 1 = true := by
  decide

/-- A migration of page 3 to page 9. -/
def moving (st : MigSt) : State :=
  { on core0 with migration := { st := st, src := 3, dst := 9, sparing := none, redirects := [], queue := [], stalled := [] } }

/-- The sparing of row 5, after a migration that was done. -/
def sparing (st : MigSt) : State :=
  { on core0 with migration := { st := st, src := 5, dst := 5, sparing := some .done, redirects := [], queue := [], stalled := [] } }

theorem witness_PagesMoveAndPartsAreRepaired_copy : (moving .blocked).mem.wf = true ∧ (moving .blocked).migration.src ≠ (moving .blocked).migration.dst ∧
    (moving .copying).migration.st = .copying ∧ (∀ r ∈ (moving .copying).migration.redirects, r.1 ≠ 3) ∧ (moving .replay).migration.queue = [] ∧
    (sparing .copying).migration.sparing ≠ none ∧ (sparing .replay).migration.sparing = some .done ∧ (sparing .blocked).mem.wf = true := by
  decide

/-- Tallies past every threshold. -/
def worn : State :=
  { on core0 with coreTally := [(0, Config.repairThreshold 0 + 1)], rowTally := [(5, Config.repairThreshold 1 + 1)],
                  chanTally := [(0, Config.repairThreshold 2 + 1)] }

theorem witness_PagesMoveAndPartsAreRepaired_parts : worn.partOf 0 = some 0 ∧ 0 ∉ worn.config.retired ∧ worn.partOf 640 = none ∧
    5 ∉ worn.config.spareRows ∧ worn.movingPages = [] ∧ worn.pageOk 5 = true ∧ worn.boot.failed = false ∧
    Repair.channel 0 ∉ worn.repairs ∧ worn.coreRepair? 0 = none ∧
    (worn.config.spares.filter (fun e => e.1 / 40 == 0 / 40)).length < 2 ∧ worn.pmBusy 0 = false ∧
    ({ worn with repairs := [.core 0 false, .channel 0] } : State).coreRepair? 0 = some false ∧
    Repair.channel 0 ∈ ({ worn with repairs := [.core 0 false, .channel 0] } : State).repairs := by decide

theorem witness_PagesMoveAndPartsAreRepaired_tallies : Config.repairThreshold 0 < worn.coreTally.get 0 0 ∧
    Config.repairThreshold 1 < worn.rowTally.get 5 0 ∧ Config.repairThreshold 2 < worn.chanTally.get 0 0 ∧
    worn.chanTally.get 1 0 ≤ Config.repairThreshold 2 :=
  ⟨Nat.lt_succ_self _, Nat.lt_succ_self _, Nat.lt_succ_self _, Nat.zero_le _⟩

/-- Stack 0 works on a record of 64 unknowns in a phase. -/
def atWork (ph : SolvePhase) : State :=
  { solving [(0, { Solver.reset with phase := ph, addr := 0x31000, head := solveBytes, desc := matrixBytes })] with cycle := 0 }

theorem witness_SolvesAdvance_start : ((atWork .start).solver 0).phase = .start ∧ ((atWork .start).solver 0).late (atWork .start).gtc = false ∧
    (atWork .start).solveRuns ((atWork .start).solver 0) = true ∧ svX0Zero solveBytes = true ∧ (atWork .start).hostDir = [] ∧
    (match (atWork .start).ctlWords 0 (svB solveBytes) 64 with | .ok l => l.length == 64 | .error _ => false) = true ∧
    svPrec solveBytes = 0 := by decide

/-- The machine as a step of the solve begins. -/
def begun (ph : SolvePhase) : State := (atWork ph).solveBegin 0 ((atWork ph).solver 0) []

theorem witness_SolvesAdvance_begun :
    ((begun .setup).solver 0).phase = .setup ∧ ((begun .verify).solver 0).phase = .verify ∧
    (match (begun .setup).ctlWords 0 (vecAt solveBytes 2) 64 with | .ok l => l.length == 64 | .error _ => false) = true := by decide

theorem witness_SolvesAdvance_finish :
    (atWork .finishing).virtHeld 0 0 (vecAt solveBytes 0) 256 = false ∧ (atWork .finishing).virtHeld 0 0 (svX solveBytes) 256 = false ∧
    (atWork .finishing).mem.wf = true ∧ (atWork .finishing).migration.redirects = [] ∧
    (match (atWork .finishing).ctlWords 0 (vecAt solveBytes 0) 64 with | .ok l => l.length == 64 | .error _ => false) = true ∧
    (∀ i, i < 256 → (atWork .finishing).entryOf 0 (svX solveBytes + i) = some (entryAt 0x30000 0xD0 0x20000)) ∧
    (entryAt 0x30000 0xD0 0x20000).home = 0 ∧ (entryAt 0x30000 0xD0 0x20000).win = false ∧ (entryAt 0x30000 0xD0 0x20000).base % 4096 = 0 ∧
    (∀ i, i < 256 → (atWork .finishing).physAt 0 (entryAt 0x30000 0xD0 0x20000) (svX solveBytes + i - 0x30000) = svX solveBytes - 0x10000 + i) := by
  decide

/-- A migration that blocks the page of the solution and of the record holds the ends of a solve back. -/
theorem witness_SolvesAdvance_held :
    ({ atWork .finishing with migration := { (atWork .finishing).migration with st := .blocked, src := 2, dst := 9 } } : State).virtHeld 0 0
      (svX solveBytes) 256 = true ∧
    ({ atWork .writing with migration := { (atWork .writing).migration with st := .blocked, src := 2, dst := 9 } } : State).virtHeld 0 0
      (0x31000 + 0x80) 128 = true ∧
    (atWork .writing).virtHeld 0 0 (0x31000 + 0x80) 128 = false := by decide

theorem witness_SolvesAdvance_poison :
    (match ({ atWork .finishing with poison := [(vecAt solveBytes 0 - 0x10000) / 16] } : State).ctlWords 0 (vecAt solveBytes 0) 64 with
      | .ok _ => false | .error f => f.cause == some 0x20) = true := by decide

theorem witness_SolvesAdvance_phases : ((atWork .verify).solver 0).phase = .verify ∧ ((atWork .writing).solver 0).phase = .writing ∧
    ((atWork .finishing).solver 0).phase = .finishing ∧
    ({ (atWork .start).solver 0 with head := solveBytes.take 0x10 ++ leBytes 8 1 ++ solveBytes.drop 0x18, gtcAcc := 0 } : Solver).late 5000 = true ∧
    svMethod solveBytes = 0 := by decide

/-- Core 0 has asked for a class, its stack's allotment in nJ. -/
def asking (cls allot : Nat) : State :=
  { on core0 with power := [(0, { StackPower.reset with allot := allot, queue := [{ core := 0, cls := cls, order := 0, counted := false }] })] }

theorem witness_PowerIsManaged_grant : (asking 7 1510000).fitsAlone 0 7 = true ∧ (asking 7 1510000).grantSum 0 (some (0, 7)) ≤ 1510000 * 1000 ∧
    (asking 7 0).fitsAlone 0 7 = false := by decide

theorem witness_PowerIsManaged_cap : min (190 % 2 ^ 16) 1700 = 190 ∧ min (189 % 2 ^ 16) 1700 < 190 ∧ min (1701 % 2 ^ 16) 1700 = 1700 ∧
    ({ on core0 with belowFloor := true, pkcap := 0x8000000000000000 } : State).pkcap.getLsbD 63 = true ∧ (on core0).hot = false ∧
    ((on core0).cores.find 0).isSome = true ∧ ({ on core0 with hot := true } : State).hotStacks = [] ∧
    ({ on core0 with hot := true, hotStacks := [3] } : State).hotStacks ≠ [] := by decide

theorem witness_PowerIsManaged_throttle :
    ((asking 7 0).stackPower 0).steps = 0 ∧ ((asking 7 0).stackPower 0).stepped = none ∧
    ¬ 0 + 100000 ≤ ({ on core0 with cycle := 84999 } : State).gtc ∧ 0 + 100000 ≤ ({ on core0 with cycle := 85000 } : State).gtc := by
  decide

/-- The records of one launch, its stage and its queue (R357). -/
def launchRec : List Byte := [0, 0, 0, 0, 0, 0, 0, 0, 0, 0, 0, 0, 0xFF, 0xFF, 0xFF, 0xFF]
def stageRec : List Byte :=
  [0, 0, 0, 0, 0, 0, 0, 1, 0, 0, 4, 0, 1, 0, 0, 0, 0xFF, 0xFF, 0xFF, 0xFF, 0, 0, 0, 0, 0, 0, 0, 0, 0, 0, 0, 0]
def queueRec : List Byte := [0, 0, 0, 0, 16, 1, 0, 0, 0, 0, 0, 0, 0, 0, 0, 0]

/-- The `.pipeline` section that holds them (R98). -/
def pipeline : List Byte :=
  [(64, 1), (80, 1), (112, 1), (128, 0), (128, 0), (128, 0), (128, 0), (128, 0)].flatMap (fun e => [e.1, 0, 0, 0, e.2, 0, 0, 0])
    ++ launchRec ++ stageRec ++ queueRec

/-- A container of one launch with one stage and one queue: four sections of four words each, empty tokens, data and regions;
the layout is that of R94 to R98, the CRC-32 worked out apart. -/
def container : List Byte :=
  let entry (kind stage off size : Nat) : List Byte :=
    leBytes 2 kind ++ leBytes 2 stage ++ leBytes 4 0 ++ leBytes 8 off ++ leBytes 8 size ++ leBytes 4 16 ++ leBytes 4 0
  [0x53, 0x54, 0x4F, 0x00] ++ leBytes 2 1 ++ leBytes 2 0 ++ leBytes 4 8 ++ leBytes 4 1 ++ leBytes 8 64 ++ leBytes 8 592 ++ leBytes 4 0
    ++ leBytes 4 0 ++ leBytes 4 0x0BA9E196 ++ List.replicate 20 0
    ++ entry 1 0 320 16 ++ entry 2 0 336 16 ++ entry 3 0 352 16 ++ entry 4 0 368 16 ++ entry 5 0xFFFF 384 48 ++ entry 6 0xFFFF 432 16
    ++ entry 9 0xFFFF 448 128 ++ entry 10 0xFFFF 576 16
    ++ List.replicate 128 0 ++ pipeline ++ List.replicate 16 0

/-- Its sections and its tables. -/
def sections : List Section :=
  [⟨1, 0, 16, List.replicate 16 0⟩, ⟨2, 0, 16, List.replicate 16 0⟩, ⟨3, 0, 16, List.replicate 16 0⟩, ⟨4, 0, 16, List.replicate 16 0⟩,
   ⟨5, 0xFFFF, 16, List.replicate 48 0⟩, ⟨6, 0xFFFF, 16, List.replicate 16 0⟩, ⟨9, 0xFFFF, 16, pipeline⟩,
   ⟨10, 0xFFFF, 16, List.replicate 16 0⟩]
def tables : Tables :=
  { regions := [], counters := [], launches := [launchRec], stages := [stageRec], queues := [queueRec], items := [], walks := [],
    params := [], symbols := [], relocs := [] }

/-- Its load as launch 7 with queue 9, whose ring stands in the DIRECT range; the code region at 0x100000. -/
def loadIt : LoadRequest :=
  { bytes := container, params := [], launchIds := [7], queueIds := [9], counterIds := [], rings := [0x30000],
    vbases := [0x200000, 0x100000], pbases := [0x200000, 0x100000], constAt := (0, 0), codeAt := (0, 0), mailbox := none }

theorem witness_LaunchesRun_container : headerOk container = true ∧ sectionsOf container = some sections ∧
    headerOk (container.set 6 1) = false := by decide +kernel

theorem witness_LaunchesRun_tables : tablesOf sections = some tables ∧ countsOk sections 1 = true ∧ tables.ok 1 = true ∧
    canvasRecsOk (bytesOf sections 7) = true ∧ (on core0).needsOk container = true ∧ tokensOk (bytesOf sections 5) 1 = true ∧
    tables.ok 2 = false := by decide +kernel

theorem witness_LaunchesRun_load :
    (match (on core0).loadTables 0 loadIt sections tables with
      | some v => (v.launch? 0 7).map (·.state) == some .loaded && (v.queue? 0 9).map (fun q => q.slots.length) == some 2
      | none => false) = true := by decide +kernel

/-- A node that is to go in either way, and one that a pre-emption meets while it is to end already. -/
theorem witness_NodesArePreempted_stays :
    (attempt 0 false).CanGo 0 none ∧ ¬ (lingering none true).CanGo 0 none ∧ ((lingering none true).coreAt 0).node.pinned = false ∧
    ((lingering (some .discard) true).coreAt 0).node.ending ≠ none ∧ ((lingering (some .discard) false).coreAt 0).node.pm = true :=
  ⟨⟨by decide, fun x _ => Or.inr (by cases x <;> decide)⟩, fun h => absurd (h.rest .V (by decide)) (by decide), by decide⟩

/-- Port 0 up, and decoder 0 committed at 2^40. -/
def hosted : State := { on core0 with ports := [(0, { Port.reset with up := true })], hdm := [(0, 2 ^ 40)] }

theorem witness_OutsideAccessesAreServed : hosted.decoderOf (2 ^ 40) 16 = some (0, 0) ∧ hosted.spaceGate 0 0 16 true = .clear ∧
    hosted.decoderOf (2 ^ 40 + 4 * 2 ^ 29 - 1) 1 = some (0, 4 * 2 ^ 29 - 1) ∧ hosted.decoderOf (2 ^ 40 + 4 * 2 ^ 29 - 1) 2 = none ∧
    hosted.decoderOf (2 ^ 40 + 4 * 2 ^ 29) 1 = none ∧ hosted.mem.wf = true ∧
    hosted.decoderOf (2 ^ 40 - 1) 1 = none ∧ hosted.hostDir.length < 2097152 ∧ (hosted.ports.get 0 Port.reset).fallbk = false := by decide

theorem witness_OutsideAccessesAreServed_held :
    ({ hosted with migration := { hosted.migration with st := .blocked, src := 0, dst := 9 } } : State).spaceGate 0 0 16 false = .page ∧
    ({ hosted with ports := [(0, { Port.reset with up := true, chg := true })] } : State).spaceGate 0 0 16 true = .port 0 none ∧
    ({ hosted with ports := [(0, { Port.reset with up := true, chg := true })] } : State).spaceGate 0 0 16 false = .clear ∧
    (∃ h ∈ ({ hosted with hostDir := [{ line := 0, part := 0, dirty := [] }] } : State).hostDir, h.line = hosted.spacePa 0 0 / 128) := by decide

/-- The directory full of lines, the oldest line first. -/
theorem witness_OutsideAccessesAreServed_full : let l := (List.range 2097152).map (fun i => ({ line := i + 1, part := 0, dirty := [] } : HostLine))
    2097152 ≤ l.length ∧ (∃ t, l = { line := 1, part := 0, dirty := [] } :: t ∧ ∀ x ∈ t, x.line ≠ 1) ∧ ∀ x ∈ l, x.line ≠ hosted.spacePa 0 0 / 128 := by
  refine ⟨by simp, ⟨(List.range 2097151).map (fun i => { line := i + 2, part := 0, dirty := [] }), ?_, by simp⟩, ?_⟩
  · rw [show (2097152 : Nat) = 2097151 + 1 from rfl, List.range_succ_eq_map]
    simp [Function.comp_def]
  · have h : hosted.spacePa 0 0 / 128 = 0 := by decide
    simp [h]

theorem witness_OutsideAccessesAreServed_inbound :
    ({ on core0 with inb := [(0, 0x8000000000000000)] } : State).inboundOf 0 16 = some (0, 0) ∧
    ({ on core0 with inb := [(0, 0x8000000000000000)] } : State).inboundOf (4 * 2 ^ 29 - 16) 16 = some (0, 4 * 2 ^ 29 - 16) ∧
    ({ on core0 with inb := [(0, 0x8000000000000000)] } : State).inboundOf (4 * 2 ^ 29 - 15) 16 = none ∧
    128 * 0x1FFFFFFFFF < 0x100000000000 := by decide

theorem witness_OutsideAccessesAreServed_ports :
    (wideOn core0).portOf (fabricWindow (128 * (0x100000000000 / 128))) = some 1 ∧ ((wideOn core0).ports.get 1 Port.reset).up = true ∧
    ((wideOn core0).ports.get 1 Port.reset).chg = false ∧ (wideOn core0).portOf (fabricWindow 0x110000000000) = none ∧
    ({ wideOn core0 with inb := [(0, 0x8000000000000000)] } : State).inboundOf 0 16 = some (0, 0) ∧
    ({ wideOn core0 with inb := [(0, 0x8000000000000000)] } : State).spaceGate 0 0 16 false = .clear := by decide

/-- Newt has booted; port n is down. -/
def booted : State := { on core0 with boot := { Boot.reset with booted := true } }

theorem witness_LinksAndRegistersFollow : (12 : Nat) ≤ Config.fabricPorts booted.config.variant ∧ (booted.portAt 12).up = false ∧
    booted.boot.failed = false ∧ Config.fabricPorts booted.config.variant < 13 ∧ (hosted.portAt 0).up = true ∧
    ({ on core0 with ports := [(3, { Port.reset with up := true, chg := true })] } : State).portAt 3 = { Port.reset with up := true, chg := true } := by
  decide

/-- Bring-up is over; port 3 changes its width, and its partner asks for the last of what has left by it. -/
def asked : State :=
  { booted with
    boot := { booted.boot with ready := true }, ports := [(3, { Port.reset with up := true, chg := true })],
    around := { ends := [], flaw := none, asks := [(3, 1)] }, sent := [.completerAbort 3, .completion 3 [] false] }

theorem witness_LinksAndRegistersFollow_width : asked.boot.ready = true ∧ asked.boot.booted = true ∧ asked.boot.failed = false ∧
    (asked.portAt 3).chg = true ∧ (asked.portAt 3).ordq = [] ∧ (asked.portAt 3).stalled = [] ∧
    asked.around.asks.find? (fun e => e.1 == 3) = some (3, 1) ∧
    (asked.retryOf 3).drop ((asked.retryOf 3).length - 1) = [.completion 3 [] false] ∧ (∀ e ∈ asked.around.asks, e.1 ≠ 4) := by decide

theorem witness_LinksAndRegistersFollow_down :
    posted.cmdAt 0 0 = some ringStep ∧
    posted.usesPort ringStep 1 = true ∧ (posted.portAt 1).up = true ∧
    (posted.coreAt 0).node.gang = [] ∧ (posted.portAt 1).ordq = [] ∧
    (∀ h ∈ (hosted.portAt 0).ordq ++ (hosted.portAt 0).stalled, h.own = false) ∧
    (∀ h ∈ ({ Port.reset with ordq := [.strand 0 .S] } : Port).ordq, ∀ c id r d, h ≠ .engine c id r d) := by
  refine ⟨by decide, by decide, by decide, by decide, by decide, by decide, ?_⟩
  intro h hh; simp at hh; subst hh; intros; exact Held.noConfusion

/-- A strand of core 0 that waits for an access to host memory at 0x60000. -/
def awaitingHost : State :=
  { onPart { part0 with active := part0.active ++ [(4, { w0 := 0x60000, w1 := BitVec.ofNat 64 (2 ^ 63 + 16 * 2 ^ 50 + 0xC1), w2 := 0x10000000000, w3 := 0 })] }
      (withX ({ core0 with strands := tab 4 (fun n => { strandAt with cond := if n = 0 then .memory (.ldD t0 3 1 0) else .ended }) }) [(1, 0x60000)]) with
    ports := [(0, { Port.reset with up := true })] }

theorem witness_LinksAndRegistersFollow_host : awaitingHost.inFlightHost 0 .S = some 0x60000 ∧ awaitingHost.inFlightHost 0 .V = none ∧
    hosted.inFlightHost 0 .S = none ∧ (awaitingHost.portAt 0).up = true ∧ (awaitingHost.cores.find 0).isSome = true ∧
    (awaitingHost.coreAt 0).node.gang = [] := by decide

theorem witness_LinksAndRegistersFollow_registers :
    (on core0).inChannels 0 0x10000 65792 = true ∧ (on core0).inChannels 0 (4 * 2 ^ 29 - 65792) 65792 = true ∧
    (on core0).inChannels 0 (4 * 2 ^ 29 - 65791) 65792 = false ∧ (on core0).spaceOf 0 = 4 * 2 ^ 29 ∧ 2 ^ 40 < 1023 * 2 ^ 30 + 4 * 2 ^ 29 := by
  decide

theorem witness_TelemetryAndControlWrites :
    (on core0).inChannels 0 0x10000 44608 = true ∧ (on core0).inChannels 1 0x10000 1 = false ∧
    (onPart { part0 with tel := { Telemetry.reset with cdump := 0x8000000000010000 } } core0).part 0 =
      { part0 with tel := { Telemetry.reset with cdump := 0x8000000000010000 } } ∧
    ({ Telemetry.reset with sampctl := 0x101 } : Telemetry).sampctl.getLsbD (Strand.num .S) = true ∧
    ({ Telemetry.reset with sampctl := 0x101 } : Telemetry).sampctl.toNat / 2 ^ 8 % 2 ^ 24 ≠ 0 ∧
    Telemetry.reset.dumped < ({ on core0 with cycle := 85000 } : State).gtc / 100000 ∧
    ({ on core0 with cycle := 84999 } : State).gtc / 100000 ≤ Telemetry.reset.dumped := by decide

/-- Partition 0 with its trace ring of two slots enabled at 0x30000 of device memory, sampling S every 5 cycles. -/
def tracing (sampled : Table Nat) : State :=
  { onPart { part0 with tel := { Telemetry.reset with trctl := 0x8000000000030001, sampctl := 0x501, sampled := sampled } } core0 with
    cycle := 12, mem := Memory.write [] 0x30000 2 }

theorem witness_TelemetryAndControlWrites_sample :
    ((tracing []).coreAt 0).node.phase ≠ .idle ∧ ((tracing []).part 0).tel.sampled.find (4 * 0 + Strand.num .S) = none ∧
    ((tracing [(0, 7)]).part 0).tel.sampled.find 0 = some 7 ∧ 7 + 5 ≤ (tracing [(0, 7)]).cycle ∧ ¬ 8 + 5 ≤ (tracing [(0, 8)]).cycle ∧
    (tracing []).mem.wf = true ∧ (tracing []).movingPages = [] ∧ ((tracing []).part 0).tel.trctl.toNat / 2 ^ 8 % 2 ^ 40 * 256 = 0x30000 ∧
    ¬ ((tracing []).mem.readNat 0x30000 8 + 2 ^ 64 - (tracing []).mem.readNat 0x30080 8) % 2 ^ 64 < 2 ^ (((tracing []).part 0).tel.trctl.toNat % 2 ^ 5) ∧
    (0 + 2 ^ 64 - 0) % 2 ^ 64 < 2 ^ 1 ∧
    (match State.fetch { tracing [] with core := 0 } .S 0x10000 with | .word w => w == 0 | _ => false) = true := by decide

theorem witness_PackageControllerActs : bankOk (State.reset.boot.bank State.reset.boot.next) = true ∧
    bankOk { FlashImage.reset with fwSigOk := false } = false ∧ booted.boot.ready = false ∧ booted.railsOff = false ∧
    booted.partOf 640 = none ∧ booted.partOf 0 = some 0 ∧ booted.coreRepair? 0 = none ∧ booted.boot.booted = true ∧ booted.boot.failed = false ∧
    (let s : State := { booted with around := { ends := [(0, .flit68), (1, .flit256)], flaw := some 4, asks := [] } }
     s.around.ends.find? (fun e => e.1 == 1) = some (1, .flit256) ∧ s.around.flaw = some 4 ∧ booted.around.flaw = none) ∧
    bankOk ({ Boot.reset with bankA := { FlashImage.reset with recSigOk := false } }.bank false) = false := by
  refine ⟨by decide, by decide, by decide, by decide, by decide, by decide, by decide, by decide, by decide, by decide, by decide⟩

theorem witness_MemoryStaysCanonical : State.reset.mem.wf = true ∧ goes (step State.reset) (fun t => t.mem.wf) = true ∧
    goes (step (State.reset.withFetchWord 32 0x00461100)) (fun t => t.mem.wf && decide (t.mem.length = 4)) = false := by decide


/-! ## Ill-formed terms: one for each check of WellFormed -/

theorem test_illFormed_scalar :
    Instr.wellFormed (.bfx t0 3 1 40 24) = false ∧ Instr.wellFormed (.bfi t0 3 1 63 1) = false ∧
    Instr.wellFormed (.crd t0 3 0x065) = false ∧ Instr.wellFormed (.cwr t0 1 0x022) = false ∧
    Instr.wellFormed (.bfx t0 3 1 40 23) = true := by decide

theorem test_illFormed_vector :
    Instr.wellFormed (.vadd t0 4 4 1 0 0 1) = false ∧ Instr.wellFormed (.vadd t0 4 1 4 0 0 2) = false ∧
    Instr.wellFormed (.vadd t0 4 1 2 1 0 0) = false ∧ Instr.wellFormed (.vcmpEq t0 0 1 2 0 0) = false ∧
    Instr.wellFormed (.kand t0 0 1 2) = false ∧ Instr.wellFormed (.kand t0 8 1 2) = false ∧
    Instr.wellFormed (.vcvt t0 0 4 1 0 0 0 0) = false ∧ Instr.wellFormed (.vcvt t0 0 4 1 13 0 0 0) = false ∧
    Instr.wellFormed (.vcvtSr t0 0 4 1 7 0 0 0) = false ∧ Instr.wellFormed (.vld t0 4 1 14 0 0 0) = false ∧
    Instr.wellFormed (.vsplit3 t0 4 1 0 0 0 0) = false ∧ Instr.wellFormed (.vldf t0 4 1 6 0 0 0) = false ∧
    Instr.wellFormed (.vstf t0 6 1 2 0 0) = false := by decide

theorem test_illFormed_matrix_copy :
    Instr.wellFormed (.mwldSlot t0 0 13 0) = false ∧ Instr.wellFormed (.mwldSlot t0 0 3 1) = false ∧
    Instr.wellFormed (.mmf t0 2 4 5 5) = false ∧ Instr.wellFormed (.mconst t0 2 1 2 4) = false ∧
    Instr.wellFormed (.mconst t0 2 1 2 0) = false ∧ Instr.wellFormed (.madr t0 2 4 5 7) = false ∧
    Instr.wellFormed (.madrSr t0 2 4 5 0) = false ∧ Instr.wellFormed (.ccopy1d t0 11 0 0 0) = false ∧
    Instr.wellFormed (.ccopy1d t0 10 1 0 0) = false ∧ Instr.wellFormed (.ccopy1d t0 10 1 1 6) = false ∧
    Instr.wellFormed (.ccopy1d t0 10 1 1 7) = true := by decide

/-- Reserved bits: a set bit in a field that the row fixes at zero gives no row (R101). -/
theorem test_reserved_bits :
    decode .S 0x00461120 = .error .unassigned ∧ decode .S 0x07401001 ≠ .error .unassigned ∧
    decode .S 0x07421001 = .error .unassigned ∧ decode .C 0x0090FC01 = .error .unassigned ∧ decode .S 0x0C460065 = .error .illegalField := by
  refine ⟨rfl, ?_, rfl, rfl, rfl⟩
  exact fun h => by cases h

/-- The first step after reset with a word placed runs it (log 11): the strand has gone on to the next word. -/
theorem test_withFetchWord :
    decodeTableWord 32 0x00461100 = some (.add t0 3 1 2) ∧ decodeTableWord 24 0x00461100 = none ∧
    goes (step (State.reset.withFetchWord 32 0x00461100)) (fun t => ((t.coreAt 0).strand .S).pc == 0x10004) = true := by decide

/-! ## Single steps, with results worked out by hand -/

/-- The result in x3 of an instruction on two operands in x1 and x2. -/
def result (i : Instr) (a b : Word) (v : Word) : Bool := goes (exec i (on (withX core0 [(1, a), (2, b)]))) (fun t => t.me.getX 3 == v)

/-- R133: sums wrap; the high half of (-1)·(-1) is 0 signed and 2^64 - 2 unsigned. -/
theorem test_add_mulh : result (.add t0 3 1 2) (-1) 2 1 ∧ result (.sub t0 3 1 2) 0 1 (-1) ∧ result (.mulh t0 3 1 2) (-1) (-1) 0 ∧
    result (.mulhU t0 3 1 2) (-1) (-1) 0xFFFFFFFFFFFFFFFE := by decide

/-- R134: division by zero, the one overflow, and signs of remainders. -/
theorem test_div : result (.div t0 3 1 2) 7 0 (-1) ∧ result (.rem t0 3 1 2) 7 0 7 ∧
    result (.div t0 3 1 2) 0x8000000000000000 (-1) 0x8000000000000000 ∧ result (.rem t0 3 1 2) (-7) 2 (-1) ∧
    result (.divU t0 3 1 2) (-7) 2 0x7FFFFFFFFFFFFFFC := by decide

/-- R135, R136: counts of zero bits of 0, a field's sign, a funnel of two words. -/
theorem test_bits : result (.clz t0 3 1) 0 0 64 ∧ result (.ctz t0 3 1) 8 0 3 ∧ result (.bfx t0 3 1 4 3) 0x80 0 (-8) ∧
    result (.bfxU t0 3 1 4 3) 0x80 0 8 ∧ result (.fsh t0 3 1 2 4) 0xF 0x10 0xF000000000000001 := by decide

/-- R133: shift counts are taken modulo 64, and the arithmetic shift copies the sign. -/
theorem test_shift : result (.sll t0 3 1 2) 1 65 2 ∧ result (.sra t0 3 1 2) (-8) 1 (-4) ∧ result (.srlImmediate t0 3 1 63) (-1) 0 1 := by
  decide

/-- R137: `lui` places its immediate, sign-extended, at bit 16. -/
theorem test_lui : result (.lui t0 3 0x10000) 0 0 0xFFFFFFFF00000000 ∧ result (.orsh t0 3 0xFFFF) 0 0 0xFFFF := by decide

/-- R138, R139: a backward branch, and `jalr` whose xd is its xa. -/
theorem test_jump :
    goes (exec (.blt t0 1 2 0xFFF) (on (withX core0 [(1, -1), (2, 0)]))) (fun t => (t.me.strand .S).pc == 0xFFFC) = true ∧
    goes (exec (.bltU t0 1 2 0xFFF) (on (withX core0 [(1, -1), (2, 0)]))) (fun t => (t.me.strand .S).pc == 0x10004) = true ∧
    goes (exec (.jalr t0 1 1 1) (on (withX core0 [(1, 0x10020)]))) (fun t => (t.me.strand .S).pc == 0x10024 && t.me.getX 1 == 0x10004) = true := by
  decide

/-- R151: 1 + 2 = 3, 1 / 0 = ∞, and a conversion toward zero of -1.5, in FP32. -/
theorem test_float : result (.fadd t0 3 1 2 0) 0x3F800000 0x40000000 0x40400000 ∧ result (.fdiv t0 3 1 2 0) 0x3F800000 0 0x7F800000 ∧
    result (.fcvtToI64 t0 3 1 0 1) 0xBFC00000 0 (-1) ∧ result (.fcvtFromI64 t0 3 1 1 0) (-2) 0 0xC000000000000000 := by decide

/-- R142, R143: a halfword with its sign from a DIRECT range, and a store into the scratchpad that leaves memory alone. -/
theorem test_memory :
    goes (exec (.ldH t0 3 1 0) { on (at1 0x30000 0) with mem := [(0x20000, 0x34), (0x20001, 0x92)] }) (fun t => t.me.getX 3 == 0xFFFFFFFFFFFF9234)
      = true ∧
    goes (exec (.stW t0 2 1 4) (on (at1 0xFFFFFFFFFFF80000 0x11223344))) (fun t => t.me.window.readNat 4 4 == 0x11223344 && t.mem == []) = true ∧
    goes (exec (.stW t0 2 1 0) (on (at1 0x30004 0x11223344))) (fun t => t.mem.readNat 0x20004 4 == 0x11223344 && t.me.node.pinned) = true ∧
    goes (exec (.stW t0 2 1 0) (on (at1 0x20004 0x11223344))) (fun t => t.mem == [] && t.nodeByte 0 0x10007 == 0x11) = true := by decide

/-- R148: a compare and swap that holds, and an unsigned-looking minimum that is signed. -/
theorem test_atomic :
    goes (exec (.amoCas t0 3 1 2 0 0) { on (withX core0 [(1, 0x30000), (2, 9), (3, 5)]) with mem := [(0x20000, 5)] })
      (fun t => t.mem == [(0x20000, 9)] && t.me.getX 3 == 5) = true ∧
    goes (exec (.amoMin t0 3 1 2 0 0) { on (withX core0 [(1, 0x30000), (2, 0xFFFFFFFF)]) with mem := [(0x20000, 5)] })
      (fun t => t.mem.readNat 0x20000 4 == 0xFFFFFFFF) = true := by decide

/-- R58, R281: a misaligned load traps with cause 0x08 on S, TVAL its address, TEPC its PC. -/
theorem test_trap :
    goes (exec (.ldW t0 3 1 0) (on (at1 0x20002 0))) (fun t => t.me.tcause == 0x08 && t.me.tval == 0x20002 && t.me.tepc == 0x10000 && t.me.sup)
      = true ∧
    goes (exec (.trap t0 0xABC) (on core0)) (fun t => t.me.tcause == 0x13 && t.me.tval == 0xABC && t.me.tepc == 0x10004) = true := by decide

/-- R55, R66: a write of TWIN keeps its 48 bits, from the next cycle on; reserved bits read zero. -/
theorem test_cwr : goes (exec (.cwr t0 1 0x020) (on (at1 (-1) 0))) (fun t => t.me.twin == core0.twin && (t.pass 1).me.twin == 0xFFFFFFFFFFFF) = true ∧
    goes (exec (.crd t0 3 0x001) (on core0)) (fun t => t.me.getX 3 == 0) = true := by decide

/-- R177, R191: lanes add; the sum of sixty-four ones is 64; the result enters lat0. -/
theorem test_vector :
    goes (exec (.vadd t0 4 1 2 0 0 0) (on floats)) (fun t => (t.me.getV 4).lane 63 == 0x40400000 && (vget t.me.lat 0 Latch.cleared).valid) = true ∧
    goes (exec (.vredAdd t0 4 1 0 0 0) (on floats)) (fun t => (t.me.getV 4).lane 0 == 0x42800000 && (t.me.getV 4).lane 1 == 0) = true := by
  decide

/-- R186: lanes of index below 32 in k3; R192: the prefix sum 0 + 1 + 2 + 3. -/
theorem test_masks :
    goes (exec (.vcmpLt t0 3 3 4 0 0) (on (floats.setV 4 (vreg 1 (fun _ => 32))))) (fun t => t.me.getK 3 == 0xFFFFFFFF) = true ∧
    goes (exec (.vscanAdd t0 4 3 0 0 0) (on floats)) (fun t => (t.me.getV 4).lane 3 == 6) = true := by decide

/-- R205: an overflow at the scale's floor counts; the eighth traps. -/
theorem test_lossScale : (lscStep 0x60000000000F0000 true).isSome = true ∧ (lscStep 0x70000000000F0000 true).isNone = true := by decide

/-- R225: one row of ones with a plane of ones under I8, one band: 16 in each word. -/
theorem test_product :
    goes (exec (.mPathRetire 0 false)
      (on { mcore with
        window := Memory.writeBytes [] 0x1000 (List.replicate 16 1), live := { vals := tab 64 (fun _ => tab 64 (fun _ => 1)), tag := 4 },
        mq := [{ mentry .array (.mmf t0 2 1 2 4) with r1 := 0x00400000 }] }))
      (fun t => ((t.coreAt 0).getTile 2).word 0 63 == 16 && ((t.coreAt 0).getTile 2).word 1 0 == 0) = true := by decide

/-- R262: a fill of 16 bytes in a slot repeats its eight bytes. -/
theorem test_fill :
    goes (exec (.copyComplete 0 0) (engine [{ cmdOf 6 (some 3) 0 .executing with src := 0x0807060504030201 }] (qcore 0 0)))
      (fun t => (t.coreAt 0).window.readNat 0 16 == 0x08070605040302010807060504030201) = true := by decide

/-- R335 to R337: a delivery that reaches the total fires the counter. -/
theorem test_counter :
    goes (exec (.counterDelivery 0) (delivering counting 16)) (fun t => (t.counter 5).phase == 4 && (t.counter 5).count == 0) = true := by decide

/-- R26, R73: a saved tag 0xE comes back as POISON, and PSNA is its offset. -/
theorem test_restoredTag : restoredTag [0x7E] 0 0 = 0xF ∧ restoredTag [0x7E] 0 1 = 0x7 := by decide

/-- R278, R284: a rollback waits for the load of another strand; the step in which that strand has stopped ends the node. -/
theorem test_rollbackWaits :
    goes (exec (.rollback 0 .S) (lingering none true)) (fun t => (t.coreAt 0).node.phase == .running && (t.coreAt 0).node.ending.isSome &&
      ((t.coreAt 0).strand .S).frozen) = true ∧
    ((lingering (some (.rollback 0x20 0 0 0 3)) false).settle.coreAt 0).node.phase = .idle := by decide

/-- R116, R117: between a `vadd` and the `vmov` that reads its latch after two passes of a body that yields nothing, the strand
stands inside a chain, whether or not it has passed the body's first return. -/
theorem test_chainThroughReturns :
    let code (pc : Word) (loops : List Loop) : State :=
      { on { core0.updStrand .V (fun x => { x with pc := pc }) with
          loops := loops, chain := [⟨0x10000, true, none, false, false, false, false, false⟩] } with
        mem := Memory.writeBytes [] 0 ([encode (.vadd t0 4 1 2 0 0 0), encode (.vloop t0 1 0), encode (.knot t0 7 1),
          encode (.vmov t0 4 0 0 0 1)].flatMap (fun w => leBytes 4 w.toNat)) }
    (code 0x10004 []).vInside = some 0 ∧ (code 0x10008 [⟨0x10008, 0x10008, 2⟩]).vInside = some 0 ∧
    (code 0x10008 [⟨0x10008, 0x10008, 1⟩]).vInside = some 0 := by decide

/-- R444: of records due at one GTC the lower core's stands first in the queue. -/
theorem test_recordsInOrder :
    let r (c : Nat) : Due := { part := 0, gtc := 7, err := { kind := 1, cause := 0, core := c } }
    let s : State := { on core0 with eqbase := [(0, 0x8000000000030000)], due := [r 3, r 1] }
    s.enterDue.mem.readNat 0x30000 8 = 2 ∧ (r 1).before (r 3) = true ∧ (r 3).before (r 1) = false ∧
    s.enterDue.mem.readBytes 0x30100 64 = (r 1).err.bytes 7 := by decide

/-- R449, R453: a cap of 100 W is below the floor of 190 W. -/
theorem test_cap : goes (exec (.capw 100) (on core0)) (fun t => t.belowFloor && (t.coreAt 0).limit == 0) = true := by decide

end Sys2Proof.Tests
end

section
/-! The FIFOs that the token fields name (R65). -/

namespace Sys2Proof.Machine

/-- R65: a strand's push codes name three FIFOs in a row, those from it to the streams counted forward from it. -/
theorem pushFifo_codes (st : Strand) :
    [pushFifo st 1, pushFifo st 2, pushFifo st 3] = [3 * st.num, 3 * st.num + 1, 3 * st.num + 2] := rfl

/-- R65: the stream `code` places ahead, from which a strand pops, stands `4 - code` places behind it in the circle
S, V, M, C, S; so its push code for the same FIFO is the negative of the pop code. -/
theorem popFifo_eq_pushFifo (st : Strand) (code : BitVec 2) (h : code ≠ 0) :
    popFifo st code = pushFifo (Strand.ofNum (st.num + code.toNat)) (-code) := by
  revert code
  cases st with
  | S => decide
  | V => decide
  | M => decide
  | C => decide

/-- The pop codes of a strand by the push codes of the three streams ahead of it. -/
theorem popFifo_codes (st : Strand) :
    [popFifo st 1, popFifo st 2, popFifo st 3] =
      [pushFifo (Strand.ofNum (st.num + 1)) 3, pushFifo (Strand.ofNum (st.num + 2)) 2,
        pushFifo (Strand.ofNum (st.num + 3)) 1] := by
  rw [popFifo_eq_pushFifo st 1 (by decide), popFifo_eq_pushFifo st 2 (by decide), popFifo_eq_pushFifo st 3 (by decide)]
  rfl

/-- Settles O8: the push codes by `pushFifo_codes`, and the pop codes by the push codes of the streams they pop from. -/
theorem tokenFieldsNameFifos : Obligations.TokenFieldsNameFifos := by
  constructor
  · simp only [pushFifo_codes]
    rfl
  · simp only [popFifo_codes]
    rfl

end Sys2Proof.Machine
end

section
/-! Branches (R138): one comparison of two registers, and one retirement at the word that it picks. -/

namespace Sys2Proof.Machine

/-- An instruction that pops its tokens and retires, with no effect on registers, leaves the core's data as they were. -/
theorem State.leaves_retire {s s1 : State} {st : Strand} {t : Tok} (h : s.popTok st t = some s1) (pc : Word) :
    s.Leaves (s1.retire st t pc) st t pc s.me where
  retired := .of_pop pc h rfl rfl
  me := by rw [State.me_retire_eq, (State.me_pop h).1]
  rest := (State.OnlyCore.pop h).trans (State.OnlyCore.retire _ _ _ _)

section Leaves

variable {s u : State} {st : Strand} {t : Tok} {pc : Word} (h : s.Leaves u st t pc s.me)
include h

theorem State.Leaves.x_eq : u.me.x = s.me.x := by rw [h.me]

theorem State.Leaves.onlyX : s.me.OnlyX u.me := by
  rw [Core.OnlyX, h.x_eq]
  exact h.me

theorem State.Leaves.sameStore : s.SameStore u := .of_core h.rest (by rw [h.me]) (by rw [h.me])

end Leaves

/-- The word at which a branch continues when its test on the registers of core k is c (R138). -/
def Core.branchTarget (k : Core) (xa xb : BitVec 5) (off : BitVec 12) (c : Word → Word → Bool) : Word :=
  if c (k.getX xa) (k.getX xb) then (k.strand .S).pc + 4 * off.signExtend 64 else (k.strand .S).pc + 4

section BranchTarget

variable {k : Core} {xa xb : BitVec 5} {off : BitVec 12} {c : Word → Word → Bool}

theorem Core.branchTarget_taken (h : c (k.getX xa) (k.getX xb) = true) :
    k.branchTarget xa xb off c = (k.strand .S).pc + 4 * off.signExtend 64 := if_pos h

theorem Core.branchTarget_untaken (h : ¬ c (k.getX xa) (k.getX xb) = true) :
    k.branchTarget xa xb off c = (k.strand .S).pc + 4 := if_neg h

end BranchTarget

/-- A branch has no check of its own, and the pop before it changes neither the registers that it compares nor its PC: it
retires at the target that the core before the pop gives. -/
theorem issueBranch_leaves {s s1 : State} {t : Tok} (h : s.Issues .S t s1) (i : Instr) (xa xb : BitVec 5)
    (off : BitVec 12) (c : Word → Word → Bool) :
    s.Leaves (issueBranch i t xa xb off c s) .S t (s.me.branchTarget xa xb off c) s.me := by
  obtain ⟨-, -, hpc, -⟩ := State.me_pop h.popped
  have hretire : issueBranch i t xa xb off c s = s1.retire .S t (s.me.branchTarget xa xb off c) := by
    rw [issueBranch, issue_done h rfl rfl]
    simp only [Core.branchTarget, State.getX_pop h.popped, hpc]
  rw [hretire]
  exact State.leaves_retire h.popped _

theorem sltW_iff (a b : Word) : sltW a b = true ↔ a.toInt < b.toInt := decide_eq_true_iff

theorem not_sltW_iff (a b : Word) : (!sltW a b) = true ↔ b.toInt ≤ a.toInt := by
  rw [Bool.not_eq_true', ← Bool.not_eq_true, sltW_iff, Int.not_lt]

/-- Each row of `branchRule` is executed as a branch whose test decides the row's comparison; the rows in order are `beq`,
`bne`, `blt`, `bge`, `blt.u` and `bge.u`. -/
theorem exec_of_branchRule {i : Instr} {t : Tok} {off : BitVec 12} {p : Core → Prop} (h : branchRule i = some (t, off, p)) :
    ∃ xa xb c, (∀ s, exec i s = .next (issueBranch i t xa xb off c s)) ∧ ∀ k : Core, c (k.getX xa) (k.getX xb) = true ↔ p k := by
  unfold branchRule at h
  split at h <;> cases h
  case h_1 xa xb => exact ⟨xa, xb, _, fun _ => rfl, fun _ => beq_iff_eq⟩
  case h_2 xa xb => exact ⟨xa, xb, _, fun _ => rfl, fun _ => bne_iff_ne⟩
  case h_3 xa xb => exact ⟨xa, xb, _, fun _ => rfl, fun _ => sltW_iff _ _⟩
  case h_4 xa xb => exact ⟨xa, xb, _, fun _ => rfl, fun _ => not_sltW_iff _ _⟩
  case h_5 xa xb => exact ⟨xa, xb, _, fun _ => rfl, fun _ => decide_eq_true_iff⟩
  case h_6 xa xb => exact ⟨xa, xb, _, fun _ => rfl, fun _ => decide_eq_true_iff⟩

/-- Settles O11: the branch retires at its target, and its test holds exactly when the rule's comparison does. -/
theorem branchesGoToTarget : Obligations.BranchesGoToTarget := by
  intro i t off p s s1 hrule h
  obtain ⟨xa, xb, c, hexec, hc⟩ := exec_of_branchRule hrule
  have hl := issueBranch_leaves h i xa xb off c
  refine ⟨_, hexec s, hl.rest, hl.sameStore, hl.onlyX, hl.x_eq, fun hp => ?_, fun hp => ?_⟩
  · rw [← Core.branchTarget_taken ((hc _).2 hp)]
    exact hl.retired
  · rw [← Core.branchTarget_untaken (mt (hc _).1 hp)]
    exact hl.retired

end Sys2Proof.Machine
end

section
/-! V instructions (R44, R116, R173): the registers that their sources come from, what payment changes, and what their
retirement leaves. -/

namespace Sys2Proof.Machine

/-- The registers that the sources and masks of a V instruction come from hold the same in both cores (R173). -/
structure Core.SameSources (k u : Core) : Prop where
  v : u.v = k.v
  lat : u.lat = k.lat
  masks : u.k = k.k

section SameSources

variable {k u : Core} (h : k.SameSources u)
include h

theorem Core.SameSources.getK (r : BitVec 3) : u.getK r = k.getK r := by rw [Core.getK, Core.getK, h.masks]

theorem Core.SameSources.src (sel : Bool) (r : BitVec 5) (code : Nat) : u.src sel r code = k.src sel r code := by
  simp only [Core.src, Core.getV, h.v, h.lat]

theorem Core.SameSources.va (va : BitVec 5) (ls : BitVec 2) : u.va va ls = k.va va ls := h.src _ _ _

theorem Core.SameSources.vb (vb : BitVec 5) (ls : BitVec 2) : u.vb vb ls = k.vb vb ls := h.src _ _ _

end SameSources

/-- A pop leaves the registers that sources come from. -/
theorem State.sameSources_pop {s s1 : State} {st : Strand} {t : Tok} (h : s.popTok st t = some s1) :
    s.me.SameSources s1.me := by
  rw [(State.me_pop h).1]
  exact ⟨rfl, rfl, rfl⟩

/-- The record of a V instruction among the past ones changes nothing else (R117). -/
theorem Core.recordV_rest (k : Core) (i : Instr) (t : Tok) (pc : Word) :
    k.recordV i t pc = { k with chain := (k.recordV i t pc).chain } := rfl

theorem State.me_charge (s : State) (c : Nat) : (s.charge c).me = { s.me with charges := (s.charge c).me.charges } := by
  unfold State.charge
  split
  · rfl
  · rw [State.me_updMe]

theorem State.me_bank (s : State) (l : List (BitVec 5)) : (s.bank l).me = s.me := by
  unfold State.bank
  split
  · exact State.me_count _ _ _
  · rfl

/-- An issued instruction pays with an entry in the window of charges alone (R448). -/
theorem VForm.me_pay (f : VForm) (s : State) : (f.pay s).me = { s.me with charges := (f.pay s).me.charges } :=
  calc (f.pay s).me = { (s.bank f.reads).me with charges := (f.pay s).me.charges } := State.me_charge _ _
    _ = { s.me with charges := (f.pay s).me.charges } := by rw [State.me_bank]

theorem VForm.onlyCore_pay (f : VForm) (s : State) : s.OnlyCore (f.pay s) :=
  (State.OnlyCore.bank _ _).trans (State.OnlyCore.charge _ _)

/-- The checks of R173 pass when the sources and the charge do, in a form without a check of its own. -/
theorem VForm.check_pass {f : VForm} {s : State} (hg : f.group = noGroup) (hs : srcChecks (f.srcs s.me) = .pass)
    (hp : s.powerCheck (f.cost s.me) = .pass) : f.check s = .pass := by
  simp only [VForm.check, hs, hg, noGroup, hp]

/-- A V instruction whose checks pass enters the record of past ones and takes its effect (R117, R173). -/
theorem issueV_done {i : Instr} {t : Tok} {chk : State → Check} {eff : State → State} {s s1 : State}
    (h : s.IssuesV i t s1) (hc : chk s1 = .pass) :
    issueV i t chk eff s = eff (s1.updMe (fun k => k.recordV i t (k.strand .V).pc)) :=
  issue_done h.issues rfl (by simp only [h.chain, hc]; rfl)

/-- Where the V strand goes on: at the next word, or at the first word of a body with passes left (R116). -/
def Core.nextV (k : Core) : Word := (loopBack (k.strand .V).pc k.loops).1.getD ((k.strand .V).pc + 4)

/-- A core at the end of a V instruction: its loops go on, and a way back to a body's first word clears the latches (R116). -/
def Core.endPass (k : Core) : Core :=
  { k with loops := (loopBack (k.strand .V).pc k.loops).2,
           lat := if (loopBack (k.strand .V).pc k.loops).1 = none then k.lat else k.dropLatches.lat }

/-- Retirement of a V instruction in one piece: the end of the pass, then the word that the strand goes to. -/
theorem State.retireV_eq (s : State) (t : Tok) : s.retireV t = (s.updMe Core.endPass).retire .V t s.me.nextV := by
  unfold State.retireV Core.nextV State.updMe Core.endPass
  cases h : (loopBack (s.me.strand .V).pc s.me.loops).1 with
  | none => simp only [h, if_true, State.retireNext, State.me_setMe]; rfl
  | some first => simp only [h]; rfl

theorem Core.valid_dropLatches (k : Core) {n : Nat} (hn : n < 4) (d : Latch) :
    (vget k.dropLatches.lat n d).valid = false := by
  simp [vget, vmap, Core.dropLatches, hn]

/-- A V instruction that pops its tokens, makes of the core what k holds but for the record of past instructions and the
window of charges, and retires. -/
theorem State.leavesV_of_pop {s s1 s2 : State} {t : Tok} {k : Core} (h : s.popTok .V t = some s1) (ho : s1.OnlyCore s2)
    (hloops : k.loops = s.me.loops)
    (hme : s2.me = { k with tk := s1.me.tk, strands := s1.me.strands, chain := s2.me.chain, charges := s2.me.charges,
                            now := { k.now with popped := s1.me.now.popped } }) :
    s.LeavesV (s2.retireV t) t k := by
  have hstrands : s2.me.strands = s1.me.strands := by rw [hme]
  have htk : s2.me.tk = s1.me.tk := by rw [hme]
  have hlat : s2.me.lat = k.lat := by rw [hme]
  have hpc : (s2.me.strand .V).pc = (s.me.strand .V).pc := by
    rw [← (State.me_pop h).2.2.1, Core.strand, Core.strand, hstrands]
  have hback : loopBack (s2.me.strand .V).pc s2.me.loops = loopBack (s.me.strand .V).pc s.me.loops := by
    rw [hpc, hme, ← hloops]
  have hpass : (s2.retireV t).me.lat =
      if (loopBack (s.me.strand .V).pc s.me.loops).1 = none then k.lat else s2.me.dropLatches.lat := by
    rw [State.retireV_eq, State.me_retire_eq, State.me_updMe, ← hback, ← hlat]
    rfl
  refine ⟨?_, ?_, fun hn => by rw [hpass, if_pos hn], fun hn n hlt => ?_, ?_⟩
  · rw [State.retireV_eq, Core.nextV, hback, hpc]
    refine .of_pop _ h ?_ ?_ <;> rw [State.me_updMe, Core.endPass]
    exacts [hstrands, htk]
  · rw [State.retireV_eq, State.me_retire_eq, State.me_updMe, Core.endPass, hme]
  · rw [hpass, if_neg hn]
    exact Core.valid_dropLatches _ hlt _
  · rw [State.retireV_eq]
    exact (State.OnlyCore.pop h).trans (ho.trans ((State.OnlyCore.updMe _ _).trans (State.OnlyCore.retire _ _ _ _)))

end Sys2Proof.Machine
end

section
/-! Masks (R186, R187): the bits that a compare or a mask operation writes, and the registers that can take them. -/

namespace Sys2Proof.Machine

/-- The number whose bits below n are given is below 2^n. -/
theorem bitSum_lt (f : Nat → Bool) (n : Nat) : (List.range n).foldl (fun a i => a + b2n (f i) * 2 ^ i) 0 < 2 ^ n := by
  induction n with
  | zero => simp
  | succ n ih =>
    rw [List.range_succ, List.foldl_append, List.foldl_cons, List.foldl_nil, Nat.pow_succ]
    have hb : b2n (f n) * 2 ^ n ≤ 2 ^ n := by unfold b2n; split <;> simp
    omega

theorem testBit_bitSum (f : Nat → Bool) {n i : Nat} (h : i < n) :
    ((List.range n).foldl (fun a i => a + b2n (f i) * 2 ^ i) 0).testBit i = f i := by
  induction n with
  | zero => omega
  | succ n ih =>
    rw [List.range_succ, List.foldl_append, List.foldl_cons, List.foldl_nil, Nat.add_comm, Nat.mul_comm,
      Nat.testBit_two_pow_mul_add _ (bitSum_lt f n)]
    split
    · exact ih ‹_›
    · obtain rfl : i = n := by omega
      cases hf : f i <;> simp [b2n]

theorem getLsbD_maskOf (f : Nat → Bool) {i : Nat} (h : i < 64) : (maskOf f).getLsbD i = f i := by
  rw [maskOf, BitVec.getLsbD_ofNat, testBit_bitSum f h]
  simp [h]

theorem tagInt_eq_tagged (tag b : Nat) : tagInt tag b = tagged tag b := by
  have hw : 0 < tagWidth tag := by unfold tagWidth; split <;> decide
  rw [tagInt, tagged, signed_eq b hw]

theorem costArith_eq_chargeOf : costArith = chargeOf := by
  funext tag
  have hfmt : (tagFmt tag).isSome = true ↔ 6 ≤ tag ∧ tag ≤ 11 := by
    unfold tagFmt
    split <;> grind
  unfold costArith chargeOf
  simp only [hfmt]
  split_ifs <;> omega

/-- The relation of a compare is fr on values of a float tag and ir on the integers of another (R186). -/
structure Rel.Means (r : Rel) (fr : FVal → FVal → Bool) (ir : Int → Int → Bool) : Prop where
  float : ∀ {tag f} a b, tagFmt tag = some f → r.holds tag a b = fr (f.decode a) (f.decode b)
  int : ∀ {tag} a b, tagFmt tag = none → r.holds tag a b = ir (tagged tag a) (tagged tag b)

theorem Rel.means_eq : Rel.eq.Means FVal.eqv (fun x y => x == y) where
  float a b h := by simp only [Rel.holds, h]
  int a b h := by simp only [Rel.holds, h, tagInt_eq_tagged]

theorem Rel.means_ne : Rel.ne.Means (fun x y => !x.eqv y) (fun x y => x != y) where
  float a b h := by simp only [Rel.holds, h]
  int a b h := by simp only [Rel.holds, h, tagInt_eq_tagged]

theorem Rel.means_lt : Rel.lt.Means FVal.lt (fun x y => decide (x < y)) where
  float a b h := by simp only [Rel.holds, h]
  int a b h := by simp only [Rel.holds, h, tagInt_eq_tagged]

theorem Rel.means_le : Rel.le.Means FVal.le (fun x y => decide (x ≤ y)) where
  float a b h := by simp only [Rel.holds, h]
  int a b h := by simp only [Rel.holds, h, tagInt_eq_tagged]

/-- The form fm has the row's sources and charge and no check of its own, res writes the row's bit for each lane, and all
of it is read from the sources' registers. -/
structure VForm.WritesMask (fm : VForm) (res : Core → Word) (srcs : Core → List (Src × List Nat)) (cost : Core → Nat)
    (f : Core → Nat → Bool) : Prop where
  srcs_eq : fm.srcs = srcs
  cost_eq : fm.cost = cost
  group_eq : fm.group = noGroup
  bits : ∀ k n, n < 64 → (res k).getLsbD n = f k n
  srcs_congr : ∀ {k u : Core}, k.SameSources u → srcs u = srcs k
  cost_congr : ∀ {k u : Core}, k.SameSources u → cost u = cost k
  bits_congr : ∀ {k u : Core}, k.SameSources u → f u = f k

/-- R186: the mask of a compare holds its row's bits. -/
theorem VForm.WritesMask.compare {r : Rel} {fr : FVal → FVal → Bool} {ir : Int → Int → Bool} (hr : r.Means fr ir) (t : Tok)
    (kd : BitVec 3) (va vb : BitVec 5) (m : BitVec 3) (ls : BitVec 2) :
    let row := kRow.cmpRow t kd va vb m ls fr ir
    (formSame va vb ls cmpTags costArith).WritesMask (fun k => cmpMask r (k.getK m) (k.va va ls).val (k.vb vb ls).val)
      row.2.2.1 row.2.2.2.1 row.2.2.2.2 := by
  refine ⟨rfl, by rw [costArith_eq_chargeOf]; rfl, rfl, fun k n hn => ?_, fun hk => ?_, fun hk => ?_, fun hk => ?_⟩
  · rw [cmpMask, getLsbD_maskOf _ hn]
    cases hf : tagFmt (k.va va ls).tag with
    | none => simp only [kRow.cmpRow, hf]; exact congrArg (_ && ·) (hr.int _ _ hf)
    | some _ => simp only [kRow.cmpRow, hf]; exact congrArg (_ && ·) (hr.float _ _ hf)
  all_goals simp only [kRow.cmpRow, hk.va, hk.vb, hk.getK]

/-- R187: a mask operation reads no vector source, and its result holds the bits that it makes of masks. -/
theorem VForm.WritesMask.maskOp {res : Core → Word} {f : Core → Nat → Bool} (hb : ∀ k n, n < 64 → (res k).getLsbD n = f k n)
    (hc : ∀ {k u : Core}, k.SameSources u → f u = f k) : formNone.WritesMask res (fun _ => []) (fun _ => 20) f :=
  ⟨rfl, rfl, rfl, hb, fun _ => rfl, fun _ => rfl, hc⟩

/-- Each row of `kRow` is executed as an instruction that writes a mask, through a form that computes the row's mask. -/
theorem exec_of_kRow {i : Instr} {t : Tok} {kd : BitVec 3} {srcs : Core → List (Src × List Nat)} {cost : Core → Nat}
    {f : Core → Nat → Bool} (h : kRow i = some (t, kd, srcs, cost, f)) :
    ∃ fm res, (∀ s, exec i s = .next (issueMask i t kd fm res s)) ∧ fm.WritesMask res srcs cost f := by
  unfold kRow at h
  split at h <;> cases h
  case h_1 => exact ⟨_, _, fun _ => rfl, .compare Rel.means_eq t kd _ _ _ _⟩
  case h_2 => exact ⟨_, _, fun _ => rfl, .compare Rel.means_ne t kd _ _ _ _⟩
  case h_3 => exact ⟨_, _, fun _ => rfl, .compare Rel.means_lt t kd _ _ _ _⟩
  case h_4 => exact ⟨_, _, fun _ => rfl, .compare Rel.means_le t kd _ _ _ _⟩
  case h_5 => exact ⟨_, _, fun _ => rfl, .maskOp (fun _ _ _ => BitVec.getLsbD_and) fun hk => by simp only [hk.getK]⟩
  case h_6 => exact ⟨_, _, fun _ => rfl, .maskOp (fun _ _ _ => BitVec.getLsbD_or) fun hk => by simp only [hk.getK]⟩
  case h_7 => exact ⟨_, _, fun _ => rfl, .maskOp (fun _ _ _ => BitVec.getLsbD_xor) fun hk => by simp only [hk.getK]⟩
  case h_8 => exact ⟨_, _, fun _ => rfl, .maskOp (fun _ _ hn => by simp [hn]) fun hk => by simp only [hk.getK]⟩

/-- An instruction that writes a mask, past its checks, leaves the core with that mask register written and nothing else of
its own: the pop, the record and the payment before it change none of the sources. -/
theorem issueMask_leavesV {i : Instr} {t : Tok} {kd : BitVec 3} {fm : VForm} {res : Core → Word}
    {srcs : Core → List (Src × List Nat)} {cost : Core → Nat} {f : Core → Nat → Bool} {s s1 : State}
    (hw : fm.WritesMask res srcs cost f) (h : s.IssuesV i t s1) (hs : srcChecks (srcs s.me) = .pass)
    (hp : s1.powerCheck (cost s.me) = .pass) :
    ∃ w, s.LeavesV (issueMask i t kd fm res s) t (s.me.setK kd w) ∧ ∀ n, n < 64 → w.getLsbD n = f s.me n := by
  have hpop := h.issues.popped
  have hsame := State.sameSources_pop hpop
  have hcheck : fm.check s1 = .pass := by
    apply VForm.check_pass hw.group_eq
    · rw [hw.srcs_eq, hw.srcs_congr hsame, hs]
    · rw [hw.cost_eq, hw.cost_congr hsame, hp]
  rw [issueMask, issueV_done h hcheck]
  generalize hs2 : fm.pay (s1.updMe fun k => k.recordV i t (k.strand .V).pc) = s2
  have hme : s2.me = { s1.me with chain := s2.me.chain, charges := s2.me.charges } := by
    rw [← hs2, VForm.me_pay, State.me_updMe, Core.recordV_rest]
  have ho : s1.OnlyCore s2 := by
    rw [← hs2]
    exact (State.OnlyCore.updMe _ _).trans (VForm.onlyCore_pay _ _)
  have hsame2 : s.me.SameSources s2.me := by
    rw [hme]
    exact ⟨hsame.v, hsame.lat, hsame.masks⟩
  refine ⟨res s2.me, State.leavesV_of_pop hpop (ho.trans (State.OnlyCore.updMe _ _)) (by simp) ?_, fun n hn => ?_⟩
  · rw [State.me_updMe, hme, (State.me_pop hpop).1]
    unfold Core.setK
    split <;> rfl
  · rw [hw.bits _ _ hn, hw.bits_congr hsame2]

/-- What a stream's decoder gives is well-formed (R101). -/
theorem wellFormed_of_decode {st : Strand} {w : BitVec 32} {i : Instr} (h : decode st w = .ok i) : i.wellFormed = true := by
  unfold decode at h
  split at h
  · cases h
  · split at h
    · cases h; assumption
    · cases h

/-- A mask register that form K may name is not k0, read from its field in three bits (R43, R101). -/
theorem maskDest_setWidth_ne_zero {kd : BitVec 5} (h : WellFormed.maskDest kd = true) : kd.setWidth 3 ≠ 0 := by
  revert kd
  decide

/-- A well-formed instruction names no k0 as its destination (R43). -/
theorem kRow_dest_ne_zero {i : Instr} (h : i.wellFormed = true)
    {r : Tok × BitVec 3 × (Core → List (Src × List Nat)) × (Core → Nat) × (Core → Nat → Bool)} (hr : kRow i = some r) :
    r.2.1 ≠ 0 := by
  unfold kRow at hr
  split at hr <;> cases hr
  case h_5 | h_6 | h_7 | h_8 => exact maskDest_setWidth_ne_zero h
  all_goals
    simp only [Instr.wellFormed, Bool.and_eq_true, bne_iff_ne] at h
    exact h.2

/-- Settles O31: a mask or compare by its row's form, k0 by its own reading, and decoded words by their check. -/
theorem maskInstructionsComplete : Obligations.MaskInstructionsComplete := by
  refine ⟨fun i t kd srcs cost f s s1 hrow h hs hp => ?_, fun k => ⟨rfl, fun _ _ => rfl⟩,
    fun w i hdec r hr => kRow_dest_ne_zero (wellFormed_of_decode hdec) hr⟩
  obtain ⟨fm, res, hexec, hw⟩ := exec_of_kRow hrow
  obtain ⟨w, hleaves, hbits⟩ := issueMask_leavesV hw h hs hp
  exact ⟨_, w, hexec s, hleaves, hbits⟩

end Sys2Proof.Machine
end
